-- ==== Sys2Proof/Word.lean ====
section
/-!
DEFINITION. Word types of the Oluen 9: bytes and the 16-, 32- and 64-bit words that the spec adds, shifts
or masks, and the finite ranges that name its tiles, threads, registers, semaphores, ports and queues
(Table 0-7, Table 1-3).
-/
namespace Sys2Proof

abbrev Byte := BitVec 8
abbrev W16 := BitVec 16
abbrev W32 := BitVec 32
abbrev W64 := BitVec 64

/-- A tile by its logical place (R11, R18): 0-63 the compute tiles of Die A, 64-127 those of Die B,
128-131 the curvature tiles A.C0-A.C3, 132-135 B.C0-B.C3. -/
abbrev TileId := Fin 136
/-- A curvature tile: 0-3 = A.C0-A.C3, 4-7 = B.C0-B.C3 (TAP_CTILE of Table 3-5, TARGET of Table 10-9). -/
abbrev CTile := Fin 8
/-- A hardware thread of a tile (R214). -/
abbrev Thr := Fin 64
/-- A general register g0-g31 (R214). -/
abbrev Reg := Fin 32
/-- A semaphore of a tile (R228). -/
abbrev SemId := Fin 48
/-- A Sheica port P00-P15, and the link and collective engine that belongs to it (R241). -/
abbrev Port := Fin 16
/-- A quad: 0-15 A.Q0-A.Q15, 16 A.QC, 17-32 B.Q0-B.Q15, 33 B.QC (R418). -/
abbrev Quad := Fin 34
/-- A host queue pair (R330). -/
abbrev HQueue := Fin 64
/-- Sparse data by key: strictly rising keys, no entry equal to what an unlisted key reads as (`fwf`). -/
abbrev FMap (α : Type) := List (Nat × α)
/-- A memory: bytes by address, in the same form; an unlisted byte reads as zero (R213, R376, R198). -/
abbrev Mem := FMap Byte

end Sys2Proof
end

