-- ==== Sys2Proof/Syntax.lean ====
section
/-!
DEFINITION. The commands of the block: one constructor of `Instr` for every row of spec/opcode_table.json.
A row is a sequencer instruction that a thread issues, a descriptor that a unit runs, a packet, flit, message,
datagram or pin event that reaches the device, or a step the device itself takes (a completion, a timer).
Operands name the place the step acts on and what the outside of the device brings to it (bytes that arrive,
readings, a fault that the hardware meets). `SeqInstr` is the sequencer's instruction word (Tables 10-2 to 10-5).
-/
namespace Sys2Proof

/-- The three-register operations of Table 10-4. -/
inductive AluOp where
  | add | sub | and | or | xor | shl | shru | shrs | mul | mulhu | cmps | cmpu | mins | maxs | minu | maxu
  deriving DecidableEq, Repr

/-- The register-and-constant operations of Table 10-3, SHK, SETK and INSK apart. -/
inductive AluKOp where
  | addk | andk | ork | xork | cmpsk
  deriving DecidableEq, Repr

/-- K16[7:6] of SHK (Table 10-3). -/
inductive ShiftKind where
  | shl | shru | shrs
  deriving DecidableEq, Repr

/-- WIDTH of LD and ST (Table 10-2). -/
inductive Width where
  | w8 | w16 | w32 | w64
  deriving DecidableEq, Repr

/-- COND of BRZ (Table 10-2). -/
inductive Cond where
  | zero | nonzero | neg | nonneg | pos | nonpos
  deriving DecidableEq, Repr

/-- FN of CSR (Table 10-3). -/
inductive CsrFn where
  | read | write | set | clear
  deriving DecidableEq, Repr

/-- FN of SEM (Table 10-5). -/
inductive SemFn where
  | swait | sdec | ssig | sset | sread | ssigt | ssigr
  deriving DecidableEq, Repr

/-- FN of THR (Table 10-5). -/
inductive ThrFn where
  | tstart | texit | twake | tstop
  deriving DecidableEq, Repr

/-- A sequencer instruction word, decoded (R220). -/
inductive SeqInstr where
  | alu (op : AluOp) (d a b : Reg)
  | aluK (op : AluKOp) (d a : Reg) (k : W16)
  | shk (d a : Reg) (kind : ShiftKind) (n : Fin 64)
  | setk (d : Reg) (k : W16)
  | insk (d : Reg) (p : Fin 4) (k : W16)
  | ld (d a : Reg) (w : Width) (sg : Bool) (ofs : BitVec 13)
  | st (d a : Reg) (w : Width) (ofs : BitVec 13)
  | brz (c : Cond) (a : Reg) (k : W16)
  | call (d : Reg) (k : W16)
  | jumpr (d a : Reg) (k : W16)
  | csr (fn : CsrFn) (d a : Reg) (sel : BitVec 6)
  | sem (fn : SemFn) (d a b : Reg) (sel : BitVec 6) (k : Bool)
  | thr (fn : ThrFn) (d a b : Reg)
  | issue (d a b : Reg) (u : BitVec 3) (k : Bool)
  | qcancel (d : Reg) (u : BitVec 3) (own : Bool)
  | fence (d : Reg) (m : BitVec 3)
  deriving DecidableEq, Repr

/-- What a matrix drain meets (R294, Table 3-9): nothing; an upset that flips the bits `mask` of the result at a row and a
column of the block in one K visit (the checksum lane then decides whether its group is flagged); an uncorrectable error on
the network that carries the write-back. -/
inductive DrainFault where
  | none
  | upset (visit row col : Nat) (mask : W32)
  | network
  deriving DecidableEq, Repr

/-- What a vector instruction meets (R81, R298): nothing; a duplicate-and-compare mismatch in row or beat `n`; an upset that
flips the bits `mask` of a lane's result in a beat, which the shadow lane finds when it shadows that lane; an
uncorrectable error found in the line at scratchpad address `n` (R209). -/
inductive VFault where
  | none
  | duplicate (n : Nat)
  | lane (beat lane : Nat) (mask : W32)
  | ecc (n : Nat)
  deriving DecidableEq, Repr

/-- Where a memory-unit descriptor stands: entry `i` of the queue of tile `t` (unit 2 of Table 10-7), or entry
`i` of the accepted entries of the host queues (R331). -/
inductive MemSrc where
  | tile (t : TileId) (i : Nat)
  | host (i : Nat)
  deriving DecidableEq, Repr

/-- A unit of Table 9-10 that holds check bits: a scratchpad line; a line or sector of an allocation; a line of the second
slot of a mirror copy, or of a ring slot (R185, R300); a line of an HBM4 stack that no allocation owns: the reservation of
R193, or free space. -/
inductive MemUnit where
  | scratch (t : TileId) (addr : Nat)
  | alloc (id : W32) (off : Nat)
  | slot (id : W32) (n off : Nat)
  | hbm (stack : Fin 8) (addr : Nat)
  deriving DecidableEq, Repr

/-- A request to a lower tier whose transfer unit may pass its deadline (R206): a memory descriptor; the update or
preconditioning at the head of its tile's queue; the entry at the head of the slow-tier engine's queue; the program of a
Grinder; the sweep of a stream; the block job of a Percolator; the collective on a port's engine. -/
inductive LateReq where
  | mem (src : MemSrc)
  | update (t : TileId)
  | precondition (t : TileId)
  | slowTier
  | grinder (c : CTile)
  | sweep (c : CTile) (st : Fin 32)
  | percolator (c : CTile)
  | collective (p : Port)
  | image
  deriving DecidableEq, Repr

/-- What a Dot-Product Unit lane meets (R297): an error that the exact fixed-point sum differs by, in units of the lane's
grid; or a mismatch of its duplicated rounding, normalisation or correction step. -/
inductive LaneFault where
  | sum (err : Int)
  | rounder
  deriving DecidableEq, Repr

/-- What the FEC of a codeword finds (R243, R247): it decodes with so many symbols corrected, or it does not decode. -/
inductive Fec where
  | decoded (corrected : Nat)
  | failed
  deriving DecidableEq, Repr

/-- What the patrol scrub finds in a line (R208, R209). -/
inductive ScrubResult where
  | clean | corrected | uncorrectable
  deriving DecidableEq, Repr

/-- A host transfer message as it arrives (Table 14-3): its header fields and its data units. LEN is the number of data
units. -/
structure HostMsg where
  typ : Byte
  crc : W32
  seq : W32
  ackSeq : W32
  credit : W16
  tag : W16
  addr : W64
  arg : W32
  arg2 : W64
  data : List Byte
  deriving DecidableEq, Repr

/-- The UCIe 2.0 features that Table 14-1 marks "not used". -/
inductive UcieFeature where
  | flitFormats | protocolMappings | lowPower | standardPackage | manageability
  deriving DecidableEq, Repr

/-- The training that a HELLO follows: the modules it came up on, and the features marked "not used" that the host die asked for. -/
structure HelloVia where
  mods : BitVec 4
  asks : List UcieFeature
  deriving DecidableEq, Repr

/-- The signals of a semaphore that take effect in one tc, by their places among those on their way, and whether the tile's own
sequencer sets or decrements that semaphore in the same tc (R229). -/
structure SigPick where
  places : List Nat
  same : Bool
  deriving DecidableEq, Repr

/-- A step of a RESHARD on its engine: the entry's start, or the move named (R107). -/
structure ReshardStep where
  port : Port
  move : Option Nat
  deriving DecidableEq, Repr

/-- A UDP datagram on the management port (R341): addresses, ports, whether its checksum is right and whether it
is a fragment, and its payload. -/
structure Datagram where
  src : BitVec 128
  srcPort : W16
  dst : BitVec 128
  dstPort : W16
  checksumOk : Bool
  fragmented : Bool
  payload : List Byte
  deriving DecidableEq, Repr

/-- The 1 µs averages of two adjacent quads that R402 compares: effective frequencies in kHz, rail voltages in
mV, junction temperatures in m°C. -/
structure QuadReadings where
  khz : Nat × Nat
  mv : Nat × Nat
  milliC : Int × Int
  deriving DecidableEq, Repr

/-- What the test access port is told (R427, R428): TRST_N driven high or low, an instruction loaded, or a scan of the data register
that the instruction selects, with the levels of the balls and the bits shifted in. -/
inductive TapOp where
  | trst (high : Bool)
  | load (code : Byte)
  | scan (balls tdi : List Bool)
  deriving DecidableEq, Repr

/-- The commands, one per row of spec/opcode_table.json, in the table's order. -/
inductive Instr where
  /-- ADD (R220) -/
  | add (t : TileId) (th : Thr) (d a b : Reg)
  /-- SUB (R220) -/
  | sub (t : TileId) (th : Thr) (d a b : Reg)
  /-- AND (R220) -/
  | and (t : TileId) (th : Thr) (d a b : Reg)
  /-- OR (R220) -/
  | or (t : TileId) (th : Thr) (d a b : Reg)
  /-- XOR (R220) -/
  | xor (t : TileId) (th : Thr) (d a b : Reg)
  /-- SHL (R220) -/
  | shl (t : TileId) (th : Thr) (d a b : Reg)
  /-- SHRU (R220) -/
  | shru (t : TileId) (th : Thr) (d a b : Reg)
  /-- SHRS (R220) -/
  | shrs (t : TileId) (th : Thr) (d a b : Reg)
  /-- MUL (R220) -/
  | mul (t : TileId) (th : Thr) (d a b : Reg)
  /-- MULHU (R220) -/
  | mulhu (t : TileId) (th : Thr) (d a b : Reg)
  /-- CMPS (R220) -/
  | cmps (t : TileId) (th : Thr) (d a b : Reg)
  /-- CMPU (R220) -/
  | cmpu (t : TileId) (th : Thr) (d a b : Reg)
  /-- MINS (R220) -/
  | mins (t : TileId) (th : Thr) (d a b : Reg)
  /-- MAXS (R220) -/
  | maxs (t : TileId) (th : Thr) (d a b : Reg)
  /-- MINU (R220) -/
  | minu (t : TileId) (th : Thr) (d a b : Reg)
  /-- MAXU (R220) -/
  | maxu (t : TileId) (th : Thr) (d a b : Reg)
  /-- ADDK (R220) -/
  | addk (t : TileId) (th : Thr) (d a : Reg) (k : W16)
  /-- ANDK (R220) -/
  | andk (t : TileId) (th : Thr) (d a : Reg) (k : W16)
  /-- ORK (R220) -/
  | ork (t : TileId) (th : Thr) (d a : Reg) (k : W16)
  /-- XORK (R220) -/
  | xork (t : TileId) (th : Thr) (d a : Reg) (k : W16)
  /-- SHK (R220) -/
  | shk (t : TileId) (th : Thr) (d a : Reg) (kind : ShiftKind) (n : Fin 64)
  /-- CMPSK (R220) -/
  | cmpsk (t : TileId) (th : Thr) (d a : Reg) (k : W16)
  /-- SETK (R220) -/
  | setk (t : TileId) (th : Thr) (d : Reg) (k : W16)
  /-- INSK (R220) -/
  | insk (t : TileId) (th : Thr) (d : Reg) (p : Fin 4) (k : W16)
  /-- LD (R220) -/
  | ld (t : TileId) (th : Thr) (d a : Reg) (w : Width) (sg : Bool) (ofs : BitVec 13)
  /-- ST (R238) -/
  | st (t : TileId) (th : Thr) (d a : Reg) (w : Width) (ofs : BitVec 13)
  /-- STORE_WRITTEN (R238) -/
  | storeWritten (t : TileId) (th : Thr)
  /-- BRZ (R220) -/
  | brz (t : TileId) (th : Thr) (c : Cond) (a : Reg) (k : W16)
  /-- CALL (R220) -/
  | call (t : TileId) (th : Thr) (d : Reg) (k : W16)
  /-- JUMPR (R220) -/
  | jumpr (t : TileId) (th : Thr) (d a : Reg) (k : W16)
  /-- CSR_READ (R221) -/
  | csrRead (t : TileId) (th : Thr) (d a : Reg) (sel : BitVec 6)
  /-- CSR_WRITE (R221) -/
  | csrWrite (t : TileId) (th : Thr) (d a : Reg) (sel : BitVec 6)
  /-- CSR_SET_BITS (R221) -/
  | csrSetBits (t : TileId) (th : Thr) (d a : Reg) (sel : BitVec 6)
  /-- CSR_CLEAR_BITS (R221) -/
  | csrClearBits (t : TileId) (th : Thr) (d a : Reg) (sel : BitVec 6)
  /-- SWAIT (R231) -/
  | swait (t : TileId) (th : Thr) (d a b : Reg) (sel : BitVec 6) (k : Bool)
  /-- SDEC (R232) -/
  | sdec (t : TileId) (th : Thr) (d a b : Reg) (sel : BitVec 6) (k : Bool)
  /-- SSIG (R229) -/
  | ssig (t : TileId) (th : Thr) (d a b : Reg) (sel : BitVec 6) (k : Bool)
  /-- SSET (R228) -/
  | sset (t : TileId) (th : Thr) (d a b : Reg) (sel : BitVec 6) (k : Bool)
  /-- SREAD (R220) -/
  | sread (t : TileId) (th : Thr) (d a b : Reg) (sel : BitVec 6) (k : Bool)
  /-- SSIGT (R220) -/
  | ssigt (t : TileId) (th : Thr) (d a b : Reg) (sel : BitVec 6) (k : Bool)
  /-- SSIGR (R220) -/
  | ssigr (t : TileId) (th : Thr) (d a b : Reg) (sel : BitVec 6) (k : Bool)
  /-- TSTART (R217) -/
  | tstart (t : TileId) (th : Thr) (d a b : Reg)
  /-- TEXIT (R214) -/
  | texit (t : TileId) (th : Thr) (d a b : Reg)
  /-- TWAKE (R236) -/
  | twake (t : TileId) (th : Thr) (d a b : Reg)
  /-- TSTOP (R236) -/
  | tstop (t : TileId) (th : Thr) (d a b : Reg)
  /-- ISSUE (R223) -/
  | issue (t : TileId) (th : Thr) (d a b : Reg) (u : BitVec 3) (k : Bool)
  /-- ISSUE_QUEUE_ENTRY (R223) -/
  | issueQueueEntry (t : TileId) (th : Thr)
  /-- QCANCEL (R237) -/
  | qcancel (t : TileId) (th : Thr) (d : Reg) (u : BitVec 3) (own : Bool)
  /-- FENCE (R238) -/
  | fence (t : TileId) (th : Thr) (d : Reg) (m : BitVec 3)
  /-- FENCE_END (R238) -/
  | fenceEnd (t : TileId) (th : Thr)
  /-- ISSUE_SELECT (R215) -/
  | issueSelect (t : TileId)
  /-- BLOCK_TIME_END (R216) -/
  | blockTimeEnd (t : TileId) (th : Thr)
  /-- ICACHE_MISS_FILL (R219) -/
  | icacheMissFill (t : TileId) (th : Thr) (evict : Option Nat)
  /-- SIGNAL_TAKES_EFFECT (R229) -/
  | signalTakesEffect (t : TileId) (sm : SemId) (which : SigPick)
  /-- WAIT_LIMIT_EXPIRY (R235) -/
  | waitLimitExpiry (t : TileId) (th : Thr)
  /-- DESCRIPTOR_WAIT_SEM (R224) -/
  | descriptorWaitSem (t : TileId) (u : Fin 5) (i : Nat)
  /-- MATRIX_PRODUCT (R65) -/
  | matrixProduct (t : TileId) (i : Nat) (ecc : Option Nat)
  /-- QUAD_GANG_START (R57) -/
  | quadGangStart (t : TileId) (i : Nat) (ecc : Option Nat)
  /-- MATRIX_DRAIN (R68) -/
  | matrixDrain (t : TileId) (i : Nat) (blk : Nat) (flt : DrainFault)
  /-- EPILOGUE_BEAT (R90) -/
  | epilogueBeat (t : TileId) (i : Nat) (upset : Option (Nat × W32))
  /-- MATRIX_WRITE_BACK_COMPLETE (R69) -/
  | matrixWriteBackComplete (t : TileId) (i : Nat)
  /-- VADD (R76) -/
  | vadd (t : TileId) (f : VFault)
  /-- VSUB (R76) -/
  | vsub (t : TileId) (f : VFault)
  /-- VMUL (R76) -/
  | vmul (t : TileId) (f : VFault)
  /-- VFMA (R73) -/
  | vfma (t : TileId) (f : VFault)
  /-- VMIN (R73) -/
  | vmin (t : TileId) (f : VFault)
  /-- VMAX (R73) -/
  | vmax (t : TileId) (f : VFault)
  /-- VABS (R76) -/
  | vabs (t : TileId) (f : VFault)
  /-- VNEG (R76) -/
  | vneg (t : TileId) (f : VFault)
  /-- VSEL (R76) -/
  | vsel (t : TileId) (f : VFault)
  /-- VCVT (R73) -/
  | vcvt (t : TileId) (f : VFault)
  /-- VRCP (R73) -/
  | vrcp (t : TileId) (f : VFault)
  /-- VRSQRT (R73) -/
  | vrsqrt (t : TileId) (f : VFault)
  /-- VSQRT (R73) -/
  | vsqrt (t : TileId) (f : VFault)
  /-- VDIV (R73) -/
  | vdiv (t : TileId) (f : VFault)
  /-- VEXP (R73) -/
  | vexp (t : TileId) (f : VFault)
  /-- VLOG (R73) -/
  | vlog (t : TileId) (f : VFault)
  /-- VACT (R85) -/
  | vact (t : TileId) (f : VFault)
  /-- VDACT (R85) -/
  | vdact (t : TileId) (f : VFault)
  /-- VRSUM (R80) -/
  | vrsum (t : TileId) (f : VFault)
  /-- VRMAX (R80) -/
  | vrmax (t : TileId) (f : VFault)
  /-- VRSSQ (R80) -/
  | vrssq (t : TileId) (f : VFault)
  /-- VRDOT (R80) -/
  | vrdot (t : TileId) (f : VFault)
  /-- VLNF (R88) -/
  | vlnf (t : TileId) (f : VFault)
  /-- VRNF (R88) -/
  | vrnf (t : TileId) (f : VFault)
  /-- VLNB (R89) -/
  | vlnb (t : TileId) (f : VFault)
  /-- VRNB (R89) -/
  | vrnb (t : TileId) (f : VFault)
  /-- VSMF (R88) -/
  | vsmf (t : TileId) (f : VFault)
  /-- VSMB (R89) -/
  | vsmb (t : TileId) (f : VFault)
  /-- PADD (R41) -/
  | padd (t : TileId) (f : VFault)
  /-- PMUL (R41) -/
  | pmul (t : TileId) (f : VFault)
  /-- PFMA (R41) -/
  | pfma (t : TileId) (f : VFault)
  /-- VREDUCE (R82) -/
  | vreduce (t : TileId) (f : VFault)
  /-- VTLOAD (R87) -/
  | vtload (t : TileId)
  /-- VTREAD (R83) -/
  | vtread (t : TileId)
  /-- VECTOR_INSTRUCTION_END (R79) -/
  | vectorInstructionEnd (t : TileId)
  /-- UPDATE (R178) -/
  | update (t : TileId)
  /-- UPDATE_COMPLETE (R181) -/
  | updateComplete (t : TileId)
  /-- PRECONDITION (R175) -/
  | precondition (t : TileId) (lane : Option (Nat × LaneFault))
  /-- SLOW_TIER_QUEUE_ENTRY (R186) -/
  | slowTierQueueEntry (t : TileId)
  /-- SLOW_TIER_COMMIT (R186) -/
  | slowTierCommit
  /-- ALLOC (R198) -/
  | alloc (src : MemSrc)
  /-- ALLOC_FILL_COMPLETE (R198) -/
  | allocFillComplete (src : MemSrc) (code : Byte)
  /-- FREE (R198) -/
  | free (src : MemSrc)
  /-- QUERY (R198) -/
  | query (src : MemSrc)
  /-- CLEAR_INVALID (R199) -/
  | clearInvalid (src : MemSrc)
  /-- CLEAR_TORN (R199) -/
  | clearTorn (src : MemSrc)
  /-- SET_COUNTER (R199) -/
  | setCounter (src : MemSrc)
  /-- FLASH_OPEN (R201) -/
  | flashOpen (src : MemSrc)
  /-- FLASH_CLOSE (R201) -/
  | flashClose (src : MemSrc)
  /-- TIER_MOVE (R202) -/
  | tierMove (src : MemSrc) (ecc : Option Nat)
  /-- TIER_MOVE_COMPLETE (R204) -/
  | tierMoveComplete (src : MemSrc)
  /-- TRANSFER_UNIT_DEADLINE (R206) -/
  | transferUnitDeadline (r : LateReq) (done : Nat)
  /-- ECC_CORRECTED_REWRITE (R208) -/
  | eccCorrectedRewrite (u : MemUnit)
  /-- PATROL_SCRUB (R208) -/
  | patrolScrub (u : MemUnit) (res : ScrubResult)
  /-- LAUNCH_GRINDER_PROGRAM (R226) -/
  | launchGrinderProgram (t : TileId)
  /-- LAUNCH_PERCOLATOR_SCRIPT (R226) -/
  | launchPercolatorScript (t : TileId)
  /-- LAUNCH_COLLECTIVE_PROGRAM (R258) -/
  | launchCollectiveProgram (t : TileId)
  /-- LAUNCH_QUEUE_ENTRY (R227) -/
  | launchQueueEntry (t : TileId)
  /-- SOPEN (R126) -/
  | sopen (c : CTile)
  /-- SCLOSE (R122) -/
  | sclose (c : CTile)
  /-- SCLOSE_COMPLETE (R122) -/
  | scloseComplete (c : CTile)
  /-- EMA (R123) -/
  | ema (c : CTile) (lane : Option (Nat × LaneFault))
  /-- DAMP (R124) -/
  | damp (c : CTile) (lane : Option (Nat × LaneFault))
  /-- SRELEASE (R126) -/
  | srelease (c : CTile)
  /-- FZERO (R126) -/
  | fzero (c : CTile)
  /-- TREE (R133) -/
  | tree (c : CTile)
  /-- GRINDER_WAIT (R126) -/
  | grinderWait (c : CTile)
  /-- GRINDER_SIGNAL (R126) -/
  | grinderSignal (c : CTile)
  /-- GRINDER_END (R128) -/
  | grinderEnd (c : CTile)
  /-- TAP_OPEN_RECORD (R111) -/
  | tapOpenRecord (c : CTile)
  /-- TAP_ROW (R117) -/
  | tapRow (c : CTile)
  /-- POOL_HALF_SWAP (R120) -/
  | poolHalfSwap (c : CTile)
  /-- SWEEP_END (R120) -/
  | sweepEnd (c : CTile) (st : Fin 32) (bad : List (Nat × Nat × LaneFault))
  /-- JOB (R140) -/
  | job (c : CTile)
  /-- SCRIPT_WAIT (R137) -/
  | scriptWait (c : CTile)
  /-- SCRIPT_SIGNAL (R137) -/
  | scriptSignal (c : CTile)
  /-- SCRIPT_END (R138) -/
  | scriptEnd (c : CTile)
  /-- ROOT (R145) -/
  | root (c : CTile) (lane : Option LaneFault)
  /-- CHOL (R154) -/
  | chol (c : CTile) (lane : Option LaneFault)
  /-- CHOLSOLVE (R154) -/
  | cholsolve (c : CTile) (lane : Option LaneFault)
  /-- TREESOLVE (R156) -/
  | treesolve (c : CTile)
  /-- ROOT_ITERATION_END (R145) -/
  | rootIterationEnd (c : CTile) (elapsed : Nat) (lane : Option LaneFault)
  /-- HARD_LIMIT_EXPIRY (R151) -/
  | hardLimitExpiry (c : CTile)
  /-- BLOCK_JOB_END (R161) -/
  | blockJobEnd (c : CTile) (elapsed : Nat)
  /-- ALLREDUCE (R260) -/
  | allreduce (p : Port)
  /-- REDUCESCATTER (R260) -/
  | reducescatter (p : Port)
  /-- ALLGATHER (R260) -/
  | allgather (p : Port)
  /-- ALLTOALL (R260) -/
  | alltoall (p : Port)
  /-- BROADCAST (R260) -/
  | broadcast (p : Port)
  /-- RESHARD (R107) -/
  | reshard (r : ReshardStep)
  /-- BARRIER (R267) -/
  | barrier (p : Port)
  /-- SETRANKS (R256) -/
  | setranks (p : Port)
  /-- COLL_END (R269) -/
  | collEnd (p : Port)
  /-- COLL_ENTRY_COMPLETE (R268) -/
  | collEntryComplete (p : Port)
  /-- CHUNK_STAGED_COMPLETE (R263) -/
  | chunkStagedComplete (p : Port) (k : Nat)
  /-- DATA_PACKET (R255) -/
  | dataPacket (p : Port)
  /-- ACK_PACKET (R254) -/
  | ackPacket (p : Port)
  /-- ABORT_PACKET (R287) -/
  | abortPacket (p : Port)
  /-- ARRIVE (R267) -/
  | arrive (p : Port)
  /-- RELEASE (R267) -/
  | release (p : Port)
  /-- SIGNAL_PACKET (R267) -/
  | signalPacket (p : Port)
  /-- HEARTBEAT_SIGNAL (R303) -/
  | heartbeatSignal (p : Port)
  /-- FENCE_SIGNAL (R303) -/
  | fenceSignal (p : Port)
  /-- CHUNK_RETRANSMIT_TIMEOUT (R254) -/
  | chunkRetransmitTimeout (n : Nat)
  /-- CHUNK_RESEND_EXHAUSTED (R286) -/
  | chunkResendExhausted (n : Nat)
  /-- ACK_SEND_TIMER (R254) -/
  | ackSendTimer (n : Nat)
  /-- EARLY_ARRIVAL_EXPIRY (R255) -/
  | earlyArrivalExpiry (n : Nat)
  /-- IDLE_FLIT (R247) -/
  | idleFlit (p : Port) (fec : Fec) (bytes : List Byte)
  /-- DATA_FLIT (R248) -/
  | dataFlit (p : Port) (fec : Fec) (bytes : List Byte)
  /-- REPLAY_REQ (R248) -/
  | replayReq (p : Port) (fec : Fec) (bytes : List Byte)
  /-- FLIT_REPLAY_EXHAUSTED (R248) -/
  | flitReplayExhausted (p : Port)
  /-- IDENT (R277) -/
  | ident (p : Port) (rec : List Byte)
  /-- IDENT_ACK (R276) -/
  | identAck (p : Port) (rec : List Byte)
  /-- DOWN (R277) -/
  | down (p : Port) (rec : List Byte)
  /-- UNREACH (R282) -/
  | unreach (p : Port) (rec : List Byte)
  /-- REACH (R282) -/
  | reach (p : Port) (rec : List Byte)
  /-- PORTMAP (R283) -/
  | portmap (p : Port) (rec : List Byte)
  /-- IDENT_SEND_TIMER (R276) -/
  | identSendTimer (p : Port)
  /-- IDENT_TIMEOUT (R276) -/
  | identTimeout (p : Port)
  /-- RETRAIN_TIMER (R280) -/
  | retrainTimer (p : Port)
  /-- FLAPPING (R280) -/
  | flapping (p : Port)
  /-- PORT_SILENT (R281) -/
  | portSilent (p : Port)
  /-- LANE_FAILURE (R250) -/
  | laneFailure (p : Port) (lane : Fin 9)
  /-- LANE_RECALIBRATION (R317) -/
  | laneRecalibration (p : Port) (lane : Fin 8)
  /-- LANE_RECALIBRATION_END (R317) -/
  | laneRecalibrationEnd (p : Port)
  /-- HBM_CHANNEL_RECALIBRATION (R317) -/
  | hbmChannelRecalibration (stack : Fin 8) (ch : Nat)
  /-- MIRROR_DATA (R301) -/
  | mirrorData
  /-- COMMIT_BEGIN (R301) -/
  | commitBegin
  /-- COMMIT_END (R301) -/
  | commitEnd
  /-- MIRROR_ACK (R301) -/
  | mirrorAck
  /-- MIRROR_HEARTBEAT (R306) -/
  | mirrorHeartbeat
  /-- FAILSTOP (R306) -/
  | failstop
  /-- FENCE_SUBTYPE (R305) -/
  | fenceSubtype
  /-- REPAIR_REQ (R210) -/
  | repairReq
  /-- REPAIR_DATA (R210) -/
  | repairData
  /-- REGION (R187) -/
  | region
  /-- JOIN_COPY (R312) -/
  | joinCopy
  /-- HEARTBEAT_SEND_TIMER (R306) -/
  | heartbeatSendTimer
  /-- HEARTBEAT_SILENCE (R306) -/
  | heartbeatSilence
  /-- PAIR_JOIN (R416) -/
  | pairJoin
  /-- FATAL_FAULT (R304) -/
  | fatalFault (code : Fin 8)
  /-- FAIL_STOP_REQUEST (R304) -/
  | failStopRequest
  /-- SELFTEST_REQUEST (R315) -/
  | selftestRequest (v : W16)
  /-- SELFTEST_TAKEOVER (R314) -/
  | selftestTakeover (die : Fin 2)
  /-- SELFTEST_END (R315) -/
  | selftestEnd (die : Fin 2) (pass : Bool)
  /-- SELFTEST_MOVE_BACK (R313) -/
  | selftestMoveBack (die : Fin 2)
  /-- SELFTEST_TURN_PASSED (R313) -/
  | selftestTurnPassed (die : Fin 2)
  /-- CURVATURE_SELFTEST_START (R316) -/
  | curvatureSelftestStart (die : Fin 2)
  /-- CURVATURE_SELFTEST_END (R316) -/
  | curvatureSelftestEnd (die : Fin 2) (pass : Bool)
  /-- LINKUP_PHASE_TIMEOUT (R322) -/
  | linkupPhaseTimeout (mods : BitVec 4)
  /-- HELLO (R322) -/
  | hello (m : HostMsg) (via : HelloVia)
  /-- NOP (R324) -/
  | nop (m : HostMsg)
  /-- NAK (R325) -/
  | nak (m : HostMsg)
  /-- HREAD_DATA (R326) -/
  | hreadData (m : HostMsg)
  /-- QDOORBELL (R332) -/
  | qdoorbell (m : HostMsg)
  /-- TDOORBELL_START (R335) -/
  | tdoorbellStart (m : HostMsg)
  /-- TDOORBELL_WAKE (R335) -/
  | tdoorbellWake (m : HostMsg)
  /-- TDOORBELL_STOP (R335) -/
  | tdoorbellStop (m : HostMsg)
  /-- PHYRETRAIN (R325) -/
  | phyretrain
  /-- PHYRETRAIN_COMPLETE (R325) -/
  | phyretrainComplete (ok : Bool) (mods : BitVec 4)
  /-- INTERRUPT_INTERVAL_EXPIRY (R334) -/
  | interruptIntervalExpiry (v : W16)
  /-- MAILBOX_START_MESSAGE (R336) -/
  | mailboxStartMessage (d : W64)
  /-- MAILBOX_DATA_MESSAGE (R336) -/
  | mailboxDataMessage (d : W64)
  /-- WDP_DATAGRAM (R341) -/
  | wdpDatagram (d : Datagram)
  /-- NEIGHBOUR_SOLICITATION (R341) -/
  | neighbourSolicitation (src target : BitVec 128)
  /-- ECHO_REQUEST (R341) -/
  | echoRequest (src dst : BitVec 128) (payload : List Byte)
  /-- PLCA_BEACON (R340) -/
  | plcaBeacon
  /-- PLCA_BEACON_LOSS (R340) -/
  | plcaBeaconLoss
  /-- OPEN (R345) -/
  | wdpOpen
  /-- CLOSE (R348) -/
  | wdpClose
  /-- READ (R351) -/
  | wdpRead
  /-- WRITE (R352) -/
  | wdpWrite
  /-- REGISTER_WRITE (R352) -/
  | registerWrite (index : W16) (sub : Byte) (v : Nat)
  /-- NOR_COMMIT_COMPLETE (R354) -/
  | norCommitComplete (ok : Bool)
  /-- SESSION_IDLE_TIMEOUT (R348) -/
  | sessionIdleTimeout (ses : W32)
  /-- ROLE_LOCKOUT (R346) -/
  | roleLockout (r : Fin 4)
  /-- ROLE_LOCKOUT_END (R346) -/
  | roleLockoutEnd (r : Fin 4)
  /-- STATIC_IPV6_WRITE (R348) -/
  | staticIpv6Write (addr : BitVec 128) (plen : Byte)
  /-- ROLE_KEY (R366) -/
  | roleKey (ses : W32) (r : Fin 4) (v : List Byte)
  /-- LIFECYCLE_REQUEST (R372) -/
  | lifecycleRequest (ses : W32) (target : Byte)
  /-- LIFECYCLE_TRANSITION (R373) -/
  | lifecycleTransition
  /-- ATTEST_NONCE (R370) -/
  | attestNonce (nonce : List Byte)
  /-- ATTEST_REPORT_READY (R370) -/
  | attestReportReady
  /-- FW_STAGE_OFFSET (R365) -/
  | fwStageOffset (v : W32)
  /-- FW_STAGE_DATA (R365) -/
  | fwStageData (data : List Byte)
  /-- FW_COMMIT (R365) -/
  | fwCommit
  /-- FW_CHECK_COMPLETE (R363) -/
  | fwCheckComplete
  /-- IMAGE_REQUEST_SNAPSHOT (R384) -/
  | imageRequestSnapshot
  /-- IMAGE_REQUEST_DUMP (R385) -/
  | imageRequestDump
  /-- IMAGE_PERIOD_TICK (R386) -/
  | imagePeriodTick
  /-- IMAGE_COMPLETE (R387) -/
  | imageComplete
  /-- TILE_EVENT_SELECT (R382) -/
  | tileEventSelect (curv : Bool) (ctr : Fin 8) (code : Byte)
  /-- LOG_CURSOR (R393) -/
  | logCursor (ses : W32) (v : W32)
  /-- LOG_CLEAR (R394) -/
  | logClear (ses : W32)
  /-- Q_ENABLE (R330) -/
  | qEnable (q : HQueue) (v : Bool)
  /-- EVENT_RECORD (R391) -/
  | eventRecord (n : Nat)
  /-- RECORD_PROGRAM (R391) -/
  | recordProgram
  /-- FOLD_WINDOW_CLOSE (R392) -/
  | foldWindowClose (n : Nat)
  /-- OP_SECONDS_JOURNAL (R389) -/
  | opSecondsJournal
  /-- DROOP_DETECT (R401) -/
  | droopDetect (q : Quad) (mv : Nat)
  /-- NEIGHBOUR_LIMIT_CHECK (R404) -/
  | neighbourLimitCheck (q r : Quad) (m : QuadReadings)
  /-- THROTTLE_STEP_TIMER (R404) -/
  | throttleStepTimer (q : Quad)
  /-- THROTTLE_RELEASE_TIMER (R404) -/
  | throttleReleaseTimer (q : Quad)
  /-- THERMAL_SAMPLE (R406) -/
  | thermalSample (q : Quad) (milliC : Int)
  /-- POWER_SAMPLE (R407) -/
  | powerSample (milliW : Nat)
  /-- PWR_GOOD_RISE (R411) -/
  | pwrGoodRise
  /-- PWR_GOOD_FALL (R412) -/
  | pwrGoodFall
  /-- RESET_N_ASSERT (R412) -/
  | resetNAssert
  /-- RESET_N_RELEASE (R411) -/
  | resetNRelease
  /-- DEVICE_RESET (R413) -/
  | deviceReset
  /-- DICTIONARY_RESET (R413) -/
  | dictionaryReset
  /-- STARTUP_TIMEOUT (R411) -/
  | startupTimeout
  /-- STARTUP_STEP_COMPLETE (R414) -/
  | startupStepComplete (ok : Bool)
  /-- PORT_RETRAIN (R280) -/
  | portRetrain (p : Port)
  /-- FW_STAGE_BUFFER_PROGRAMMED (R365) -/
  | fwStageBufferProgrammed (n : Nat)
  /-- DROOP_END (R401) -/
  | droopEnd (q : Quad)
  /-- HBM_CHANNEL_RECALIBRATION_END (R317) -/
  | hbmChannelRecalibrationEnd (stack : Fin 8) (ch : Nat)
  /-- TAP_INSTRUCTION (R428) -/
  | tapInstruction (x : TapOp)
  deriving DecidableEq, Repr

end Sys2Proof
end

