-- ==== Sys2Proof/WellFormed.lean ====
section
/-!
DEFINITION. Which commands are shaped as their tables state: the fixed lengths of what arrives (a flit of R247, the
training record of Table 12-3, the data units of a host message, the values of the dictionary entries that a row
writes). The device meets the others too, and does with them what the spec says of a bad flit, a discarded record or
message, or a refused WRITE (log entry 9, DESIGN CHOICE).
-/
namespace Sys2Proof

/-- A flit as received: 320 bytes when its codeword decodes (R247); a flit that does not decode may be any bytes. -/
def flitOk (f : Fec) (b : List Byte) : Bool := f == .failed || b.length == 320

/-- A training record fills the 304 bytes of DATA (R275). -/
def trainOk (b : List Byte) : Bool := b.length == 304

/-- The message types of Table 14-4. -/
def msgTypes : List Nat := [0x01, 0x02, 0x10, 0x11, 0x12, 0x20, 0x21, 0x30, 0x40]

/-- A host message has its row's TYPE and carries whole 64-byte data units, 1 to 64 of them for HREAD_DATA and none for any
other type that the device receives (Tables 14-3 and 14-4). -/
def msgOk (m : HostMsg) (typ : Byte) : Bool :=
  (m.typ == typ || !(msgTypes.contains m.typ.toNat)) && m.data.length % 64 == 0
    && decide (m.data.length ≤ 255 * 64)

/-- The action in ARG [15:14] of a thread doorbell is the row's own, or the refused action 3 (Table 14-4). -/
def actionOk (m : HostMsg) (a : Nat) : Bool :=
  let k := (m.arg >>> 14).toNat % 4
  k == a || k == 3

/-- Well-formedness of a command. -/
def Instr.wf (i : Instr) : Bool :=
  match i with
  | .idleFlit _ k b | .dataFlit _ k b | .replayReq _ k b => flitOk k b
  | .ident _ r | .identAck _ r | .down _ r | .unreach _ r | .reach _ r | .portmap _ r => trainOk r
  | .hello m _ => msgOk m 0x40
  | .nop m => msgOk m 0x01
  | .nak m => msgOk m 0x02
  | .qdoorbell m => msgOk m 0x20
  | .tdoorbellStart m => msgOk m 0x21 && actionOk m 0
  | .tdoorbellWake m => msgOk m 0x21 && actionOk m 1
  | .tdoorbellStop m => msgOk m 0x21 && actionOk m 2
  | .hreadData m => msgOk m 0x11
  | .roleKey _ _ v => v.length == 32
  | .attestNonce v => v.length == 32
  | .fwStageData v => v.length == 1024
  | _ => true

end Sys2Proof
end

