-- ==== Sys2Proof/Decode.lean ====
section
/-!
DEFINITION. Decoding. The command table gives no row any bits, so no word spells a command (`decodeTableWord`).
The sequencers fetch 32-bit instruction words from scratchpad: `decodeSeq` reads one (R220, Tables 10-2 to 10-5)
and refuses every word that R220 calls ILLEGAL; `encodeSeq` writes one from the same tables.
-/
namespace Sys2Proof

/-- The command that a table word spells: the table gives no row any bits. -/
def decodeTableWord (_nbits _w : Nat) : Option Instr := none

/-- Field `[lo+len-1:lo]` of an instruction word. -/
def fld (w : W32) (lo len : Nat) : Nat := w.toNat / 2 ^ lo % 2 ^ len

def regAt (w : W32) (lo : Nat) : Reg := ⟨fld w lo 5, by unfold fld; exact Nat.mod_lt _ (by decide)⟩

/-- Table 10-4: opcodes 0x01 to 0x10. -/
def aluOps : List AluOp :=
  [.add, .sub, .and, .or, .xor, .shl, .shru, .shrs, .mul, .mulhu, .cmps, .cmpu, .mins, .maxs, .minu, .maxu]

def aluCode : AluOp → Nat
  | .add => 0x01 | .sub => 0x02 | .and => 0x03 | .or => 0x04 | .xor => 0x05 | .shl => 0x06 | .shru => 0x07
  | .shrs => 0x08 | .mul => 0x09 | .mulhu => 0x0A | .cmps => 0x0B | .cmpu => 0x0C | .mins => 0x0D | .maxs => 0x0E
  | .minu => 0x0F | .maxu => 0x10

def aluKCode : AluKOp → Nat
  | .addk => 0x11 | .andk => 0x12 | .ork => 0x13 | .xork => 0x14 | .cmpsk => 0x16

def shiftKindOf : Nat → Option ShiftKind
  | 0 => some .shl | 1 => some .shru | 2 => some .shrs | _ => none
def shiftKindCode : ShiftKind → Nat
  | .shl => 0 | .shru => 1 | .shrs => 2

def widthOf : Nat → Width
  | 0 => .w8 | 1 => .w16 | 2 => .w32 | _ => .w64
def widthCode : Width → Nat
  | .w8 => 0 | .w16 => 1 | .w32 => 2 | .w64 => 3

def condOf : Nat → Option Cond
  | 0 => some .zero | 1 => some .nonzero | 2 => some .neg | 3 => some .nonneg | 4 => some .pos | 5 => some .nonpos
  | _ => none
def condCode : Cond → Nat
  | .zero => 0 | .nonzero => 1 | .neg => 2 | .nonneg => 3 | .pos => 4 | .nonpos => 5

def csrFnOf : Nat → Option CsrFn
  | 0 => some .read | 1 => some .write | 2 => some .set | 3 => some .clear | _ => none
def csrFnCode : CsrFn → Nat
  | .read => 0 | .write => 1 | .set => 2 | .clear => 3

def semFnOf : Nat → Option SemFn
  | 0 => some .swait | 1 => some .sdec | 2 => some .ssig | 3 => some .sset | 4 => some .sread | 5 => some .ssigt
  | 6 => some .ssigr | _ => none
def semFnCode : SemFn → Nat
  | .swait => 0 | .sdec => 1 | .ssig => 2 | .sset => 3 | .sread => 4 | .ssigt => 5 | .ssigr => 6

def thrFnOf : Nat → Option ThrFn
  | 0 => some .tstart | 1 => some .texit | 2 => some .twake | 3 => some .tstop | _ => none
def thrFnCode : ThrFn → Nat
  | .tstart => 0 | .texit => 1 | .twake => 2 | .tstop => 3

/-- The fields of an X-format word (Table 10-2). -/
def decodeX (w : W32) (op : Nat) : Option SeqInstr :=
  let d := regAt w 6
  let a := regAt w 11
  let b := regAt w 16
  let sel := fld w 21 6
  let fn := fld w 27 3
  let k := fld w 30 1 == 1
  if fld w 31 1 ≠ 0 then none
  else if op = 0x20 then
    (if k || b.val != 0 then none else (csrFnOf fn).map fun f => .csr f d a (BitVec.ofNat 6 sel))
  else if op = 0x24 then (semFnOf fn).map fun f => .sem f d a b (BitVec.ofNat 6 sel) k
  else if op = 0x25 then
    (if k || sel != 0 then none else (thrFnOf fn).map fun f => .thr f d a b)
  else if op = 0x28 then
    (if decide (sel ≥ 8) || fn != 0 then none else some (.issue d a b (BitVec.ofNat 3 sel) k))
  else if op = 0x29 then
    (if k || decide (sel ≥ 16) || fn != 0 || a.val != 0 || b.val != 0 then none
     else some (.qcancel d (BitVec.ofNat 3 (sel % 8)) (sel / 8 % 2 == 1)))
  else if op = 0x2C then
    (if k || decide (sel ≥ 8) || fn != 0 || a.val != 0 || b.val != 0 then none
     else some (.fence d (BitVec.ofNat 3 sel)))
  else none

/-- An instruction word decoded; none where R220 calls it ILLEGAL. -/
def decodeSeq (w : W32) : Option SeqInstr :=
  let op := fld w 0 6
  let d := regAt w 6
  let a := regAt w 11
  let k := BitVec.ofNat 16 (fld w 16 16)
  if op = 0 then none
  else if op ≤ 0x10 then
    (if fld w 21 11 ≠ 0 then none else (aluOps[op - 1]?).map fun f => .alu f d a (regAt w 16))
  else if op = 0x11 then some (.aluK .addk d a k)
  else if op = 0x12 then some (.aluK .andk d a k)
  else if op = 0x13 then some (.aluK .ork d a k)
  else if op = 0x14 then some (.aluK .xork d a k)
  else if op = 0x15 then
    (if fld w 24 8 ≠ 0 then none
     else (shiftKindOf (fld w 22 2)).map fun s => .shk d a s ⟨fld w 16 6, by unfold fld; exact Nat.mod_lt _ (by decide)⟩)
  else if op = 0x16 then some (.aluK .cmpsk d a k)
  else if op = 0x17 then (if a.val ≠ 0 then none else some (.setk d k))
  else if op = 0x18 then (if h : a.val < 4 then some (.insk d ⟨a.val, h⟩ k) else none)
  else if op = 0x1A then
    some (.ld d a (widthOf (fld w 16 2)) (fld w 18 1 == 1) (BitVec.ofNat 13 (fld w 19 13)))
  else if op = 0x1B then
    (if fld w 18 1 ≠ 0 then none else some (.st d a (widthOf (fld w 16 2)) (BitVec.ofNat 13 (fld w 19 13))))
  else if op = 0x1C then (condOf d.val).map fun c => .brz c a k
  else if op = 0x1D then (if a.val ≠ 0 then none else some (.call d k))
  else if op = 0x1E then some (.jumpr d a k)
  else decodeX w op

/-- A word from its fields: OP, D, A and the upper half. -/
def seqWord (op d a hi : Nat) : W32 := BitVec.ofNat 32 (op + 64 * d + 2048 * a + 65536 * hi)

/-- The upper half of an X-format word: B, SEL, FN, K. -/
def xHigh (b sel fn : Nat) (k : Bool) : Nat := b + 32 * sel + 2048 * fn + 16384 * (if k then 1 else 0)

/-- The word of a sequencer instruction (Tables 10-2 to 10-5). -/
def encodeSeq : SeqInstr → W32
  | .alu op d a b => seqWord (aluCode op) d a b
  | .aluK op d a k => seqWord (aluKCode op) d a k.toNat
  | .shk d a s n => seqWord 0x15 d a (n + 64 * shiftKindCode s)
  | .setk d k => seqWord 0x17 d 0 k.toNat
  | .insk d p k => seqWord 0x18 d p k.toNat
  | .ld d a w sg o => seqWord 0x1A d a (widthCode w + 4 * (if sg then 1 else 0) + 8 * o.toNat)
  | .st d a w o => seqWord 0x1B d a (widthCode w + 8 * o.toNat)
  | .brz c a k => seqWord 0x1C (condCode c) a k.toNat
  | .call d k => seqWord 0x1D d 0 k.toNat
  | .jumpr d a k => seqWord 0x1E d a k.toNat
  | .csr f d a sel => seqWord 0x20 d a (xHigh 0 sel.toNat (csrFnCode f) false)
  | .sem f d a b sel k => seqWord 0x24 d a (xHigh b sel.toNat (semFnCode f) k)
  | .thr f d a b => seqWord 0x25 d a (xHigh b 0 (thrFnCode f) false)
  | .issue d a b u k => seqWord 0x28 d a (xHigh b u.toNat 0 k)
  | .qcancel d u own => seqWord 0x29 d 0 (xHigh 0 (u.toNat + 8 * (if own then 1 else 0)) 0 false)
  | .fence d m => seqWord 0x2C d 0 (xHigh 0 m.toNat 0 false)

end Sys2Proof
end

