-- ==== Sys2Proof/Config.lean ====
section
/-!
DEFINITION. What one part fixes and what the spec leaves open. Each constant is opaque: nothing in Lean can
evaluate it, so a claim holds for every value it could have. Log entries 2, 3 and 92 list them.
-/
namespace Sys2Proof.Config

/-- Free values: the `n`-th value that the device produces where the spec states none (log entry 3, DESIGN CHOICE). -/
opaque freeValue (n : Nat) : Nat
/-- What a counter of cycles counts in the `n`-th stretch of time that the model tallies (log entry 27, DESIGN CHOICE). -/
opaque counted (n : Nat) : Nat
/-- A byte of contents that the spec calls undefined: the `tag`-th such range, at key `a` (log entry 3, DESIGN CHOICE). -/
opaque freeByte (tag a : Nat) : BitVec 8
/-- Element code `i` of a written MX block that holds a NaN or an infinity (log entry 92, DESIGN CHOICE). -/
opaque mxNanCode (code : Nat) (elem : Bool) (block : List (BitVec 32)) (i : Nat) : BitVec 8
/-- DEVICE_NONCE, the `n`-th draw of 16 bytes from the entropy source of the security block (R345). -/
opaque entropy (n : Nat) : BitVec 128

/-- The clock grade: true for OL9-2000 (Table 0-1, R2). -/
opaque grade2000 : Bool
/-- The host die: true for H2 (Table 0-1). -/
opaque hostH2 : Bool
/-- The device serial (0x1000:04). -/
opaque serial : BitVec 64
/-- The MAC address programmed at manufacture (0x1000:09, R341). -/
opaque mac : BitVec 48
/-- The BOARD_POS strap balls (R427). -/
opaque boardPos : Fin 8
/-- Physical index of the repair spare of a die, fixed at test (R11). -/
opaque repairSpare (die : Fin 2) : Fin 66
/-- Which of the other 65 physical tiles of a die, in ascending order, is the rotating spare (R11, R72). -/
opaque rotatingAmong (die : Fin 2) : Fin 65
/-- Physical index of the rotating spare of a die, recorded at test: never the repair spare (R11). -/
def rotatingSpare (die : Fin 2) : Fin 66 :=
  if (rotatingAmong die).val < (repairSpare die).val then (rotatingAmong die).castSucc else (rotatingAmong die).succ
/-- The logical tile of a die that the repair spare serves from test onwards; none on a die that needed no repair (R19). -/
opaque repaired (die : Fin 2) : Option (Fin 64)
/-- Targets of a flash channel that answer the ONFI READ ID, at most four (R426). -/
opaque flashTargets (channel : Fin 8) : Fin 5
/-- Bytes of a flash target, at most 512 GiB (R426). -/
opaque flashTargetBytes (channel : Fin 8) (target : Fin 4) : Fin (512 * 2 ^ 30 + 1)
/-- A channel on which no target answers at start-up is left idle (R426). -/
def channelIdle (channel : Fin 8) : Bool := (flashTargets channel).val == 0
/-- Flash bytes present (0xA001:04): those of the targets on every channel that is not idle (R426). -/
def flashBytes : Nat :=
  ((List.finRange 8).map fun c => (((List.finRange 4).filter fun t => decide (t.val < (flashTargets c).val)).map fun t =>
    (flashTargetBytes c t).val).foldl (· + ·) 0).foldl (· + ·) 0
/-- A quad's rail target in mV above 680, which follows its frequency target (steps below nominal) and its temperature, up to 820
(R401). -/
opaque railAbove (steps : Nat) (milliC : Int) : Fin 141
/-- AES-256-XTS of a 4 KiB flash sector (IEEE 1619 is outside the spec): key, sector number as the tweak, plain bytes (R375). -/
opaque aesXts (key : BitVec 512) (sector : Nat) (plain : List (BitVec 8)) : List (BitVec 8)
/-- Number of a flash sector, by its kind and place in that kind: the allocation records, the metadata, or the 4 KiB of an allocation
(log entry 146, DESIGN CHOICE). -/
opaque flashSector (kind n : Nat) : Nat
/-- The `n`-th sector of the flash allocation records, whose layout the spec does not give: identifier, SIZE, KIND and update counter
of each allocation (R375; log entry 146, DESIGN CHOICE). -/
opaque flashRecords (n : Nat) (l : List (Nat × Nat × Nat × Nat)) : List (BitVec 8)
/-- The `n`-th sector of the LDPC-protected metadata (R375; log entry 146, DESIGN CHOICE). -/
opaque flashMeta (n : Nat) : List (BitVec 8)
/-- A flash key wrapped under the device-unique key (R375; the wrapping is not given). -/
opaque wrapKey (key : BitVec 512) : List (BitVec 8)
/-- TC_COUNT of a tile is not aligned with any other tile (Table 10-6): how far tile `t` lags. -/
opaque tcSkew (t : Nat) : Nat

/-- Byte `off` of firmware slot `slot` as the factory programmed it (R362). -/
opaque factoryByte (slot off : Nat) : BitVec 8
/-! HSS (R361): two levels, LMS_SHA256_M32_H10 (6) and LMOTS_SHA256_N32_W8 (4). RFC 8554 is outside the spec: the order of the
fields within an LMS signature and a public key, and their big-endian words, are its own (log entry 145, PRESUMED). -/

/-- A word in the byte order of RFC 8554. -/
def be4 (n : Nat) : List (BitVec 8) := [BitVec.ofNat 8 (n / 2 ^ 24), BitVec.ofNat 8 (n / 2 ^ 16), BitVec.ofNat 8 (n / 2 ^ 8), BitVec.ofNat 8 n]
def bytesOf {n : Nat} (f : Fin n → BitVec 8) : List (BitVec 8) := (List.finRange n).map f
/-- An LMS signature, 1,452 bytes: leaf, one-time signature, tree path. -/
def lmsSignature (leaf : Nat) (ots : Fin 1120 → BitVec 8) (path : Fin 320 → BitVec 8) : List (BitVec 8) :=
  be4 leaf ++ (be4 4 ++ bytesOf ots) ++ be4 6 ++ bytesOf path
/-- An LMS public key, 56 bytes: the typecodes, the identifier and the root. -/
def lmsPublicKey (rest : Fin 48 → BitVec 8) : List (BitVec 8) := be4 6 ++ be4 4 ++ bytesOf rest

/-- The attestation key's level-0 one-time signature by a leaf, which signs the level-1 key of that leaf. -/
opaque hssOts0 (leaf : Fin 1024) : Fin 1120 → BitVec 8
opaque hssPath0 (leaf : Fin 1024) : Fin 320 → BitVec 8
/-- The level-1 key under a level-0 leaf. -/
opaque hssKey1 (leaf : Fin 1024) : Fin 48 → BitVec 8
/-- The level-1 one-time signature of a message. -/
opaque hssOts1 (top leaf : Fin 1024) (msg : List (BitVec 8)) : Fin 1120 → BitVec 8
opaque hssPath1 (top leaf : Fin 1024) : Fin 320 → BitVec 8
/-- Signing with the attestation key, 2,964 bytes (R361, R370): level 0 by leaf q div 1,024, level 1 by leaf q mod 1,024. -/
def hssSign (q : Nat) (msg : List (BitVec 8)) : List (BitVec 8) :=
  let i := Fin.ofNat 1024 (q / 1024)
  let j := Fin.ofNat 1024 q
  be4 1 ++ lmsSignature i.val (hssOts0 i) (hssPath0 i) ++ lmsPublicKey (hssKey1 i) ++ lmsSignature j.val (hssOts1 i j msg) (hssPath1 i j)
/-- A signature has the layout of R361: its length, Nspk, the typecodes and leaves below 1,024. -/
def hssShape (sig : List (BitVec 8)) : Bool :=
  let word := fun (o : Nat) => (sig.drop o).take 4
  let leafOk := fun (o : Nat) => (sig.drop o).take 2 == (be4 0).take 2 && decide (((sig.drop (o + 2)).headD 0).toNat < 4)
  sig.length == 2964 && word 0 == be4 1 && leafOk 4 && word 8 == be4 4 && word 1132 == be4 6 && word 1456 == be4 6 && word 1460 == be4 4
    && leafOk 1512 && word 1516 == be4 4 && word 2640 == be4 6
/-- The hashes of a signature lead to the boot ROM key: key number, message, signature. -/
opaque hssHashes (key : Fin 4) (msg sig : List (BitVec 8)) : Bool
/-- HSS verification (R361, R363). -/
def hssVerify (key : Fin 4) (msg sig : List (BitVec 8)) : Bool := hssShape sig && hssHashes key msg sig
/-- Identifier and root of the device identity's public key. -/
opaque identityRoot : Fin 48 → BitVec 8
/-- The HSS public key of the device identity, 60 bytes: L = 2 and the level-0 key (0x8022:01, R361). -/
def identityKey : List (BitVec 8) := be4 2 ++ lmsPublicKey identityRoot
/-- The endorsement of R369, at most 3,072 bytes (0x8022:02-04). -/
opaque identityEndorsement : List Byte

/-- TCLK in MHz (0x1000:06). -/
def tclkMhz : Nat := if grade2000 then 2000 else 2250

end Sys2Proof.Config
end

