-- ==== Sys2Proof/Machine/Map.lean ====
section
/-!
DEFINITION. Sparse maps in one canonical form, and the byte-order and bit-field helpers every other file uses.
R13: bit 0 is the least significant bit; descriptors and structures in memory are little-endian.
-/
namespace Sys2Proof.Machine

/-- What a map holds at key `k`; `d` where no entry stands. -/
def fget {α : Type} (d : α) (m : FMap α) (k : Nat) : α :=
  match m with
  | [] => d
  | (j, v) :: r => if j = k then v else fget d r k

/-- Puts an entry in its place, over one with the same key. -/
def fins {α : Type} (m : FMap α) (k : Nat) (v : α) : FMap α :=
  match m with
  | [] => [(k, v)]
  | (j, w) :: r =>
    if k < j then (k, v) :: (j, w) :: r
    else if k = j then (k, v) :: r
    else (j, w) :: fins r k v

/-- Writes key `k`, keeping the canonical form: the default value leaves no entry. -/
def fput {α : Type} [DecidableEq α] (d : α) (m : FMap α) (k : Nat) (v : α) : FMap α :=
  if v = d then m.filter fun e => !decide (e.1 = k) else fins m k v

/-- Applies `f` to what stands at key `k`. -/
def fmod {α : Type} [DecidableEq α] (d : α) (m : FMap α) (k : Nat) (f : α → α) : FMap α :=
  fput d m k (f (fget d m k))

/-- Drops every key in `[lo, hi)`. -/
def fclear {α : Type} (m : FMap α) (lo hi : Nat) : FMap α :=
  m.filter fun e => !(decide (lo ≤ e.1) && decide (e.1 < hi))

/-- The entries with a key in `[lo, hi)`. -/
def frange {α : Type} (m : FMap α) (lo hi : Nat) : FMap α :=
  m.filter fun e => decide (lo ≤ e.1) && decide (e.1 < hi)

/-- All keys of a map from `lo` on rise strictly and no entry equals the default. -/
def fwfFrom {α : Type} [DecidableEq α] (d : α) (lo : Nat) : FMap α → Bool
  | [] => true
  | (k, v) :: r => decide (lo ≤ k) && !decide (v = d) && fwfFrom d (k + 1) r

/-- The canonical form. -/
def fwf {α : Type} [DecidableEq α] (d : α) (m : FMap α) : Bool := fwfFrom d 0 m

/-- `n` bytes of memory from address `a`. -/
def mread (m : Mem) (a n : Nat) : List Byte := (List.range n).map fun i => fget 0 m (a + i)

/-- Writes bytes from address `a` upward. -/
def mwrite (m : Mem) (a : Nat) : List Byte → Mem
  | [] => m
  | b :: bs => mwrite (fput 0 m a b) (a + 1) bs

/-- Ranges of a memory with undefined contents: first key, end, number of their free values. -/
abbrev Undef := List (Nat × Nat × Nat)

/-- The undefined range that holds a key. -/
def uFind (u : Undef) (a : Nat) : Option Nat :=
  match u with
  | [] => none
  | r :: rs => if r.1 ≤ a ∧ a < r.2.1 then some r.2.2 else uFind rs a

/-- The ranges outside `[lo, hi)`. -/
def uCut (u : Undef) (lo hi : Nat) : Undef :=
  u.flatMap fun r =>
    if hi ≤ r.1 ∨ r.2.1 ≤ lo then [r]
    else (if r.1 < lo then [(r.1, lo, r.2.2)] else []) ++ (if hi < r.2.1 then [(hi, r.2.1, r.2.2)] else [])

/-- Reads a memory some of whose ranges are undefined: their bytes are free values. -/
def uread (m : Mem) (u : Undef) (a n : Nat) : List Byte :=
  match u with
  | [] => mread m a n
  | _ => (List.range n).map fun i => match uFind u (a + i) with
      | some t => Config.freeByte t (a + i)
      | none => fget 0 m (a + i)

/-- The canonical form of a memory. -/
def memWf (m : Mem) : Bool := fwf 0 m

/-- The number that little-endian bytes spell. -/
def leNat : List Byte → Nat
  | [] => 0
  | b :: bs => b.toNat + 256 * leNat bs

/-- `n` little-endian bytes of a number. -/
def natLe : Nat → Nat → List Byte
  | 0, _ => []
  | n + 1, v => BitVec.ofNat 8 v :: natLe n (v / 256)

/-- `len` bits of a number from bit `lo` on. -/
def bitf (v lo len : Nat) : Nat := (v >>> lo) % 2 ^ len

/-- Bit `i` of a number. -/
def bitAt (v i : Nat) : Bool := bitf v i 1 == 1

/-- A number with `len` bits from `lo` on replaced. -/
def setBitf (v lo len x : Nat) : Nat := v - (bitf v lo len) * 2 ^ lo + (x % 2 ^ len) * 2 ^ lo

/-- 0 or 1. -/
def b2n (b : Bool) : Nat := if b then 1 else 0

/-- Field of `n` bytes at offset `o` of a record, as a number. -/
def recf (b : List Byte) (o n : Nat) : Nat := leNat ((b.drop o).take n)

/-- Whether bytes `[o, o + n)` of a record are all zero. -/
def zeros (b : List Byte) (o n : Nat) : Bool := ((b.drop o).take n).all (· == 0)

/-- `n` zero bytes. -/
def zbytes (n : Nat) : List Byte := List.replicate n 0

/-- Bytes padded with zeros, or cut, to `n`. -/
def padTo (n : Nat) (b : List Byte) : List Byte := b.take n ++ zbytes (n - b.length)

/-- Word `i` of sixteen (or more) 32-bit little-endian words. -/
def wordAt (w : List W32) (i : Nat) : Nat := (w.getD i 0).toNat

/-- Field `[lo+len-1:lo]` of word `i` of a descriptor. -/
def dfield (w : List W32) (i lo len : Nat) : Nat := bitf (wordAt w i) lo len

/-- The 32-bit words that bytes spell. -/
def toWords : Nat → List Byte → List W32
  | 0, _ => []
  | n + 1, b => BitVec.ofNat 32 (leNat (b.take 4)) :: toWords n (b.drop 4)

/-- Two words as a 64-bit number, the lower word first. -/
def dword (w : List W32) (i : Nat) : Nat := wordAt w i + 2 ^ 32 * wordAt w (i + 1)

/-- ⌈a / b⌉ -/
def cdiv (a b : Nat) : Nat := if b = 0 then 0 else (a + b - 1) / b

/-- `a` rounded up to a multiple of `b`. -/
def roundUp (a b : Nat) : Nat := cdiv a b * b

/-- The first answer of `f` over a list. -/
def firstSome {α β : Type} (f : α → Option β) : List α → Option β
  | [] => none
  | a :: as => match f a with | some b => some b | none => firstSome f as

/-- Replaces the elements that satisfy `p`. -/
def updWhere {α : Type} (p : α → Bool) (f : α → α) (l : List α) : List α := l.map fun a => if p a then f a else a

/-- Replaces the first element that satisfies `p`. -/
def updFirst {α : Type} (p : α → Bool) (f : α → α) : List α → List α
  | [] => []
  | a :: as => if p a then f a :: as else a :: updFirst p f as

/-- Drops the first element that satisfies `p`. -/
def dropFirst {α : Type} (p : α → Bool) : List α → List α
  | [] => []
  | a :: as => if p a then as else a :: dropFirst p as

/-- Lists cut into pieces of `n`, the last one short. -/
def chunksOf {α : Type} (n : Nat) : Nat → List α → List (List α)
  | 0, _ => []
  | _ + 1, [] => []
  | k + 1, l => l.take n :: chunksOf n k (l.drop n)

end Sys2Proof.Machine
end

