-- ==== Sys2Proof/Machine/Crypto.lean ====
section
/-!
DEFINITION. mix of R43, CRC-32C (R247, R252, R323, R356, R383, R388), SHA-256 (FIPS 180-4) and HMAC-SHA-256
(RFC 2104), which R342 names (log entry 11, PRESUMED).
-/
namespace Sys2Proof.Machine

/-- mix of R43, unsigned 64-bit with wrap-around. -/
def mix (v : W64) : W64 :=
  let v := v ^^^ (v >>> 31)
  let v := v * 0xA3B195D4C27E6F0B
  let v := v ^^^ (v >>> 29)
  let v := v * 0x8F5C2B9714E3D6A1
  v ^^^ (v >>> 32)

/-- threshold of R43. -/
def roundThreshold (allocId : W32) (index step : Nat) : Nat :=
  let h := mix (allocId.setWidth 64)
  let h := mix (h ^^^ BitVec.ofNat 64 index)
  let h := mix (h ^^^ BitVec.ofNat 64 step)
  h.toNat % 65536

/-- One bit of the reflected CRC-32C register. -/
def crcBit (c : W32) : W32 := if c.getLsbD 0 then (c >>> 1) ^^^ 0x82F63B78 else c >>> 1

def crcByte (c : W32) (b : Byte) : W32 :=
  let c := c ^^^ b.setWidth 32
  crcBit (crcBit (crcBit (crcBit (crcBit (crcBit (crcBit (crcBit c)))))))

/-- CRC-32C of bytes: reflected, all-ones start and final inversion. -/
def crc32c (b : List Byte) : W32 := (b.foldl crcByte 0xFFFFFFFF) ^^^ 0xFFFFFFFF

def rotr32 (x : W32) (n : Nat) : W32 := (x >>> n) ||| (x <<< (32 - n))

def shaK : List W32 :=
  [0x428a2f98, 0x71374491, 0xb5c0fbcf, 0xe9b5dba5, 0x3956c25b, 0x59f111f1, 0x923f82a4, 0xab1c5ed5] ++
  [0xd807aa98, 0x12835b01, 0x243185be, 0x550c7dc3, 0x72be5d74, 0x80deb1fe, 0x9bdc06a7, 0xc19bf174] ++
  [0xe49b69c1, 0xefbe4786, 0x0fc19dc6, 0x240ca1cc, 0x2de92c6f, 0x4a7484aa, 0x5cb0a9dc, 0x76f988da] ++
  [0x983e5152, 0xa831c66d, 0xb00327c8, 0xbf597fc7, 0xc6e00bf3, 0xd5a79147, 0x06ca6351, 0x14292967] ++
  [0x27b70a85, 0x2e1b2138, 0x4d2c6dfc, 0x53380d13, 0x650a7354, 0x766a0abb, 0x81c2c92e, 0x92722c85] ++
  [0xa2bfe8a1, 0xa81a664b, 0xc24b8b70, 0xc76c51a3, 0xd192e819, 0xd6990624, 0xf40e3585, 0x106aa070] ++
  [0x19a4c116, 0x1e376c08, 0x2748774c, 0x34b0bcb5, 0x391c0cb3, 0x4ed8aa4a, 0x5b9cca4f, 0x682e6ff3] ++
  [0x748f82ee, 0x78a5636f, 0x84c87814, 0x8cc70208, 0x90befffa, 0xa4506ceb, 0xbef9a3f7, 0xc67178f2]

def shaInit : List W32 :=
  [0x6a09e667, 0xbb67ae85, 0x3c6ef372, 0xa54ff53a, 0x510e527f, 0x9b05688c, 0x1f83d9ab, 0x5be0cd19]

/-- Big-endian word of four bytes. -/
def beWord (b : List Byte) : W32 := BitVec.ofNat 32 (leNat (b.take 4).reverse)
def beBytes (w : W32) : List Byte := (natLe 4 w.toNat).reverse

def beWords : Nat → List Byte → List W32
  | 0, _ => []
  | n + 1, b => beWord b :: beWords n (b.drop 4)

/-- The message schedule: `w` holds the last sixteen words, the oldest first. -/
def shaSched : Nat → List W32 → List W32
  | 0, _ => []
  | n + 1, w =>
    let w0 := w.getD 0 0
    let w1 := w.getD 1 0
    let w9 := w.getD 9 0
    let w14 := w.getD 14 0
    let s0 := rotr32 w1 7 ^^^ rotr32 w1 18 ^^^ (w1 >>> 3)
    let s1 := rotr32 w14 17 ^^^ rotr32 w14 19 ^^^ (w14 >>> 10)
    w0 :: shaSched n (w.drop 1 ++ [w0 + s0 + w9 + s1])

/-- One round on the eight working words. -/
def shaRound (s : List W32) (k w : W32) : List W32 :=
  let a := s.getD 0 0
  let b := s.getD 1 0
  let c := s.getD 2 0
  let d := s.getD 3 0
  let e := s.getD 4 0
  let f := s.getD 5 0
  let g := s.getD 6 0
  let h := s.getD 7 0
  let t1 := h + (rotr32 e 6 ^^^ rotr32 e 11 ^^^ rotr32 e 25) + ((e &&& f) ^^^ ((~~~ e) &&& g)) + k + w
  let t2 := (rotr32 a 2 ^^^ rotr32 a 13 ^^^ rotr32 a 22) + ((a &&& b) ^^^ (a &&& c) ^^^ (b &&& c))
  [t1 + t2, a, b, c, d + t1, e, f, g]

def shaRounds (s : List W32) : List W32 → List W32 → List W32
  | k :: ks, w :: ws => shaRounds (shaRound s k w) ks ws
  | _, _ => s

def shaBlock (h : List W32) (b : List Byte) : List W32 :=
  List.zipWith (· + ·) h (shaRounds h shaK (shaSched 64 (beWords 16 b)))

def shaBlocks : Nat → List W32 → List Byte → List W32
  | 0, h, _ => h
  | n + 1, h, b => shaBlocks n (shaBlock h (b.take 64)) (b.drop 64)

/-- SHA-256 (FIPS 180-4). -/
def sha256 (m : List Byte) : List Byte :=
  let n := m.length
  let k := (119 - n % 64) % 64
  let p := m ++ [0x80] ++ zbytes k ++ (natLe 8 (8 * n)).reverse
  (shaBlocks (p.length / 64) shaInit p).flatMap beBytes

/-- HMAC-SHA-256 (RFC 2104). -/
def hmac (key m : List Byte) : List Byte :=
  let k := padTo 64 (if key.length > 64 then sha256 key else key)
  sha256 (k.map (· ^^^ 0x5C) ++ sha256 (k.map (· ^^^ 0x36) ++ m))

/-- Bytes of ASCII characters. -/
def ascii (s : List Nat) : List Byte := s.map (BitVec.ofNat 8)

end Sys2Proof.Machine
end

