-- ==== Sys2Proof/Machine/Fp.lean ====
section
/-!
DEFINITION. Number formats and rounding (R30-R33, R40, R41, R73). A binary32 value is its 32 bits. `XVal` is an
exact value between roundings: the real ± num · 2^(-149-sh), an infinity, or NaN, so that every operation is an
exact one followed by one rounding to nearest, ties to even.
-/
namespace Sys2Proof.Machine

/-- An exact value: the finite case is ± num · 2^(-149-sh), with the sign kept for zeros. -/
inductive XVal where
  | nan
  | inf (neg : Bool)
  | fin (neg : Bool) (num sh : Nat)
  deriving DecidableEq, Repr

/-- A floating format: significand bits, total bits below the sign, its subnormal step in units of 2^-149 (as a
power of two), the largest finite code, and whether it has infinities. -/
structure FFmt where
  mb : Nat
  bits : Nat
  t : Nat
  maxCode : Nat
  hasInf : Bool
  deriving DecidableEq, Repr

def fmtF32 : FFmt := ⟨23, 31, 0, 0x7F7FFFFF, true⟩
def fmtBf16 : FFmt := ⟨7, 15, 16, 0x7F7F, true⟩
def fmtFp16 : FFmt := ⟨10, 15, 125, 0x7BFF, true⟩
def fmtE5m2 : FFmt := ⟨2, 7, 133, 0x7B, true⟩
def fmtE4m3 : FFmt := ⟨3, 7, 140, 0x7E, false⟩
def fmtE2m3 : FFmt := ⟨3, 5, 146, 0x1F, false⟩
def fmtE3m2 : FFmt := ⟨2, 5, 145, 0x1F, false⟩
def fmtE2m1 : FFmt := ⟨1, 3, 148, 0x7, false⟩

/-- Magnitude of a code in steps of the format's smallest subnormal. -/
def codeMag (f : FFmt) (c : Nat) : Nat :=
  let e := c >>> f.mb
  let m := c % 2 ^ f.mb
  if e = 0 then m else (2 ^ f.mb + m) <<< (e - 1)

/-- num / den rounded to an integer, ties to even. -/
def rhe (num den : Nat) : Nat :=
  let q := num / den
  let r := num % den
  if 2 * r < den then q else if den < 2 * r then q + 1 else if q % 2 = 0 then q else q + 1

/-- The code nearest to num / den steps of the smallest subnormal, ties to even, with no upper limit. -/
def roundCode (mb num den : Nat) : Nat :=
  let k := Nat.log2 (num / den) - mb
  (k <<< mb) + rhe num (den <<< k)

def isNeg32 (b : W32) : Bool := b.toNat ≥ 2 ^ 31
def mag32 (b : W32) : Nat := b.toNat % 2 ^ 31
/-- The canonical NaN (R31). -/
def nan32 : W32 := 0x7FC00000
def inf32 (neg : Bool) : W32 := if neg then 0xFF800000 else 0x7F800000
def zero32 (neg : Bool) : W32 := if neg then 0x80000000 else 0
def one32 : W32 := 0x3F800000
def isNan32 (b : W32) : Bool := decide (mag32 b > 0x7F800000)
def isInf32 (b : W32) : Bool := decide (mag32 b = 0x7F800000)
def isFin32 (b : W32) : Bool := decide (mag32 b < 0x7F800000)
def isZero32 (b : W32) : Bool := decide (mag32 b = 0)

/-- The exact value of a binary32. -/
def x32 (b : W32) : XVal :=
  if isNan32 b then .nan
  else if isInf32 b then .inf (isNeg32 b)
  else .fin (isNeg32 b) (codeMag fmtF32 (mag32 b)) 0

/-- Rounds an exact value to the code of a format under R32 (the sign apart), `none` for NaN. -/
def roundMag (f : FFmt) (num sh : Nat) : Nat := roundCode f.mb num (2 ^ (sh + f.t))

/-- Rounds to binary32, to nearest, ties to even (R41 rne32). -/
def rne32 (x : XVal) : W32 :=
  match x with
  | .nan => nan32
  | .inf n => inf32 n
  | .fin n num sh =>
    let c := roundMag fmtF32 num sh
    if c > 0x7F7FFFFF then inf32 n else BitVec.ofNat 32 (c + if n then 2 ^ 31 else 0)

def xneg : XVal → XVal
  | .nan => .nan
  | .inf n => .inf (!n)
  | .fin n m s => .fin (!n) m s

/-- Exact sum with the IEEE 754 sign of a zero: -0 only when both terms are -0. -/
def xadd (a b : XVal) : XVal :=
  match a, b with
  | .nan, _ => .nan
  | _, .nan => .nan
  | .inf m, .inf n => if m = n then .inf m else .nan
  | .inf m, _ => .inf m
  | _, .inf n => .inf n
  | .fin n1 a1 s1, .fin n2 a2 s2 =>
    let s := max s1 s2
    let u := a1 <<< (s - s1)
    let v := a2 <<< (s - s2)
    if n1 = n2 then .fin n1 (u + v) s
    else if u = v then .fin false 0 0
    else if v < u then .fin n1 (u - v) s else .fin n2 (v - u) s

def xsub (a b : XVal) : XVal := xadd a (xneg b)

/-- Exact product; infinity times zero is NaN. -/
def xmul (a b : XVal) : XVal :=
  match a, b with
  | .nan, _ => .nan
  | _, .nan => .nan
  | .inf m, .inf n => .inf (m != n)
  | .inf m, .fin n k _ => if k = 0 then .nan else .inf (m != n)
  | .fin n k _, .inf m => if k = 0 then .nan else .inf (m != n)
  | .fin n1 a1 s1, .fin n2 a2 s2 => .fin (n1 != n2) (a1 * a2) (s1 + s2 + 149)

/-- The exact sum of a non-empty list of products (R35, R41): NaN, one infinity, or the real sum. -/
def xsum : List XVal → XVal
  | [] => .fin false 0 0
  | x :: xs => xs.foldl xadd x

def xIsFin : XVal → Bool
  | .fin _ _ _ => true
  | _ => false

/-- Order of two exact values that are not NaN: whether `a < b`. -/
def xlt (a b : XVal) : Bool :=
  match xsub a b with
  | .fin n m _ => n && m != 0
  | .inf n => n
  | .nan => match a, b with
    | .inf true, .inf false => true
    | _, _ => false

/-- Binary32 operations, each one exact operation and one rounding (R73). -/
def fadd (a b : W32) : W32 := rne32 (xadd (x32 a) (x32 b))
def fsub (a b : W32) : W32 := rne32 (xsub (x32 a) (x32 b))
def fmul (a b : W32) : W32 := rne32 (xmul (x32 a) (x32 b))
def ffma (a b c : W32) : W32 := rne32 (xadd (xmul (x32 a) (x32 b)) (x32 c))
def fneg (a : W32) : W32 := if isNan32 a then nan32 else a ^^^ 0x80000000
def fabs (a : W32) : W32 := if isNan32 a then nan32 else a &&& 0x7FFFFFFF
/-- A total order of the non-NaN binary32 values with -0 below +0. -/
def fkey (a : W32) : Int := if isNeg32 a then -(mag32 a : Int) - 1 else (mag32 a : Int)
def fmin (a b : W32) : W32 := if isNan32 a || isNan32 b then nan32 else if fkey a ≤ fkey b then a else b
def fmax (a b : W32) : W32 := if isNan32 a || isNan32 b then nan32 else if fkey a ≤ fkey b then b else a
/-- `a < b` as reals; false with a NaN. -/
def flt (a b : W32) : Bool :=
  !(isNan32 a) && !(isNan32 b) && !(isZero32 a && isZero32 b) && decide (fkey a < fkey b)
def fle (a b : W32) : Bool := !(isNan32 a) && !(isNan32 b) && !flt b a

/-- The binary32 nearest to ± num/den · 2^-149. -/
def ratio32 (neg : Bool) (num den : Nat) : W32 :=
  let c := roundCode 23 num den
  if c > 0x7F7FFFFF then inf32 neg else BitVec.ofNat 32 (c + if neg then 2 ^ 31 else 0)

/-- A binary32 from a natural number, rounded. -/
def f32OfNat (n : Nat) : W32 := ratio32 false (n * 2 ^ 149) 1

/-- VDIV (R73). -/
def fdiv (a b : W32) : W32 :=
  let n := isNeg32 a != isNeg32 b
  if isNan32 a || isNan32 b || (isInf32 a && isInf32 b) || (isZero32 a && isZero32 b) then nan32
  else if isInf32 a || isZero32 b then inf32 n
  else if isInf32 b || isZero32 a then zero32 n
  else ratio32 n (codeMag fmtF32 (mag32 a) * 2 ^ 149) (codeMag fmtF32 (mag32 b))

def frcp (a : W32) : W32 := fdiv one32 a

/-- ⌊√n⌋ by bits, from bit `b` down. -/
def isqrtFrom : Nat → Nat → Nat → Nat
  | 0, n, r => if (r + 1) * (r + 1) ≤ n then r + 1 else r
  | b + 1, n, r =>
    let r' := r + 2 ^ (b + 1)
    isqrtFrom b n (if r' * r' ≤ n then r' else r)

/-- ⌊√n⌋ -/
def isqrt (n : Nat) : Nat := isqrtFrom (Nat.log2 n / 2 + 1) n 0

/-- VSQRT (R73). -/
def fsqrt (a : W32) : W32 :=
  if isNan32 a then nan32
  else if isZero32 a then a
  else if isNeg32 a then nan32
  else if isInf32 a then a
  else
    let v := codeMag fmtF32 (mag32 a) * 2 ^ 149
    let s := isqrt v
    ratio32 false (2 * s + b2n (decide (s * s ≠ v))) 2

/-- VRSQRT (R73). -/
def frsqrt (a : W32) : W32 :=
  if isNan32 a then nan32
  else if isZero32 a then inf32 (isNeg32 a)
  else if isNeg32 a then nan32
  else if isInf32 a then 0
  else
    let m := codeMag fmtF32 (mag32 a)
    let s := isqrt (2 ^ 447 / m)
    ratio32 false (2 * s + b2n (decide (s * s * m ≠ 2 ^ 447))) 2

/-- Status bits of R38: INF_SEEN (bit 0), NAN_SEEN (bit 1). -/
def seen (b : W32) : Nat := b2n (isInf32 b) + 2 * b2n (isNan32 b)
def seenAll (l : List W32) : Nat := l.foldl (fun s b => s ||| seen b) 0

/-! ### Narrowing and widening (R31, R32) -/

/-- The exact value of a code of a narrow floating format, sign bit above `bits`. -/
def widen (f : FFmt) (c : Nat) : XVal :=
  let n := bitAt c f.bits
  let m := c % 2 ^ f.bits
  if m > f.maxCode then (if f.hasInf && m == f.maxCode + 1 then .inf n else .nan)
  else .fin n (codeMag f m <<< f.t) 0

/-- The canonical NaN of a narrow format (R31). -/
def nanCode (f : FFmt) : Nat :=
  if f.hasInf then f.maxCode + 1 + 2 ^ (f.mb - 1) else f.maxCode + 1

/-- Narrowing to a format with infinities or to E4M3 (Table 2-2). -/
def narrow (f : FFmt) (x : XVal) : Nat :=
  match x with
  | .nan => nanCode f
  | .inf n => if f.hasInf then f.maxCode + 1 + b2n n * 2 ^ f.bits else nanCode f
  | .fin n num sh =>
    let c := roundMag f num sh
    if c > f.maxCode then (if f.hasInf then f.maxCode + 1 + b2n n * 2 ^ f.bits else nanCode f)
    else c + b2n n * 2 ^ f.bits

/-- Narrowing to an MX element: clamped to the largest magnitude (Table 2-2). -/
def narrowClamp (f : FFmt) (x : XVal) : Nat :=
  match x with
  | .nan => 0
  | .inf n => f.maxCode + b2n n * 2 ^ f.bits
  | .fin n num sh => min (roundMag f num sh) f.maxCode + b2n n * 2 ^ f.bits

/-- Narrowing to INT8 (Table 2-2), as a byte. -/
def narrowInt8 (x : XVal) : Nat :=
  match x with
  | .nan => 0
  | .inf n => if n then 0x80 else 0x7F
  | .fin n num sh =>
    let m := rhe num (2 ^ (149 + sh))
    if n then (256 - min m 128) % 256 else min m 127

/-- The value of an INT8 byte. -/
def widenInt8 (c : Nat) : XVal :=
  if c < 128 then .fin false (c * 2 ^ 149) 0 else .fin true ((256 - c) * 2 ^ 149) 0

/-- BF16 and FP16 of an exact value, rounded once (R40). -/
def toBf16 (x : XVal) : Nat := narrow fmtBf16 x

/-! ### MX blocks (R33, R434) -/

/-- The element format of an MX operand: format code 4, 5 or 6 of Table 3-7 and its MX_ELEM bit. -/
def mxFmt (code : Nat) (elem : Bool) : FFmt :=
  if code = 4 then (if elem then fmtE5m2 else fmtE4m3)
  else if code = 5 then (if elem then fmtE3m2 else fmtE2m3)
  else fmtE2m1

/-- emax of an MX element type (R33). -/
def mxEmax (code : Nat) (elem : Bool) : Nat :=
  if code = 4 then (if elem then 15 else 8) else if code = 5 then (if elem then 4 else 2) else 2

/-- Value of an MX element code under its block scale. -/
def mxWiden (f : FFmt) (scale c : Nat) : XVal :=
  if scale = 255 then .nan
  else match widen f c with
    | .fin n num sh =>
      if scale ≥ 127 then .fin n (num <<< (scale - 127)) sh else .fin n num (sh + (127 - scale))
    | x => x

/-- The E8M0 scale of a block of binary32 values (R33). -/
def mxScale (code : Nat) (elem : Bool) (l : List W32) : Nat :=
  if l.any (fun b => !isFin32 b) then 255
  else
    let amax := l.foldl (fun a b => max a (codeMag fmtF32 (mag32 b))) 0
    if amax = 0 then 0
    else
      -- ⌊log2 amax⌋ - emax + 127, where amax counts steps of 2^-149
      Nat.log2 amax + 127 - 149 - mxEmax code elem

/-- The codes of a block with a NaN or an infinity: the scale says NaN, no rule gives the codes (log entry 92, DESIGN CHOICE). -/
def mxOpenCode (code : Nat) (elem : Bool) (l : List W32) (i : Nat) : Nat :=
  (Config.mxNanCode code elem l i).toNat % 2 ^ ((mxFmt code elem).bits + 1)

/-- The element codes of a block under its scale: quotient, rounded and clamped (R33; a zero keeps its sign, log entry 95, DEDUCED). -/
def mxCodes (code : Nat) (elem : Bool) (l : List W32) : List Nat :=
  let sc := mxScale code elem l
  l.zipIdx.map fun e =>
    if sc = 255 then mxOpenCode code elem l e.2
    else match x32 e.1 with
      | .fin n num sh =>
        narrowClamp (mxFmt code elem)
          (if sc ≥ 127 then .fin n num (sh + (sc - 127)) else .fin n (num <<< (127 - sc)) sh)
      | x => narrowClamp (mxFmt code elem) x

/-! ### Pair-FP32 (R40, R41, R146) -/

/-- A pair-FP32 value: hi, lo. -/
abbrev Pair := W32 × W32

def pair32 (b : W32) : Pair := (if isNan32 b then nan32 else b, 0)

/-- The exact value of a pair, normalised or not (log entry 94, DESIGN CHOICE); a -0 found in lo is read as +0. -/
def xpair (p : Pair) : XVal :=
  if isZero32 p.2 then x32 p.1 else xadd (x32 p.1) (x32 p.2)

/-- The pair of an exact value: hi = rne32 x, lo = rne32 (x - hi), lo = +0 when zero or when hi is not finite. -/
def pairOf (x : XVal) : Pair :=
  let hi := rne32 x
  if isFin32 hi then
    let lo := rne32 (xsub x (x32 hi))
    (hi, if isZero32 lo then 0 else lo)
  else (hi, 0)

def pfin (p : Pair) : Bool := isFin32 p.1

def padd (a b : Pair) : Pair :=
  if pfin a && pfin b then pairOf (xadd (xpair a) (xpair b)) else (fadd a.1 b.1, 0)
def psub (a b : Pair) : Pair :=
  if pfin a && pfin b then pairOf (xsub (xpair a) (xpair b)) else (fsub a.1 b.1, 0)
def pmul (a b : Pair) : Pair :=
  if pfin a && pfin b then pairOf (xmul (xpair a) (xpair b)) else (fmul a.1 b.1, 0)
def pfma (a b c : Pair) : Pair :=
  if pfin a && pfin b && pfin c then pairOf (xadd (xmul (xpair a) (xpair b)) (xpair c)) else (ffma a.1 b.1 c.1, 0)
def pneg (a : Pair) : Pair := (fneg a.1, if isZero32 a.2 then 0 else fneg a.2)

/-- A Dot-Product Unit lane: the exact sum of the products of two lists, as a pair (R41). -/
def plane (a b : List Pair) : Pair :=
  if a.all pfin && b.all pfin then pairOf (xsum (List.zipWith (fun x y => xmul (xpair x) (xpair y)) a b))
  else (rne32 (xsum (List.zipWith (fun x y => xmul (x32 x.1) (x32 y.1)) a b)), 0)

/-! ### The residue check of a Dot-Product Unit lane (R297) -/

/-- The residue that a lane keeps. -/
def residue (x : Int) : Int := x % 4095
/-- A lane's exact sum of products of significands, each aligned by a shift, in units of the lane's grid. -/
def dpuSum (terms : List (Int × Int × Nat)) : Int := (terms.map fun t => t.1 * t.2.1 * 2 ^ t.2.2).foldr (· + ·) 0
/-- The residue that the products predict: 2^12 leaves 1, so a shift by s multiplies a residue by 2^(s mod 12). -/
def dpuResidue (terms : List (Int × Int × Nat)) : Int :=
  (terms.map fun t => residue (residue (t.1 * t.2.1) * 2 ^ (t.2.2 % 12))).foldr (fun a b => residue (a + b)) 0
/-- Whether the check finds a fault: the sum's residue differs from the predicted one, or the duplicated steps differ. -/
def dpuFinds (terms : List (Int × Int × Nat)) : LaneFault → Bool
  | .sum err => residue (dpuSum terms + err) != dpuResidue terms
  | .rounder => true
/-- The same for every lane: a sum's error escapes only as a multiple of 4,095 grid units. -/
def faultFound : LaneFault → Bool
  | .sum err => err % 4095 != 0
  | .rounder => true

/-- normalise(h, l) of R146. -/
def pnorm (h l : W32) : Pair := pairOf (xadd (x32 h) (x32 l))

/-- psqrt of R146. -/
def psqrt (v : Pair) : Pair :=
  let r := fsqrt v.1
  if isZero32 r || !isFin32 r then (r, 0)
  else
    let e := psub v (pmul (r, 0) (r, 0))
    pnorm r (fdiv e.1 (fmul 0x40000000 r))

/-- pdiv of R146. -/
def pdiv (a q : Pair) : Pair :=
  let r := fdiv a.1 q.1
  if isZero32 r || !isFin32 r || isZero32 q.1 || !isFin32 q.1 then (r, 0)
  else
    let e := psub a (pmul (r, 0) q)
    pnorm r (fdiv e.1 q.1)

/-! ### EXACT accumulators (R47, R48) -/

/-- An EXACT accumulator: the 640-bit two's-complement sum in units of 2^-149 and the four flags. -/
structure Acc where
  v : BitVec 640
  pinf : Bool
  ninf : Bool
  nan : Bool
  allNeg0 : Bool
  deriving DecidableEq, Repr

/-- The empty record (Table 4-2): zero, with only bit 3 set. -/
def accEmpty : Acc := ⟨0, false, false, false, true⟩

/-- Adds one binary32 contribution exactly. -/
def accAdd (a : Acc) (b : W32) : Acc :=
  if isNan32 b then { a with nan := true, allNeg0 := false }
  else if isInf32 b then
    (if isNeg32 b then { a with ninf := true, allNeg0 := false } else { a with pinf := true, allNeg0 := false })
  else
    let m := BitVec.ofNat 640 (codeMag fmtF32 (mag32 b))
    { a with v := if isNeg32 b then a.v - m else a.v + m, allNeg0 := a.allNeg0 && decide (b = 0x80000000) }

/-- Merges two records: exact sum; the seen flags are ORed, and "all −0" holds when it holds of both (R47, R48; log entry 93, DEDUCED). -/
def accMerge (a b : Acc) : Acc :=
  ⟨a.v + b.v, a.pinf || b.pinf, a.ninf || b.ninf, a.nan || b.nan, a.allNeg0 && b.allNeg0⟩

/-- The one rounding that ends an EXACT reduction (R48). -/
def accRound (a : Acc) : W32 :=
  if a.nan || (a.pinf && a.ninf) then nan32
  else if a.pinf then inf32 false
  else if a.ninf then inf32 true
  else if a.v = 0 then zero32 a.allNeg0
  else if a.v.msb then rne32 (.fin true (2 ^ 640 - a.v.toNat) 0)
  else rne32 (.fin false a.v.toNat 0)

/-- The flag word of a record (Table 4-2). -/
def accFlags (a : Acc) : Nat := b2n a.pinf + 2 * b2n a.ninf + 4 * b2n a.nan + 8 * b2n a.allNeg0

/-- A record as its 128 bytes. -/
def accBytes (a : Acc) : List Byte := natLe 80 a.v.toNat ++ natLe 4 (accFlags a) ++ zbytes 44

/-- A record read from 128 bytes. -/
def accOfBytes (b : List Byte) : Acc :=
  let f := recf b 80 4
  ⟨BitVec.ofNat 640 (recf b 0 80), bitAt f 0, bitAt f 1, bitAt f 2, bitAt f 3⟩

end Sys2Proof.Machine
end

