-- ==== Sys2Proof/Machine/State.lean ====
section
/-!
DEFINITION. The state of the device: everything the spec gives the block, as plain data, and the state right
after reset. The parts follow the chapters; INVENTORY.md lists every piece with its rule and its reset value.
Physical readings, delays and the moments at which the device acts are commands, not state.
-/
namespace Sys2Proof.Machine

/-! ### Sequencers (chapter 10) -/

/-- Thread states of Table 10-1. -/
inductive TState where
  | idle | ready | blocked | faulted
  deriving DecidableEq, Repr

/-- Who issued a descriptor: a thread (its number, SEQ of R223 and record address), a collective engine for a
staged chunk (R263), a host queue entry (its SQ counter value, R333), or the tile's Grinder or Percolator (R78, R129). -/
inductive Org where
  | thread (th : Thr) (seq : W32) (rec : Option Nat)
  | coll (p : Port) (chunk : Nat)
  | host (q : HQueue) (seq : W32)
  | grinder
  | solver
  deriving DecidableEq, Repr

/-- Where a queued descriptor stands (R224): behind its queue or at the head before WAIT_SEM, in the semaphore's
waiter queue, past WAIT_SEM, running, or done with its end still to come. -/
inductive Phase where
  | waiting | joined | ready | running | done
  deriving DecidableEq, Repr

/-- An entry of an issue unit's queue (Table 10-7), with the fields of its completion record (Table 10-8) and, for
a matrix operation, the output blocks drained and the block held for the epilogue. `bufPos` also counts the host reads that a
running request has sent; `late`: a wait on the semaphore of a tier move has begun before its signal (R204). -/
structure QEnt where
  id : Nat
  unit : Nat
  words : List W32
  org : Org
  phase : Phase := .waiting
  code : Nat := 0
  status : Nat := 0
  count : Nat := 0
  alloc : Nat := 0
  aux : Nat := 0
  off : Nat := 0
  blks : List Nat := []
  bufBlk : Option Nat := none
  buf : List W32 := []
  bufPos : Nat := 0
  late : Bool := false
  deriving DecidableEq, Repr

/-- What a BLOCKED thread waits for beyond the listed tc (R216). -/
inductive Wait where
  | none
  | swait (d : Reg) (sm : SemId)
  | queue (d : Reg) (e : QEnt)
  | fence (m : BitVec 3)
  | icache (line : Nat)
  deriving DecidableEq, Repr

/-- A thread (R214) with its per-thread control registers (Table 10-6) and its posted stores: the number, address
and bytes of each store not yet written, oldest first (R238). `busy` holds while the listed tc run, and `held` while an update of the
thread waits to close its region (R186). -/
structure Thread where
  regs : FMap W64 := []
  pc : W64 := 0
  st : TState := .idle
  busy : Bool := false
  wait : Wait := .none
  waitLimit : Nat := 0
  prio : Nat := 0
  issueSeq : Nat := 0
  stNext : Nat := 0
  posted : List (Nat × Nat × List Byte) := []
  held : Bool := false
  deriving DecidableEq, Repr

/-- A waiter of a semaphore (R231). -/
inductive Waiter where
  | thread (th : Thr) (n : Nat)
  | desc (unit id : Nat)
  | grinder
  | script
  | job
  | coll (p : Port)
  deriving DecidableEq, Repr

/-- A semaphore (R228, R231). -/
structure Sem where
  count : Nat := 0
  ovf : Bool := false
  waiters : List Waiter := []
  deriving DecidableEq, Repr

/-- Source of an increment (R233). -/
inductive SigSrc where
  | thread (t : TileId) (th : Thr) (pc : W64) (word : W32) (stNext : Nat)
  | desc
  | program
  | fault
  deriving DecidableEq, Repr

/-- A completion record on its way: where it is written, its fields (Table 10-8) and the thread it is for. -/
structure Rec where
  tile : TileId
  addr : Nat
  unit : Nat
  code : Nat
  status : Nat
  count : Nat
  alloc : Nat
  aux : Nat
  off : Nat
  seq : Nat
  th : Nat
  deriving DecidableEq, Repr

/-- A signal made and not yet in effect (R229, R234), and the tile that made it: signals of one tile to one semaphore take
effect in order. -/
structure Sig where
  tile : TileId
  sem : SemId
  n : Nat
  src : SigSrc
  record : Option Rec := none
  from_ : Option TileId := none
  deriving DecidableEq, Repr

/-- A stationary register of an array that holds zero in every cell. -/
def zeroCells : List Nat := List.replicate 1024 0
/-- A Transposing Buffer buffer that holds zero. -/
def zeroBuf : List Byte := List.replicate 8192 0

/-- A compute or curvature tile: threads, semaphores, tile control registers, instruction cache (a line's 64
bytes), the thread that last issued at each priority, the queues of Table 10-7 by unit, the loadable table slots
(images as 8,224 words; absent when empty), the row buffer of the vector engine (R93) and the lane that its shadow lane
recomputes next (R298); and of the arrays: the two stationary registers of every cell (array · 2 + register, as the cells'
1,024 operand codes or accumulators) with the active one (R58), the two Transposing Buffer buffers of 8 KiB with the one that
fills next (R61), and the skewed-feed queue of each array row (array · 32 + row, at most 16 entries; R60). -/
structure Tile where
  threads : FMap Thread := []
  sems : FMap Sem := []
  faultBase : W64 := 0
  faultSem : Nat := 63
  icache : FMap (List Byte) := []
  lastIssue : FMap Nat := []
  queues : FMap (List QEnt) := []
  slots : FMap (List W32) := []
  rowBuf : List W32 := []
  shadow : Nat := 0
  cells : FMap (List Nat) := []
  active : FMap Nat := []
  transBuf : FMap (List Byte) := []
  transNext : Nat := 0
  feedQ : FMap (List Nat) := []
  deriving DecidableEq, Repr

/-! ### Allocations and memory (chapter 9) -/

/-- An allocation with its state marks (Tables 9-3 to 9-7), the DELAY region that fills (R186), a FREE that waits, the counter of a
COMMIT_BEGIN that no COMMIT_END has followed (R307), a commit that a poisoned line keeps from the partner (R210), whether the last commit
sent went in full (R301), the stack where an HBM allocation's interleave starts (R193), whether the partner has confirmed the copy (R200),
and whether other means than a commit have written it since its full copy was last sent (R300). -/
structure Alloc where
  flags : Nat
  kind : Nat
  size : Nat
  elems : Nat
  spAddr : Nat := 0
  spTile : Nat := 0
  hostAddr : Nat := 0
  invalid : Bool := false
  torn : Bool := false
  busy : Bool := false
  mirrorCopy : Bool := false
  unmirrored : Bool := false
  fullBefore : Bool := false
  flashOpen : Bool := false
  poisonFull : Bool := false
  freeing : Bool := false
  filling : Bool := false
  counter : Nat := 0
  tornIndex : Nat := 0
  mirrorAck : Nat := 0
  fillRegion : Nat := 0
  begun : Option Nat := none
  unsent : Bool := false
  pinDie : Nat := 0
  stack : Nat := 0
  confirmed : Bool := false
  dirty : Bool := false
  deriving DecidableEq, Repr

/-- An entry of the slow-tier update engine's queue (R186): the update descriptor, its hyperparameter block and
norm record, the closed region, the issuing tile and entry (none for the partner's REGION), whether the
partner's acknowledgement is still awaited (R187), the closed region's bytes for a replay of the partner's, and its identifier,
whether the engine has begun it, and the host reads that it has sent (R328). -/
structure SlowEnt where
  words : List W32
  hp : List Byte
  norm : List Byte
  region : Nat
  from_ : Option (TileId × QEnt)
  ackWait : Bool
  data : List Byte := []
  id : Nat := 0
  started : Bool := false
  reqs : Nat := 0
  deriving DecidableEq, Repr

/-- Memories and their check state: scratchpads (tile · 2^23 + address), allocations' bytes ((id · 64 + slot) · 2^64 + offset), the ranges
of either whose contents are undefined (first key, end, and the number of their free values; R142), per-line INVALID bits and poison of the
scratchpads, poison of allocation units, the allocation table, the slow-tier queue, whether TIER_OFFLINE holds and the `tc` since which the
mainband is not up (R207), and the HBM4 bytes that Die L took at start-up (R193). -/
structure MemSt where
  scratch : Mem := []
  tier : Mem := []
  scratchUndef : List (Nat × Nat × Nat) := []
  tierUndef : List (Nat × Nat × Nat) := []
  spInvalid : FMap Bool := []
  spPoison : FMap Bool := []
  tierPoison : FMap Bool := []
  allocs : FMap (Option Alloc) := []
  slow : List SlowEnt := []
  offlineNoted : Bool := false
  hostDown : Nat := 0
  hbmReserved : Nat := 1313 * 2 ^ 20
  deriving DecidableEq, Repr

/-! ### Curvature tiles (chapters 6, 7) -/

/-- A launched program's origin: the issuing tile, its queue entry, and the descriptor's words (R226, R227). -/
structure Launch where
  tile : TileId
  ent : QEnt
  deriving DecidableEq, Repr

/-- Stream states (Table 6-4, R122). -/
inductive SState where
  | unbound | open_ | closing | closed
  deriving DecidableEq, Repr

/-- A Grinder stream: its descriptor read once by SOPEN, its block sizes, n of R117, the admission index q, the
DISCARDED count, the residue flag, and the blocks whose sweep could not read or write S with the first such code and unit (R201, R207,
R209). -/
structure Stream where
  st : SState := .unbound
  words : List W32 := []
  sizes : List Nat := []
  n : Nat := 0
  q : Nat := 0
  disc : Nat := 0
  residue : Bool := false
  lost : List Nat := []
  poison : Option (Nat × Nat) := none
  code : Nat := 0
  deriving DecidableEq, Repr

/-- A tapped operation on its way to a curvature tile (R110): stream, rows, row length, format and element type,
physical source tile, the rows still to come as stored values widened to binary32, with their bytes as they are staged (R111), the operation
that sends them, and whether the open record has arrived while its stream was OPEN and waits for space (R111, R112). -/
structure Tap where
  stream : Nat
  m : Nat
  l : Nat
  fmt : Nat
  elem : Bool
  src : Nat
  rows : List (List W32)
  op : Nat := 0
  bwd : Bool := false
  arrived : Bool := false
  bytes : List (List Byte) := []
  deriving DecidableEq, Repr

/-- A row group staged in a half of the tap pool (R111, R117): its stream and its rows after R116; their bytes stand in the pool. -/
structure Group where
  stream : Nat
  rows : List (List W32)
  deriving DecidableEq, Repr

/-- An admitted tapped operation: its admission index, whether its rows are discarded, the row index reached. -/
structure Adm where
  tap : Tap
  q : Nat
  row : Nat
  keep : Bool
  part : List (List W32)
  deriving DecidableEq, Repr

/-- A running Grinder program or Percolator script: its launch, the index of the instruction reached, the
instruction waiting on a semaphore, the status bits gathered, the last JOB's AUX fields, the stream whose SCLOSE is
pending (R122), and the instruction that waits for the vector engine: its index and the word decoded (R126). -/
structure Prog where
  launch : Launch
  addr : Nat
  idx : Nat
  waiting : Bool := false
  status : Nat := 0
  failed : Nat := 0
  jobAux : Nat := 0
  scPending : Option Nat := none
  decoded : Option (Nat × Nat) := none
  deriving DecidableEq, Repr

/-- The iterates of a ROOT block job (R145), with the direct residual once it is computed. Matrices are rows of pairs. -/
structure RootSt where
  d : List (List Pair)
  x : List (List Pair)
  m : List (List Pair)
  best : List (List Pair)
  rho : Pair
  rhoBest : Pair
  k : Nat
  kBest : Nat
  worse : Nat
  rhoD : Option Pair := none
  deriving DecidableEq, Repr

/-- A block job under way: the job descriptor, the block jobs done, the STATUS bits, code and result fields, the
iterates of a ROOT, whether its VERIFY pass runs, the bytes that its end writes, and whether it has left its workspace untouched (R142). -/
structure Job where
  words : List W32
  j : Nat
  total : Nat
  firstCode : Nat := 0
  ok : Nat := 0
  ready : Bool := false
  started : Bool := false
  finished : Bool := false
  code : Nat := 0
  st : Nat := 0
  resid : W32 := 0
  residDirect : W32 := 0
  lambda : W32 := 0
  attempts : Nat := 0
  pivot : Nat := 0
  sig : W64 := 0
  src : Nat × Nat := (0, 0)
  root : Option RootSt := none
  verify : Bool := false
  out : List (Nat × List Byte) := []
  unused : Bool := false
  deriving DecidableEq, Repr

/-- A curvature tile's Grinder and Percolator: `fillBytes` of the filling half are spoken for, rows stand in its first `fillPos`, and `half`
says which one it is. `fillAt` and `sweepAt` are the rows that stand in the half that fills and the one that is swept: stream, scratchpad
address and bytes. -/
structure CurvSt where
  streams : FMap Stream := []
  openRecs : List Tap := []
  adm : List Adm := []
  fill : List Group := []
  fillBytes : Nat := 0
  half : Bool := false
  fillPos : Nat := 0
  sweep : List Group := []
  fillAt : List (Nat × Nat × Nat) := []
  sweepAt : List (Nat × Nat × Nat) := []
  grind : Option Prog := none
  grindQ : List Launch := []
  script : Option Prog := none
  scriptQ : List Launch := []
  job : Option Job := none
  testing : Bool := false
  deriving DecidableEq, Repr

/-! ### Links and collectives (chapters 11, 12) -/

/-- A packet (Table 11-7). -/
structure Packet where
  type : Nat
  flags : Nat
  dst : Nat
  src : Nat
  srcIndex : Nat
  dstIndex : Nat
  collId : Nat
  epoch : Nat
  seq : Nat
  hops : Nat
  dhash : Nat
  payload : List Byte
  deriving DecidableEq, Repr

/-- A chunk in a retention area (R254): the packet, the port it left by (16: none yet or own device), the resends
made, and whether it is to be sent again by a new route (R285). -/
structure Retained where
  pkt : Packet
  port : Nat
  resends : Nat
  again : Bool := false
  deriving DecidableEq, Repr

/-- A flit that waits for a port: its channel, its place in its packet, whether the packet is sent again ahead of new ones
(R285), and its DATA area. -/
structure TxFlit where
  vc : Nat
  idx : Nat
  resend : Bool
  data : List Byte
  deriving DecidableEq, Repr

/-- A port: Table 11-6 and Table 12-10 states, the training exchange of R276 with the wait of R280 (0: none has been set
since reset), the mode since its last training (R243), flit sequence numbers, replay and receive buffers, whether the
first flit of a two-flit codeword has come and its codeword decoded (R247), the flits that each queued packet frees (R249), credits,
lane states, the lists of R282, whether a full retention area has held a chunk back (0x6019), what it has sent, and of the places beyond the
highest seen how many have been asked for already (R248). -/
structure PortSt where
  state : Nat := 0
  reason : Nat := 0
  trained : Bool := false
  ackSent : Bool := false
  ackRecv : Bool := false
  negRev : Nat := 0
  downs : List Nat := []
  retrainMs : Nat := 0
  peerFaddr : Nat := 0
  peerSerial : Nat := 0
  peerInfo : Nat := 0
  txSeq : Nat := 0
  rxSeq : Nat := 0
  rxHigh : Nat := 0
  replay : List (Nat × Nat × List Byte) := []
  ooo : List (Nat × Nat × List Byte) := []
  awaiting : Bool := false
  credit : FMap Nat := []
  owed : FMap Nat := []
  held : FMap Nat := []
  rxStream : FMap (List Byte) := []
  rxq : List (Nat × Packet) := []
  txq : List TxFlit := []
  l8For : Option Nat := none
  recal : Option Nat := none
  badLanes : List Nat := []
  unreach : List Nat := []
  planeFull : Bool := false
  upMask : Nat := 0
  tx : List (List Byte) := []
  mode : Option Nat := none
  codeword : Option Bool := none
  rxFlits : FMap (List Nat) := []
  stalled : Bool := false
  rxAsked : Nat := 0
  deriving DecidableEq, Repr

/-- A flow into the device (R252, R254): every chunk below `cum` and those in `above` written, chunks written since
the last ACK, the chunk that had LAST, chunk payloads that are not yet staged or parsed, the record of a NORM entry, the
next chunk to parse (R264), and the records staged. -/
structure FlowIn where
  cum : Nat := 0
  above : List Nat := []
  unacked : Nat := 0
  last : Option Nat := none
  got : List (Nat × List Byte) := []
  recs : List (List Byte) := []
  next : Nat := 0
  nrec : Nat := 0
  deriving DecidableEq, Repr

/-- An active collective (R258-R268): the engine that runs it, its entry, the group's ranks and addresses, counts, own index, hash, mode in
force, the part of ALLREDUCE or BROADCAST reached, flows in by source index, chunks sent by destination index, reduction chunks issued and
done, arrivals of a BARRIER, RESHARD's table with the moves made, the cycles whose first chunk has been staged and what the staging buffers
hold by port and cycle (R107), ports that its flows to an address keep off (R285), what its result reports, and whether the start of its
data waits for the UCIe link (R337). -/
structure Coll where
  port : Nat
  words : List W32
  group : List Nat
  faddrs : List Nat
  counts : List Nat
  recvCounts : List Nat
  me : Nat
  hash : Nat
  mode : Nat
  part : Nat := 0
  ins : FMap FlowIn := []
  sent : FMap Nat := []
  issued : List Nat := []
  done : List Nat := []
  arrived : List Nat := []
  released : Bool := false
  table : List (Nat × Nat × Nat × Nat) := []
  moved : List Nat := []
  staged : List Nat := []
  stages : List (Nat × Nat × List Byte) := []
  avoid : List (Nat × Nat) := []
  degraded : Bool := false
  status : Nat := 0
  code : Nat := 0
  held : Bool := false
  deriving DecidableEq, Repr

/-- A collective program on its home engine (R258, R269), with the entry reached once it has been read. -/
structure CProg where
  launch : Launch
  alloc : Nat
  off : Nat
  resOff : Nat
  idx : Nat := 0
  waiting : Bool := false
  passed : Bool := false
  degraded : Nat := 0
  status : Nat := 0
  words : List W32 := []
  deriving DecidableEq, Repr

/-- The link engines' shared state: collectives, retention areas, early arrivals, the job rank table, the flows of SIGNAL chunks between
devices, the issues ended of each COLL_ID with whether each completed (R287), the ABORT chunks applied (identifier, epoch, source), the
buffer entries that start-up took (R193), and the ports that the SIGNAL flows to an address keep off (R285). -/
structure FabricSt where
  ports : FMap PortSt := []
  engines : FMap (Option CProg) := []
  engineQ : FMap (List Launch) := []
  colls : List Coll := []
  retained : List Retained := []
  early : List (Nat × Packet) := []
  ranks : Option (List (Nat × Bool)) := none
  myRank : Nat := 0
  sigSeq : FMap Nat := []
  sigIn : FMap FlowIn := []
  doneIds : FMap (List (Nat × Bool)) := []
  abortsIn : List (Nat × Nat × Nat) := []
  portCfg : FMap Nat := []
  sigAvoid : List (Nat × Nat) := []
  deriving DecidableEq, Repr

/-! ### Pair and safety (chapter 13) -/

/-- A mirror packet on P15 (Table 13-3). -/
structure MirrorPkt where
  sub : Nat
  plane : Nat
  reason : Nat
  value : Nat
  alloc : Nat
  epoch : Nat
  seq : Nat
  data : List Byte
  deriving DecidableEq, Repr

/-- The pair and the safety block: state, mirror packets not yet on P15, units written since a version (R301), a join under way, the copies
not acknowledged yet and whether the partner's are complete (R299, R312), whether heartbeats have begun (R416), regions arriving (R187),
self-test queues and rotation per die, retired tiles, checksum flag times (R296), fatal code. -/
structure SafetySt where
  pairState : Nat := 0
  fatalCode : Nat := 0
  failRecord : List Byte := []
  mirrorTx : List MirrorPkt := []
  written : FMap (List Nat) := []
  joinWait : Bool := false
  joinAcks : List Nat := []
  copies : List (Nat × Nat × Nat) := []
  partnerDone : Bool := false
  hbOn : Bool := false
  regionRx : FMap (List Byte) := []
  testQ : FMap (List (Nat × Bool)) := []
  testNow : FMap (Option Nat) := []
  testDone : FMap (Option Bool) := []
  nextTile : FMap Nat := []
  sinceCurv : FMap Nat := []
  nextCurv : FMap Nat := []
  spareFor : FMap (Option Nat) := []
  retired : FMap (Option Nat) := []
  tilesRetired : Nat := 0
  flagTimes : FMap (List Nat) := []
  hbmRecal : FMap Bool := []
  deriving DecidableEq, Repr

/-! ### Host interface (chapter 14) -/

/-- A host queue pair: SQ tail, CQ head, fetch and write positions, and ERROR (R330, R332). -/
structure HQ where
  sqTail : Nat := 0
  cqHead : Nat := 0
  fetch : Nat := 0
  reserve : Nat := 0
  write : Nat := 0
  error : Bool := false
  deriving DecidableEq, Repr

/-- A message that the device sends (Table 14-4). -/
inductive HostOut where
  | nop | nak
  | hello (serial rev : Nat)
  | hread (tag : Nat) (addr bytes : Nat)
  | hwrite (addr : Nat) (data : List Byte)
  | interrupt (v : Nat)
  deriving DecidableEq, Repr

/-- What an outstanding HREAD_REQ serves: SQ entries of a queue, or an allocation's bytes for a request. -/
inductive ReadFor where
  | sq (q : HQueue) (first n : Nat)
  | tier (id off : Nat) (owner : Nat)
  deriving DecidableEq, Repr

/-- An outstanding read (R326): its purpose, its length, and of an SQ read the bytes that have arrived by offset; the
64-byte units that have arrived, and those that arrived bad (R329). -/
structure HRead where
  what : ReadFor
  bytes : Nat
  got : Mem := []
  seen : List Nat := []
  bad : List Nat := []
  deriving DecidableEq, Repr

/-- A thread doorbell that waits for its effect and a CQ slot (R335): tile, thread, action, PC, queue. -/
structure Doorbell where
  tile : Option TileId
  thread : Thr
  action : Nat
  pc : Nat
  queue : HQueue
  deriving DecidableEq, Repr

/-- The UCIe attachment. `linkPhase`: 0 down or up as `up` says, 1 link-up sequence, 2 PHYRETRAIN, 3 retrained and before the new HELLO.
`replay` holds the messages that no ACK_SEQ covers with SEQ, the times resent and CREDIT_RET; `sent` what has left, with SEQ, ACK_SEQ and
CREDIT_RET of its header. -/
structure HostSt where
  linkPhase : Nat := 0
  failedSeqs : Nat := 0
  up : Bool := false
  rxSeq : Nat := 0
  txSeq : Nat := 0
  discarding : Bool := false
  credit : Nat := 512
  owed : Nat := 0
  replay : List (Nat × Nat × Nat × HostOut) := []
  sent : List (Nat × Nat × Nat × HostOut) := []
  waiting : List HostOut := []
  reads : FMap (Option HRead) := []
  queues : FMap HQ := []
  entries : List QEnt := []
  doorbells : List Doorbell := []
  irqOpen : FMap Bool := []
  irqDue : FMap Bool := []
  mailLen : Nat := 0
  mailId : Nat := 0
  mailGot : List Byte := []
  deriving DecidableEq, Repr

/-! ### Management and security (chapters 15, 16) -/

/-- The path of a frame (R345): the mailbox, with the frame identifier of its start message (R336), or the management port with the
requester's address and port and the device address it was sent to. -/
inductive Path where
  | mailbox (id : Nat)
  | udp (src : BitVec 128) (sport : W16) (dst : BitVec 128)
  deriving DecidableEq, Repr

/-- A session (R345-R348, R393). -/
structure Session where
  id : Nat
  role : Nat
  key : List Byte
  path : Path
  claim : Bool
  lastSeq : Nat := 0
  lastTag : List Byte := []
  kept : List Byte := []
  cursor : Nat := 0
  deriving DecidableEq, Repr

/-- A WRITE that has been applied and is not answered yet (R354, R394): the frame's response and the one for a commit that fails, the
persistent items that changed with their old values (index, subindex, value), whether the commit of the image is still awaited, the log
record that must be in NOR first, and whether a record whose program had begun completes before the commit (R391). -/
structure Commit where
  path : Path
  session : Nat
  resp : List Byte
  failResp : List Byte
  items : List (Nat × Nat × Nat)
  nor : Bool
  recno : Option Nat
  ahead : Bool
  deriving DecidableEq, Repr

/-- A copy of the persistent image in NOR (R356): generation, values by entry, and whether its check word holds. -/
structure NorCopy where
  gen : Nat
  vals : FMap Nat
  good : Bool
  deriving DecidableEq, Repr

/-- What leaves the device on the management port or the mailbox. -/
inductive MgmtOut where
  | frame (p : Path) (b : List Byte)
  | advert (dst target : BitVec 128)
  | echoReply (dst src : BitVec 128) (b : List Byte)
  deriving DecidableEq, Repr

/-- The management controller: frame queue, sessions, lockouts, the NOR image copies, wear counts, PLCA. -/
structure MgmtSt where
  frames : List (Path × List Byte) := []
  sessions : List Session := []
  failTimes : FMap (List Nat) := []
  lockout : FMap Bool := []
  out : List MgmtOut := []
  mailTx : List W64 := []
  commit : Option Commit := none
  nor0 : NorCopy
  nor1 : NorCopy
  wear : FMap Nat := []
  enduranceNoted : FMap Bool := []
  t1s : Nat := 0
  nodeActive : Nat := 0
  nodeCount : Nat := 0
  serving : Bool := false
  resetArmed : Bool := false
  deriving DecidableEq, Repr

/-- A sector of the flash tier (R375): the `n`-th of an allocation's data, of the allocation records, or of the metadata. -/
inductive FlashPart where
  | data (id n : Nat)
  | records (n : Nat)
  | ldpc (n : Nat)
  deriving DecidableEq, Repr

/-- Kind and number of a sector, by which its place is found. -/
def FlashPart.code : FlashPart → Nat × Nat
  | .data id n => (id + 2, n)
  | .records n => (0, n)
  | .ldpc n => (1, n)

/-- The security block (chapter 16): role keys by role (empty: never set), life-cycle state, transition records used and a
transition requested; the flash key and the index that tags it (none: erased, or not yet generated), with the form of it that the security
store holds, wrapped under the device-unique key (R375); bytes programmed into the firmware slots since manufacture
(value + 1 by offset; an unlisted byte is the one the factory programmed), the active, pending and running slots, the
running header and signature, fuses; staging; attestation. -/
structure SecSt where
  roleKeys : FMap (List Byte) := []
  lifecycle : Nat := 2
  transitions : Nat := 2
  lifeReq : Option Nat := none
  flashTag : Nat := 2
  flashKey : Option (BitVec 512) := none
  flashWrapped : List Byte := []
  slots : FMap (FMap Nat) := []
  activeSlot : Nat := 0
  pending : Option Nat := none
  pendingFails : Nat := 0
  running : Nat := 0
  runHeader : List Byte := []
  svnFused : Nat := 0
  revoked : List Nat := []
  recovery : Bool := false
  stageBuf : List (Nat × List Byte) := []
  fwResult : Nat := 0
  attState : Nat := 0
  leafUsed : Nat := 0
  nonce : List Byte := []
  report : List Byte := []
  signature : List Byte := []
  nonceDraws : Nat := 0
  deriving DecidableEq, Repr

/-! ### Counters and the Event Recorder (chapter 17) -/

/-- A counter: 48-bit value and the sticky WRAP bit (R379). -/
structure Ctr where
  v : Nat := 0
  wrap : Bool := false
  deriving DecidableEq, Repr

/-- Counters and images (R379-R387): the image in progress (mode, trigger), its header values and, at its freeze, the counters, the blocks
that held their counts and the map; selections that wait for its end (curvature, counter, code); the blocks of the tiles on which a thread
has waited on a marked semaphore since the last tally (R103), with 256 + 4 · quad + counter for a quad that was slowed then, the free values
that the tallies have taken, and how often each quad's slowing had begun at the last tally (R401, R408). -/
structure CountSt where
  ctrs : FMap Ctr := []
  seq : Nat := 0
  busy : Option (Nat × Nat) := none
  startOps : Nat := 0
  startSel : Nat := 0
  shot : FMap Ctr := []
  heldAt : List Nat := []
  mapAt : List Nat := []
  lost : Nat := 0
  window : List Byte := []
  windowSeq : Nat := 0
  selPending : List (Bool × Nat × Nat) := []
  marked : FMap Bool := []
  draws : Nat := 0
  slowSeen : FMap Nat := []
  deriving DecidableEq, Repr

/-- An event before it is numbered (R391): code, severity, SOURCE, DETAIL. -/
structure Event where
  code : Nat
  sev : Nat
  source : Nat
  detail : List Byte
  deriving DecidableEq, Repr

/-- A fold window (R392). -/
structure Fold where
  code : Nat
  sev : Nat
  source : Nat
  count : Nat
  detail : List Byte
  deriving DecidableEq, Repr

/-- The Event Recorder (R388-R395): events not yet numbered, numbered records not yet programmed, programmed records by
RECNO, T, FLOOR, SEQ, fold windows, events dropped since the last EVENTS_DROPPED record, and the time stamps. -/
structure LogSt where
  inbox : List Event := []
  queue : List (Nat × List Byte) := []
  nor : FMap (List Byte) := []
  total : Nat := 0
  floor : Nat := 0
  seq : Nat := 0
  folds : List Fold := []
  droppedSince : Nat := 0
  newestFatal : Nat := 0xFFFFFFFF
  cycles : Nat := 1
  journal : Nat := 0
  opBase : Nat := 0
  opTc : Nat := 0
  recording : Bool := false
  deriving DecidableEq, Repr

/-! ### Clocks, power, start-up (chapter 18) and test access (chapter 19) -/

/-- A quad (R401-R407): throttle steps taken for its own causes (0 to 10), the causes, whether its droop stretches the
clock, and the last readings. -/
structure QuadSt where
  own : Nat := 0
  temp : Bool := false
  neigh : Bool := false
  supply : Bool := false
  stretch : Bool := false
  milliC : Int := 25000
  mv : Nat := 750
  khz : Nat := 0
  deriving DecidableEq, Repr

/-- Clocks, power, reset and start-up, and the test access port: TRST_N, the instruction register, the selected data register with the cell
next to TDO first, the update latches of the boundary-scan register and the bits that the last scan brought out at TDO. `samples` holds the
last 100 samples of package power in mW, newest first, and `packageMw` their average. `supply` and `pairs` (by a · 34 + b): 0 within the
release threshold, 1 beyond the limit, 2 between the two. `stepTc` stands at the start of step 2. `slowings` counts how often a stretch (4 ·
quad) or a throttling (4 · quad + 2) has begun; `tickTc` and `tickSteps` are the last tick of the step timers, by its `tc` + 1, and of every
quad not yet timed in it the step at which it stood, plus 1 (R404, R407). -/
structure PowerSt where
  quads : FMap QuadSt := []
  packageMw : Nat := 0
  samples : List Nat := []
  supply : Nat := 0
  pairs : FMap Nat := []
  pwrGood : Bool := true
  resetN : Bool := true
  resetCause : Nat := 0
  step : Nat := 2
  devState : Nat := 0
  stepTc : Nat := 0
  startupMs : Nat := 0
  tapIr : Nat := 1
  trstN : Bool := false
  tapDr : List Bool := []
  tapHold : List Bool := []
  tapOut : List Bool := []
  slowings : FMap Nat := []
  tickTc : Nat := 0
  tickSteps : FMap Nat := []
  deriving DecidableEq, Repr

/-- The device. `tc` counts powered TCLK cycles and `resetTc` its value at the last reset; `dict` holds the values
of the dictionary entries that are not the view of other state (index · 256 + subindex); `fresh` counts the free
values used (the model's own field, log entry 3, DESIGN CHOICE). -/
structure Dev where
  tc : Nat := 0
  resetTc : Nat := 0
  stamp : Nat := 1
  fresh : Nat := 0
  tiles : FMap Tile := []
  sigs : List Sig := []
  mem : MemSt := {}
  curv : FMap CurvSt := []
  fab : FabricSt := {}
  safety : SafetySt := {}
  host : HostSt := {}
  mgmt : MgmtSt
  sec : SecSt := {}
  count : CountSt := {}
  log : LogSt := {}
  power : PowerSt := {}
  dict : FMap Nat := []
  deriving DecidableEq, Repr

/-- The state of the model: the device and the commands waiting, first in, first out. -/
structure State where
  dev : Dev
  pending : List Instr
  deriving DecidableEq, Repr

/-- Why a step stops. -/
inductive Fault where
  /-- ECC_CORRECTED_REWRITE and PATROL_SCRUB raise it for a unit that no scratchpad, no slot of an
  allocation and no HBM4 stack has: the spec gives no such unit. Safe: the model stops where nothing exists to act on. -/
  | noSuchUnit
  deriving DecidableEq, Repr

/-- Why a command has no meaning. -/
inductive Refusal where
  /-- An arm of `exec` raises it for a command without a meaning yet. Safe: nothing is claimed of it. -/
  | notModelled (mnemonic : String)
  deriving DecidableEq, Repr

/-- The persistent image of a device that has never been written: every entry at its default (R356). -/
def norReset : NorCopy := { gen := 1, vals := [], good := true }

/-- The device right after a POWER_ON reset, at start-up step 2 (R411; log entries 4-6, DESIGN CHOICE). -/
def Dev.reset : Dev := { mgmt := { nor0 := norReset, nor1 := { gen := 0, vals := [], good := false } } }

/-- The state right after reset: nothing waits. -/
def State.reset : State := { dev := Dev.reset, pending := [] }

end Sys2Proof.Machine
end

