-- ==== Sys2Proof/Machine/Ops.lean ====
section
/-!
DEFINITION. The named operations over the state that every meaning uses: parts of the device, dictionary values,
free values, events, counters, scratchpad and allocation memory with its poison, semaphores and their waiters,
completion records and signals, thread faults, and the end of a queued descriptor.
-/
namespace Sys2Proof.Machine

/-! ### Parts -/

def getTile (d : Dev) (t : TileId) : Tile := fget {} d.tiles t.val
def modTile (d : Dev) (t : TileId) (f : Tile → Tile) : Dev := { d with tiles := fmod {} d.tiles t.val f }
def getThread (d : Dev) (t : TileId) (th : Thr) : Thread := fget {} (getTile d t).threads th.val
def modThread (d : Dev) (t : TileId) (th : Thr) (f : Thread → Thread) : Dev :=
  modTile d t fun k => { k with threads := fmod {} k.threads th.val f }
def getSem (d : Dev) (t : TileId) (s : SemId) : Sem := fget {} (getTile d t).sems s.val
def modSem (d : Dev) (t : TileId) (s : SemId) (f : Sem → Sem) : Dev :=
  modTile d t fun k => { k with sems := fmod {} k.sems s.val f }
def getQueue (d : Dev) (t : TileId) (u : Nat) : List QEnt := fget [] (getTile d t).queues u
def modQueue (d : Dev) (t : TileId) (u : Nat) (f : List QEnt → List QEnt) : Dev :=
  modTile d t fun k => { k with queues := fmod [] k.queues u f }
def modEnt (d : Dev) (t : TileId) (u id : Nat) (f : QEnt → QEnt) : Dev :=
  modQueue d t u (updFirst (fun e => e.id == id) f)
def getCurv (d : Dev) (c : Nat) : CurvSt := fget {} d.curv c
def modCurv (d : Dev) (c : Nat) (f : CurvSt → CurvSt) : Dev := { d with curv := fmod {} d.curv c f }
def getPort (d : Dev) (p : Nat) : PortSt := fget {} d.fab.ports p
def modFab (d : Dev) (f : FabricSt → FabricSt) : Dev := { d with fab := f d.fab }
def modPort (d : Dev) (p : Nat) (f : PortSt → PortSt) : Dev :=
  modFab d fun b => { b with ports := fmod {} b.ports p f }
def modSafety (d : Dev) (f : SafetySt → SafetySt) : Dev := { d with safety := f d.safety }
def modHost (d : Dev) (f : HostSt → HostSt) : Dev := { d with host := f d.host }
def modMgmt (d : Dev) (f : MgmtSt → MgmtSt) : Dev := { d with mgmt := f d.mgmt }
def modSec (d : Dev) (f : SecSt → SecSt) : Dev := { d with sec := f d.sec }
def modLog (d : Dev) (f : LogSt → LogSt) : Dev := { d with log := f d.log }
def modCount (d : Dev) (f : CountSt → CountSt) : Dev := { d with count := f d.count }
def modPower (d : Dev) (f : PowerSt → PowerSt) : Dev := { d with power := f d.power }
def modMem (d : Dev) (f : MemSt → MemSt) : Dev := { d with mem := f d.mem }
def getQuad (d : Dev) (q : Nat) : QuadSt := fget {} d.power.quads q
def modQuad (d : Dev) (q : Nat) (f : QuadSt → QuadSt) : Dev :=
  modPower d fun w => { w with quads := fmod {} w.quads q f }

/-- The engines act: out of reset and not FENCED (R304, R412). -/
def alive (d : Dev) : Bool := d.power.pwrGood && d.power.resetN && d.power.devState != 2

/-- A tile's own work goes on: the engines act, and the tile is no curvature tile under test, whose work waits (R20). -/
def tileActs (d : Dev) (t : TileId) : Bool := alive d && !(decide (t.val ≥ 128) && (getCurv d (t.val - 128)).testing)

/-- The curvature tile `c` as a tile (R18). -/
def ctileTile (c : CTile) : TileId := ⟨128 + c.val, by omega⟩
def isCurv (t : TileId) : Bool := decide (t.val ≥ 128)
/-- The compute die of a tile: 0 Die A, 1 Die B. -/
def dieOf (t : TileId) : Nat := if t.val < 128 then t.val / 64 else (t.val - 128) / 4
/-- The quad of a tile, numbered as `Quad`. -/
def quadOf (t : TileId) : Nat := if t.val < 128 then dieOf t * 17 + (t.val % 64) / 4 else dieOf t * 17 + 16

/-- The first of a quad's four compute tiles. -/
def quadBase (t : TileId) : Nat := t.val / 4 * 4

def tileOfNat (n : Nat) : TileId := if h : n < 136 then ⟨n, h⟩ else ⟨0, by omega⟩
/-- Curvature tile `c` as a tile (R18). -/
def ctileNat (c : Nat) : TileId := tileOfNat (128 + c)

/-- The tile that a tile code names (C_DEST and C_OTHER_DIE of Table 3-5), from tile `own`: none for a code that Table 3-5 calls
unavailable, whose refusal is 0x04 (log entry 113, DESIGN CHOICE), or for the own tile on the other die (log entry 109, DESIGN
CHOICE). -/
def tileOfCode (own : TileId) (code : Nat) (other : Bool) : Option TileId :=
  let die := if other then 1 - dieOf own else dieOf own
  if code < 0x40 then some (tileOfNat (die * 64 + code))
  else if code < 0x44 then some (tileOfNat (128 + die * 4 + (code - 0x40)))
  else if code = 0x7F ∧ !other then some own
  else none

/-! ### Free values and dictionary values -/

/-- A value the spec leaves open, and the device with the counter advanced (log entry 3, DESIGN CHOICE). -/
def freeNat (d : Dev) : Nat × Dev := (Config.freeValue d.fresh, { d with fresh := d.fresh + 1 })

/-- Index and subindex of an entry as one key. -/
def ekey (index sub : Nat) : Nat := index * 256 + sub

/-- Defaults of the entries (Tables 8-4, 9-9, 11-6, 12-10, 13-9, 14-5, 15-10, 17-9, 18-8; R382). -/
def dictDefault (k : Nat) : Nat :=
  let i := k / 256
  let s := k % 256
  if i = 0x2100 ∧ s = 6 then 0xFFFF
  else if i = 0x2102 then 0x44
  else if i = 0x2104 then 0xFFFF
  else if i = 0x3100 then (if s = 1 then 0xFF else if s = 2 then 9 else if s = 4 then 64 else if s = 5 then 60 else 0)
  else if i = 0x4003 ∧ s = 2 then 1
  else if i = 0x4010 then [0x01, 0x02, 0x03, 0x04, 0x05, 0x07, 0x08, 0x06].getD (s - 1) 0
  else if i = 0x4011 then [0x01, 0x02, 0x03, 0x20, 0x21, 0x22, 0x23, 0x05].getD (s - 1) 0
  else if i = 0x6010 then (if 8 ≤ s ∧ s ≤ 15 then 1 else 0)
  else if i = 0x6011 then 64
  else if i = 0x7002 ∧ s = 1 then 0x3F00
  else if i = 0x9010 ∧ s = 2 then 0x7F800000
  else if i = 0xA002 then (if s = 1 then 50 else if s = 2 then 500 else if s = 3 then 20000 else 0)
  else if i = 0xB007 ∧ s = 2 then 0x44960000
  else 0

/-- Value of an entry held as a number; an unlisted entry holds its default. -/
def dget (d : Dev) (index sub : Nat) : Nat :=
  match fget 0 d.dict (ekey index sub) with
  | 0 => dictDefault (ekey index sub)
  | n + 1 => n

def dset (d : Dev) (index sub v : Nat) : Dev :=
  { d with dict := fput 0 d.dict (ekey index sub) (if v = dictDefault (ekey index sub) then 0 else v + 1) }

/-- Value of a buffer entry (0x6011, 0x6012) as the last start-up took it (R193, R251). -/
def pcfg (d : Dev) (index sub : Nat) : Nat :=
  match fget 0 d.fab.portCfg (ekey index sub) with
  | 0 => dictDefault (ekey index sub)
  | n + 1 => n

/-- Adds to an RC counter of `w` bits. -/
def dbump (d : Dev) (index sub n w : Nat) : Dev := dset d index sub ((dget d index sub + n) % 2 ^ w)

/-! ### Counters (R379-R382). Blocks: 0-131 compute tiles, 132-139 curvature tiles, 140-173 quads, 174-181 HBM4,
182-197 ports, 198 UCIe, 199 Die L. -/

/-- Adds `n` to a 48-bit counter; a wrap sets WRAP (R379). -/
def bump (d : Dev) (blk ctr n : Nat) : Dev :=
  modCount d fun c => { c with ctrs := fmod {} c.ctrs (blk * 16 + ctr) fun x =>
    { v := (x.v + n) % 2 ^ 48, wrap := x.wrap || decide (x.v + n ≥ 2 ^ 48) } }

/-- The physical slot that serves logical compute tile `n` of a die: slot `n` is its usual tile, 64 the rotating
spare while it stands in (R11, R314, R315). -/
def slotOf (d : Dev) (die n : Nat) : Nat :=
  if fget none d.safety.spareFor die = some n then 64 else n

/-- The physical tile of logical number `n`'s own block: the n-th, in ascending order, of the 64 that are no spare
(log entry 99, DESIGN CHOICE). -/
def ownPhys (die : Fin 2) (n : Nat) : Nat :=
  ((List.range 66).filter fun i => i != (Config.repairSpare die).val && i != (Config.rotatingSpare die).val).getD n 0

/-- The physical index of a slot of a die: 64 the rotating spare; slot n the tile of its own block, or the repair spare where it
serves n from test onwards; 65 the tile that no program reaches: the repair spare, or the one it replaced (R11, R19). -/
def physOfSlot (die slot : Nat) : Nat :=
  let dd : Fin 2 := if die = 0 then 0 else 1
  let r := (Config.repairSpare dd).val
  if slot = 64 then (Config.rotatingSpare dd).val
  else match Config.repaired dd with
    | some m => if slot = 65 then ownPhys dd m.val else if slot = m.val then r else ownPhys dd slot
    | none => if slot = 65 then r else ownPhys dd slot

/-- The physical index that events and TILE_ID name for a tile. -/
def physOf (d : Dev) (t : TileId) : Nat :=
  if t.val < 128 then physOfSlot (dieOf t) (slotOf d (dieOf t) (t.val % 64)) else (t.val - 128) % 4

/-- The counter block of the physical tile that serves `t` (R381). -/
def tileBlk (d : Dev) (t : TileId) : Nat :=
  if t.val < 128 then dieOf t * 66 + slotOf d (dieOf t) (t.val % 64) else 132 + (t.val - 128)

/-- Counts `n` occurrences of a Table 17-2 event on the physical tile that serves `t`. -/
def tileEv (d : Dev) (t : TileId) (code n : Nat) : Dev :=
  let sel := if t.val < 128 then 0x4010 else 0x4011
  if t.val ≥ 128 ∧ (getCurv d (t.val - 128)).testing then d
  else (List.range 8).foldl (fun d i => if dget d sel (i + 1) = code then bump d (tileBlk d t) i n else d) d

def portCtr (d : Dev) (p ctr n : Nat) : Dev := bump d (182 + p) ctr n
def ucieCtr (d : Dev) (ctr n : Nat) : Dev := bump d 198 ctr n
def dieLCtr (d : Dev) (ctr n : Nat) : Dev := bump d 199 ctr n

/-- Tile events that count tc. -/
def countsTc (code : Nat) : Bool :=
  [0x01, 0x03, 0x04, 0x07, 0x08, 0x09, 0x0C, 0x10, 0x22, 0x23, 0x25].contains code

/-- A tile counter of tc counts on: BACKPRESSURE_TC only on a tile where a thread has waited on a marked semaphore (R103). -/
def tcOpen (d : Dev) (blk code : Nat) : Bool := countsTc code && (code != 4 || fget false d.count.marked blk)

/-! ### Quads: the mesh of a die (R402) and their slowing -/

/-- Hops between two of the sixteen quads Q0 to Q15 of a die. -/
def gridHops (a b : Nat) : Nat := (a / 4 - b / 4 + (b / 4 - a / 4)) + (a % 4 - b % 4 + (b % 4 - a % 4))

/-- Hops between two quads of a die, numbered 0 to 16; QC joins Q7 and Q11. -/
def meshHops (a b : Nat) : Nat :=
  if a = b then 0
  else if a = 16 then 1 + min (gridHops 7 b) (gridHops 11 b)
  else if b = 16 then 1 + min (gridHops a 7) (gridHops a 11)
  else gridHops a b

/-- Hops between two quads; none between dies. -/
def quadHops (a b : Nat) : Option Nat := if a / 17 = b / 17 then some (meshHops (a % 17) (b % 17)) else none

/-- The step of 5 % at which a quad's target stands: what its own causes ask, and what the grading of every quad of its die asks (R405). (Log
entry 79, DESIGN CHOICE.) -/
def quadStep (d : Dev) (q : Nat) : Nat :=
  (List.range 34).foldl (fun m r => match quadHops q r with
    | some h => max m ((getQuad d r).own - h)
    | none => m) 0

/-- Quad `q` is slowed now: its clock stretched (0; R401) or its target below nominal (2; R408). -/
def slowNow (d : Dev) (q ctr : Nat) : Bool := if ctr = 0 then (getQuad d q).stretch else decide (quadStep d q > 0)

/-- It is, or was at some time since the last tally. -/
def slowed (d : Dev) (q ctr : Nat) : Bool :=
  slowNow d q ctr || fget false d.count.marked (256 + 4 * q + ctr) || fget 0 d.power.slowings (4 * q + ctr) != fget 0 d.count.slowSeen (4 * q + ctr)

/-- Counter 0 or 2 of a quad that has been slowed has counted; counter 1, the waits for a slower sender, where any quad has been (R401, R403,
R408). -/
def quadOpen (d : Dev) (q ctr : Nat) : Bool :=
  if ctr = 1 then (List.range 34).any fun r => slowed d r 0 || slowed d r 2
  else (ctr == 0 || ctr == 2) && slowed d q ctr

/-- The slow-tier update engine's queue is full (R186). -/
def slowFull (d : Dev) : Bool := decide (32 ≤ d.mem.slow.length)

/-- A queue that has just filled is full at some time before the next tally. -/
def noteSlowFull (d : Dev) : Dev := if slowFull d then modCount d fun c => { c with marked := fput false c.marked 199 true } else d

/-- The quads' slowings, and a slow-tier queue that is full, are tallied. -/
def settleQuads (d : Dev) : Dev := modCount d fun c => { c with
  marked := fput false ((List.range 136).foldl (fun m i => fput false m (256 + i) (i % 2 == 0 && slowNow d (i / 4) (i % 4))) c.marked) 199
    (slowFull d)
  slowSeen := d.power.slowings }

/-- Counters of cycles or of ns, by block and counter: how far they count is free (log entry 27, DESIGN CHOICE). -/
def openCtr (d : Dev) (blk ctr : Nat) : Bool :=
  if blk < 132 then tcOpen d blk (dget d 0x4010 (ctr + 1))
  else if blk < 140 then tcOpen d blk (dget d 0x4011 (ctr + 1))
  else if blk < 174 then quadOpen d (blk - 140) ctr
  else if blk < 182 then ctr == 3 || ctr == 4
  else if blk < 198 then ctr == 4 || ctr == 7
  else if blk < 199 then ctr == 3 || ctr == 5
  else (ctr == 1 && (slowFull d || fget false d.count.marked 199)) || ctr == 15

/-- The physical compute tile in a slot counts nothing: a spare that does not stand in, a tile under test or retired. -/
def slotIdle (d : Dev) (die slot : Nat) : Bool :=
  if slot = 65 then true
  else if slot = 64 then (fget none d.safety.spareFor die).isNone || fget none d.safety.testNow die == some 64
  else fget none d.safety.spareFor die == some slot || fget none d.safety.testNow die == some slot

/-- A block that holds its counts (R381). -/
def blockHeld (d : Dev) (blk : Nat) : Bool :=
  if blk < 132 then slotIdle d (blk / 66) (blk % 66)
  else if blk < 140 then (getCurv d (blk - 132)).testing
  else false

/-- Brings the counters of cycles of a block up to now: each that counts has counted a free number (log entry 27, DESIGN CHOICE); one that
is held stands still (R381). -/
def settleBlk (d : Dev) (blk : Nat) : Dev :=
  if blockHeld d blk then d
  else
    let d := ((List.range 16).filter (openCtr d blk)).foldl (fun d i =>
      modCount (bump d blk i (Config.counted d.count.draws)) fun c => { c with draws := c.draws + 1 }) d
    modCount d fun c => { c with marked := fput false c.marked blk false }

/-! ### Events (R388, R391, R395) -/

/-- Offers an event to the Event Recorder: it waits to be numbered by EVENT_RECORD. -/
def post (d : Dev) (code sev source : Nat) (detail : List Byte) : Dev :=
  modLog d fun l => { l with inbox := l.inbox ++ [⟨code, sev, source, padTo 32 detail⟩] }

/-- SOURCE of Table 17-7. -/
def source (kind die index sub : Nat) : Nat := kind + 256 * die + 65536 * index + 16777216 * (sub % 256)
def tileSource (d : Dev) (t : TileId) (sub : Nat) : Nat :=
  source (if isCurv t then 2 else 1) (dieOf t) (physOf d t) sub
def srcDevice : Nat := source 0 2 0 0
def portSource (p : Nat) : Nat := source 5 2 p 0
def srcUcie : Nat := source 6 2 0 0
def srcMgmt : Nat := source 7 2 0 0
def srcSec : Nat := source 8 2 0 0
def srcNor : Nat := source 9 2 0 0

/-- Operating seconds (R389): powered time since power-on over the value the journal and records held. -/
def opSeconds (d : Dev) : Nat :=
  min 0xFFFFFFFF (d.log.opBase + (d.tc - d.log.opTc) / (Config.tclkMhz * 1000000))

/-- Powered milliseconds as a time stamp. -/
def nowMs (d : Dev) : Nat := d.tc / (Config.tclkMhz * 1000)

/-! ### Self-test requests (R315) -/

/-- A request for physical slot `slot` of die `die` (128 + n: curvature tile n): merged when queued; a mechanism's
request displaces the newest dictionary request when the queue is full; nothing runs once rotation stopped. -/
def requestTest (d : Dev) (die slot : Nat) (mech : Bool) : Dev :=
  let q := fget [] d.safety.testQ die
  if (fget none d.safety.retired die).isSome then dbump d 0x7010 5 1 32
  else if q.any (fun e => e.1 == slot) then
    modSafety d fun s => { s with testQ := fput [] s.testQ die (updWhere (fun e => e.1 == slot) (fun e => (e.1, e.2 || mech)) q) }
  else if q.length < 16 then
    modSafety d fun s => { s with testQ := fput [] s.testQ die (q ++ [(slot, mech)]) }
  else if mech && q.any (fun e => !e.2) then
    dbump (modSafety d fun s => { s with testQ := fput [] s.testQ die ((dropFirst (fun e => !e.2) q.reverse).reverse ++ [(slot, mech)]) }) 0x7010 5 1 32
  else dbump d 0x7010 5 1 32

/-- A mechanism of Table 13-2 requests the test of a tile and counts the checker's flag (0x7010:03). -/
def checkerFlag (d : Dev) (t : TileId) : Dev :=
  let d := dbump d 0x7010 3 1 32
  if isCurv t then requestTest d (dieOf t) (128 + (t.val - 128) % 4) true
  else requestTest d (dieOf t) (slotOf d (dieOf t) (t.val % 64)) true

/-- A mechanism's request for the test of curvature tile `c` stands in its die's queue. -/
def testAsked (d : Dev) (c : Nat) : Bool := (fget [] d.safety.testQ (c / 4)).any fun e => e.1 == 128 + c % 4 && e.2

/-- The next block job of a Percolator waits for the test that a residue failure requested (R159). -/
def jobHeld (d : Dev) (c : Nat) : Bool :=
  testAsked d c && match (getCurv d c).job with | some j => !j.started | none => false

/-! ### Scratchpads -/

def scratchSize (t : TileId) : Nat := if isCurv t then 0x800000 else 0x200000
def spKey (t : TileId) (a : Nat) : Nat := t.val * 0x800000 + a
def spLine (t : TileId) (a : Nat) : Nat := t.val * 0x20000 + a / 64
/-- Whether `n` bytes from `a` lie in the tile's scratchpad. -/
def inScratch (t : TileId) (a n : Nat) : Bool := decide (a + n ≤ scratchSize t)
/-- Whether a stream of the curvature tile is bound (R111). -/
def poolBound (d : Dev) (t : TileId) : Bool :=
  isCurv t && (getCurv d (t.val - 128)).streams.any fun e => e.2.st != .unbound
/-- Whether `n` bytes from `a` touch the tap pool while it is bound (R111). -/
def hitsPool (d : Dev) (t : TileId) (a n : Nat) : Bool :=
  poolBound d t && decide (a + n > 0x400000) && decide (a < 0x800000) && decide (n > 0)

def spRead (d : Dev) (t : TileId) (a n : Nat) : List Byte := uread d.mem.scratch d.mem.scratchUndef (spKey t a) n

/-- The address of the first poisoned line that `n` bytes from `a` touch. -/
def spPoisonAt (d : Dev) (t : TileId) (a n : Nat) : Option Nat :=
  if n = 0 then none
  else match frange d.mem.spPoison (spLine t a) (spLine t (a + n - 1) + 1) with
    | [] => none
    | (k, _) :: _ => some ((k - t.val * 0x20000) * 64)

/-- The first poisoned line that the bytes cover only in part. -/
def spPartial (d : Dev) (t : TileId) (a n : Nat) : Option Nat :=
  firstSome (fun (e : Nat × Bool) =>
    let l := (e.1 - t.val * 0x20000) * 64
    if decide (a ≤ l) && decide (l + 64 ≤ a + n) then none else some l)
    (if n = 0 then [] else frange d.mem.spPoison (spLine t a) (spLine t (a + n - 1) + 1))

/-- Writes bytes; a line covered whole loses its poison (R209). -/
def spWrite (d : Dev) (t : TileId) (a : Nat) (b : List Byte) : Dev :=
  modMem d fun m => { m with
    scratch := mwrite m.scratch (spKey t a) b
    scratchUndef := uCut m.scratchUndef (spKey t a) (spKey t a + b.length)
    spPoison := m.spPoison.filter fun e =>
      !(decide (spKey t a ≤ e.1 * 64) && decide (e.1 * 64 + 64 ≤ spKey t a + b.length)) }

/-- Leaves `n` bytes from `a` with undefined contents: free values (R142, log entry 3, DESIGN CHOICE). -/
def spUndefine (d : Dev) (t : TileId) (a n : Nat) : Dev :=
  modMem { d with fresh := d.fresh + 1 } fun m => { m with
    scratch := fclear m.scratch (spKey t a) (spKey t (a + n))
    scratchUndef := uCut m.scratchUndef (spKey t a) (spKey t (a + n)) ++ [(spKey t a, spKey t (a + n), d.fresh)] }

/-- Clears the INVALID bit of the lines that `n` bytes from `a` touch (R197). -/
def spValidate (d : Dev) (t : TileId) (a n : Nat) : Dev :=
  if n = 0 then d else
  modMem d fun m => { m with spInvalid := fclear m.spInvalid (spLine t a) (spLine t (a + n - 1) + 1) }

/-- Marks the lines of a failed Carafe region INVALID (R71, R197). -/
def spInvalidate (d : Dev) (t : TileId) (a n : Nat) : Dev :=
  if n = 0 then d else
  (List.range (spLine t (a + n - 1) + 1 - spLine t a)).foldl
    (fun d i => modMem d fun m => { m with spInvalid := fput false m.spInvalid (spLine t a + i) true }) d

def spIsInvalid (d : Dev) (t : TileId) (a n : Nat) : Bool :=
  decide (n > 0) && (frange d.mem.spInvalid (spLine t a) (spLine t (a + n - 1) + 1)).length != 0

/-! ### Allocations -/

def getAlloc (d : Dev) (id : Nat) : Option Alloc := fget none d.mem.allocs id
def putAlloc (d : Dev) (id : Nat) (a : Option Alloc) : Dev :=
  modMem d fun m => { m with allocs := fput none m.allocs id a }
def modAlloc (d : Dev) (id : Nat) (f : Alloc → Alloc) : Dev :=
  match getAlloc d id with
  | some a => putAlloc d id (some (f a))
  | none => d

def tierOf (a : Alloc) : Nat := a.flags % 4
def hasMirror (a : Alloc) : Bool := bitAt a.flags 3
def hasExact (a : Alloc) : Bool := bitAt a.flags 4
def delayOf (a : Alloc) : Nat := bitf a.flags 5 3

/-- Key of a byte of an allocation in the tier memories: the slot is 0 but for DELAY rings and mirror copies. -/
def tierKey (id slot off : Nat) : Nat := (id * 64 + slot) * 2 ^ 64 + off
def poisonKey (id off : Nat) : Nat := id * 2 ^ 60 + off / 64
/-- The slot of a mirror copy that receives the next version; slot 0 holds the last acknowledged one (R300). -/
def recvSlot : Nat := 32

/-- The allocation that holds scratchpad address `a` of tile `t`, with its offset. -/
def allocAtScratch (d : Dev) (t : TileId) (a : Nat) : Option (Nat × Alloc) :=
  firstSome (fun (e : Nat × Option Alloc) => match e.2 with
    | some k => if tierOf k = 0 && k.spTile == t.val && decide (k.spAddr ≤ a) && decide (a < k.spAddr + k.size) then some (e.1, k) else none
    | none => none) d.mem.allocs

/-- The HBM4 stack of a unit (R193): 4 KiB units go over the stacks in ascending order from the one where the allocation starts;
PIN keeps to the four stacks of one die. -/
def stackOf (a : Alloc) (off : Nat) : Nat :=
  if bitAt a.flags 2 then a.pinDie * 4 + (a.stack + off / 4096) % 4 else (a.stack + off / 4096) % 8

/-- The 64-byte units on stack `k` that `n` bytes from `o` touch. -/
def unitsOn (a : Alloc) (o n k : Nat) : Nat :=
  (List.range (cdiv (o % 4096 + n) 4096)).foldl (fun u i =>
    let p := o / 4096 * 4096 + 4096 * i
    if stackOf a p = k then u + ((min (o + n) (p + 4096) - 1) / 64 + 1 - max o p / 64) else u) 0

/-- Counts an access to HBM4 on the controllers of its stacks: each 64-byte unit that it touches, read (0) or written (1); and on Die L the
units read of flash (Table 17-3; log entry 138, DEDUCED). -/
def countUnits (d : Dev) (id slot off n ctr : Nat) : Dev :=
  match getAlloc d id with
  | some a =>
    if tierOf a = 1 ∧ 0 < n then
      (List.range 8).foldl (fun d k =>
        if unitsOn a (slot * a.size + off) n k = 0 then d else bump d (174 + k) ctr (unitsOn a (slot * a.size + off) n k)) d
    else if tierOf a = 3 ∧ ctr = 0 ∧ 0 < n then dieLCtr d 2 ((off + n - 1) / 64 + 1 - off / 64)
    else d
  | none => d

/-- Accesses to an allocation in HBM4 of which the spec gives no number: on each stack the units read and written have grown by a free
number (log entry 138). -/
def openTraffic (d : Dev) (id : Nat) : Dev :=
  match getAlloc d id with
  | some a =>
    if tierOf a = 1 then
      (List.range 16).foldl (fun d i =>
        modCount (bump d (174 + i / 2) (i % 2) (Config.counted d.count.draws)) fun c => { c with draws := c.draws + 1 }) d
    else d
  | none => d

/-- Counts a read of an allocation. -/
def countRead (d : Dev) (id off n : Nat) : Dev := countUnits d id 0 off n 0

/-- Reads bytes of a slot of an allocation; a SCRATCH allocation's bytes are those of its tile. -/
def allocReadSlot (d : Dev) (id slot off n : Nat) : List Byte :=
  match getAlloc d id with
  | some a => if tierOf a = 0 then spRead d (tileOfNat a.spTile) (a.spAddr + off) n else uread d.mem.tier d.mem.tierUndef (tierKey id slot off) n
  | none => zbytes n

def allocRead (d : Dev) (id off n : Nat) : List Byte := allocReadSlot d id 0 off n

/-- Bytes of a slot take new values; a poisoned unit covered whole loses its poison (R209). Units of slot `n` are named from offset
`n` · SIZE on. -/
def storeSlot (d : Dev) (id slot off : Nat) (b : List Byte) : Dev :=
  match getAlloc d id with
  | none => d
  | some a =>
    if tierOf a = 0 then spWrite d (tileOfNat a.spTile) (a.spAddr + off) b
    else
      let u := if tierOf a = 3 then 4096 else 64
      let off0 := slot * a.size + off
      modMem d fun m => { m with
        tier := mwrite m.tier (tierKey id slot off) b
        tierUndef := uCut m.tierUndef (tierKey id slot off) (tierKey id slot off + b.length)
        tierPoison := m.tierPoison.filter fun e =>
          !(decide (e.1 / 2 ^ 60 = id) && decide (off0 ≤ (e.1 % 2 ^ 60) * 64) && decide ((e.1 % 2 ^ 60) * 64 + u ≤ off0 + b.length)) }

/-- Writes bytes of a slot of an allocation. -/
def allocWriteSlot (d : Dev) (id slot off : Nat) (b : List Byte) : Dev := storeSlot (countUnits d id slot off b.length 1) id slot off b

/-- Leaves bytes of an allocation with undefined contents (R142). -/
def allocUndefine (d : Dev) (id off n : Nat) : Dev :=
  match getAlloc d id with
  | none => d
  | some a =>
    if tierOf a = 0 then spUndefine d (tileOfNat a.spTile) (a.spAddr + off) n
    else modMem { d with fresh := d.fresh + 1 } fun m => { m with
      tier := fclear m.tier (tierKey id 0 off) (tierKey id 0 (off + n))
      tierUndef := uCut m.tierUndef (tierKey id 0 off) (tierKey id 0 (off + n)) ++ [(tierKey id 0 off, tierKey id 0 (off + n), d.fresh)] }

def allocWrite (d : Dev) (id off : Nat) (b : List Byte) : Dev := allocWriteSlot d id 0 off b

/-- A write by any means other than a commit sets UNMIRRORED on a MIRROR allocation (R300), and a full copy that is on its way does not clear
it. -/
def noteOtherWrite (d : Dev) (id : Nat) : Dev :=
  modAlloc d id fun a => if hasMirror a && !a.mirrorCopy then { a with unmirrored := true, dirty := true } else a

/-- The slot of a ring that holds version `k` (R185): slot 0 is the allocation itself. -/
def ringSlot (a : Alloc) (k : Nat) : Nat := 1 + k % (delayOf a + 1)

/-- A write by any means other than a commit: the ring slot of the version that the counter names holds it too, for the
allocation as it stands is that version (R184, R185; log entry 114, DEDUCED). -/
def allocWriteOther (d : Dev) (id off : Nat) (b : List Byte) : Dev :=
  let d := noteOtherWrite (allocWrite d id off b) id
  match getAlloc d id with
  | some a => if delayOf a = 0 || tierOf a == 0 then d else storeSlot d id (ringSlot a a.counter) off b
  | none => d

/-- The offset of the first poisoned unit that `n` bytes from `off` touch. -/
def allocPoisonAt (d : Dev) (id off n : Nat) : Option Nat :=
  match getAlloc d id with
  | none => none
  | some a =>
    if a.poisonFull then some off
    else if n = 0 then none
    else if tierOf a = 0 then (spPoisonAt d (tileOfNat a.spTile) (a.spAddr + off) n).map (· - a.spAddr)
    else
      let lo := if tierOf a = 3 then off / 4096 * 4096 else off
      match frange d.mem.tierPoison (poisonKey id lo) (poisonKey id (off + n - 1) + 1) with
      | [] => none
      | (k, _) :: _ => some ((k % 2 ^ 60) * 64)

/-- The first poisoned unit that a write covers only in part. -/
def allocPartial (d : Dev) (id off n : Nat) : Option Nat :=
  match getAlloc d id with
  | none => none
  | some a =>
    if n = 0 then none
    else if tierOf a = 0 then (spPartial d (tileOfNat a.spTile) (a.spAddr + off) n).map (· - a.spAddr)
    else
      let u := if tierOf a = 3 then 4096 else 64
      firstSome (fun (e : Nat × Bool) =>
        let l := (e.1 % 2 ^ 60) * 64
        if decide (off ≤ l) && decide (l + u ≤ off + n) then none else some l)
        (frange d.mem.tierPoison (poisonKey id (off / u * u)) (poisonKey id (off + n - 1) + 1))

/-- Units of an allocation now poisoned (Table 9-6 POISONED). -/
def poisonedCount (d : Dev) (id : Nat) (a : Alloc) : Nat :=
  if tierOf a = 0 then (frange d.mem.spPoison (spLine (tileOfNat a.spTile) a.spAddr) (spLine (tileOfNat a.spTile) (a.spAddr + a.size - 1) + 1)).length
  else (frange d.mem.tierPoison (id * 2 ^ 60) ((id + 1) * 2 ^ 60)).length

/-- DEGRADED of Table 9-7: some unit is poisoned, or POISON_FULL. -/
def degraded (d : Dev) (id : Nat) (a : Alloc) : Bool := a.poisonFull || poisonedCount d id a != 0

/-- Stands for an allocation in the poison table's key of a host unit that no allocation owns (R329): no ALLOC_ID is so large. -/
def hostUnitId : Nat := 2 ^ 32

/-- Entries of the Die L poison table in use (R209). -/
def poisonTableUsed (d : Dev) : Nat :=
  (d.mem.tierPoison.filter fun e => match getAlloc d (e.1 / 2 ^ 60) with
    | some a => decide (tierOf a ≥ 2)
    | none => e.1 / 2 ^ 60 == hostUnitId).length

/-- DETAIL of a POISON event. -/
def poisonDetail (id off tier : Nat) : List Byte := natLe 8 id ++ natLe 8 off ++ natLe 1 tier

/-- The source of a POISON event: the tile, stack, UCIe or flash channel of the unit. The channel of a flash sector is not
stated: a free value. -/
def poisonSource (d : Dev) (id off : Nat) : Nat × Dev :=
  match getAlloc d id with
  | some a =>
    if tierOf a = 0 then (tileSource d (tileOfNat a.spTile) 0, d)
    else if tierOf a = 2 then (srcUcie, d)
    else if tierOf a = 1 then (source 4 (stackOf a off / 4) (stackOf a off) 0, d)
    else
      let (v, d) := freeNat d
      (source 10 2 (v % 8) 0, d)
  | none => (srcDevice, d)

/-- An uncorrectable error in a scratchpad line (R209). -/
def poisonScratch (d : Dev) (t : TileId) (a : Nat) : Dev :=
  let d := modMem d fun m => { m with spPoison := fput false m.spPoison (spLine t a) true }
  let (id, off) := match allocAtScratch d t a with
    | some (i, k) => (i, a / 64 * 64 - k.spAddr)
    | none => (0, a / 64 * 64)
  dbump (post d 0x0030 2 (tileSource d t 0) (poisonDetail id off 0)) 0xA003 2 1 32

/-- A unit of an allocation is poisoned (R209): DEGRADED, event, counter. A host or flash unit takes an entry of the poison
table, and marks POISON_FULL when all 1,024 are taken. -/
def poisonUnit (d : Dev) (id off : Nat) : Dev :=
  match getAlloc d id with
  | none => d
  | some a =>
    if tierOf a = 0 then poisonScratch d (tileOfNat a.spTile) (a.spAddr + off)
    else
      let u := if tierOf a = 3 then off / 4096 * 4096 else off / 64 * 64
      let d := if decide (tierOf a ≥ 2) && decide (poisonTableUsed d ≥ 1024) then modAlloc d id fun a => { a with poisonFull := true }
        else modMem d fun m => { m with tierPoison := fput false m.tierPoison (poisonKey id u) true }
      let (s, d) := poisonSource d id u
      dbump (post d 0x0030 2 s (poisonDetail id u (tierOf a))) 0xA003 2 1 32

/-- 0xA003:03: units poisoned at present. -/
def poisonedNow (d : Dev) : Nat := d.mem.spPoison.length + d.mem.tierPoison.length

/-- Whether a range is INVALID (Table 9-7): the allocation's mark, or of a SCRATCH allocation the INVALID bit of a line that the range
touches (R197; log entry 129, DEDUCED). -/
def rangeInvalid (d : Dev) (id off n : Nat) : Bool :=
  match getAlloc d id with
  | none => false
  | some a => a.invalid || (tierOf a == 0 && spIsInvalid d (tileOfNat a.spTile) (a.spAddr + off) n)

/-- The device as a request at work sees it while a FREE waits: the FREE waits for that request, and the allocation is still there for
it (R198). -/
def unfreed (d : Dev) : Dev :=
  if d.mem.allocs.any (fun e => match e.2 with | some a => a.freeing | none => false) then
    modMem d fun m => { m with allocs := m.allocs.map fun e => (e.1, e.2.map fun a => { a with freeing := false }) }
  else d

/-- The host tier takes no transfer unit now, and its deadline has not passed (R206, R337). -/
def hostWaits (d : Dev) (a : Alloc) : Bool := tierOf a == 2 && !d.host.up && !d.mem.offlineNoted

/-- One of the allocations is a HOST one whose requests wait. -/
def anyWaits (d : Dev) (ids : List Nat) : Bool := ids.any fun i => match getAlloc d i with | some a => hostWaits d a | none => false

/-- Whether and how a read of a range ends (Table 9-7, R205, R207, R209): code and offset; 0 when it may go on. -/
def checkAllocRead (d : Dev) (id off n : Nat) : Nat × Nat :=
  match getAlloc d id with
  | none => (0x40, 0)
  | some a =>
    if a.freeing then (0x40, 0)
    else if a.busy then (0x15, 0)
    else if tierOf a = 2 && d.mem.offlineNoted then (0x17, 0)
    else if rangeInvalid d id off n then (0x42, 0)
    else if tierOf a = 3 && a.flashOpen then (0x43, 0)
    else match allocPoisonAt d id off n with
      | some o => (0x11, o)
      | none => (0, 0)

/-- Whether and how a write of a range ends. -/
def checkAllocWrite (d : Dev) (id off n : Nat) : Nat × Nat :=
  match getAlloc d id with
  | none => (0x40, 0)
  | some a =>
    if a.freeing then (0x40, 0)
    else if a.busy then (0x15, 0)
    else if tierOf a = 2 && d.mem.offlineNoted then (0x17, 0)
    else if tierOf a = 3 && !a.flashOpen then (0x43, 0)
    else match allocPartial d id off n with
      | some o => (0x11, o)
      | none => (0, 0)

/-- The first non-zero answer of a list of checks. -/
def firstBad : List (Nat × Nat) → Nat × Nat
  | [] => (0, 0)
  | c :: cs => if c.1 = 0 then firstBad cs else c

/-- A record of the device's own (R433): not written over part of a poisoned unit, which is reported once more. -/
def writeOwn (d : Dev) (t : TileId) (a : Nat) (b : List Byte) : Dev :=
  match spPartial d t a b.length with
  | some l => post d 0x0030 2 (tileSource d t 0) (poisonDetail (match allocAtScratch d t l with | some (i, _) => i | none => 0)
      (match allocAtScratch d t l with | some (_, k) => l - k.spAddr | none => l) 0)
  | none => spWrite d t a b

/-- The same for a record in an allocation (collective entry results, R269). -/
def writeOwnAlloc (d : Dev) (id off : Nat) (b : List Byte) : Dev :=
  match allocPartial d id off b.length with
  | some o => let (s, d) := poisonSource d id o
    post d 0x0030 2 s (poisonDetail id o (match getAlloc d id with | some a => tierOf a | none => 0))
  | none => allocWriteOther d id off b

/-! ### Completion records (Table 10-8) and signals (R225, R229) -/

def recBytes (r : Rec) : List Byte :=
  natLe 1 r.code ++ natLe 1 r.unit ++ natLe 2 r.status ++ natLe 4 r.count ++ natLe 4 r.alloc ++ natLe 4 r.aux
    ++ natLe 8 r.off ++ natLe 4 r.seq ++ zbytes 4

def writeRec (d : Dev) (r : Rec) : Dev := writeOwn d r.tile r.addr (recBytes r)

/-- Makes a signal: it is in flight until SIGNAL_TAKES_EFFECT. -/
def makeSig (d : Dev) (s : Sig) : Dev := { d with sigs := d.sigs ++ [s] }

def semOfNat (n : Nat) : Option SemId := if h : n < 48 then some ⟨n, h⟩ else none

/-- WAIT_SEM and SIGNAL_SEM of word 15, common to every descriptor. -/
def waitSemOf (w : List W32) : Nat := dfield w 15 0 6
def signalSemOf (w : List W32) : Nat := dfield w 15 6 6

/-- The completion record of a queue entry, when its issuer asked for one. -/
def entRec (t : TileId) (e : QEnt) : Option Rec :=
  match e.org with
  | .thread th seq (some a) => some ⟨t, a, e.unit, e.code, e.status, e.count, e.alloc, e.aux, e.off, seq.toNat, th.val⟩
  | _ => none

/-- Writes the record of an entry that ends without a signal, or sends record and signal together from the tile that made them (R225). -/
def endEntFrom (d : Dev) (t : TileId) (e : QEnt) (sig : Bool) (from_ : Option TileId) : Dev :=
  match (if sig then semOfNat (signalSemOf e.words) else none) with
  | some s => makeSig d ⟨t, s, 1, .desc, entRec t e, from_⟩
  | none => match entRec t e with
    | some r => writeRec d r
    | none => d

/-- The end of an entry of the tile's own units. -/
def endThreadEnt (d : Dev) (t : TileId) (e : QEnt) (sig : Bool) : Dev := endEntFrom d t e sig (some t)

/-! ### Host completion queues (R332-R334) -/

def getHQ (d : Dev) (q : Nat) : HQ := fget {} d.host.queues q
def modHQ (d : Dev) (q : Nat) (f : HQ → HQ) : Dev :=
  modHost d fun h => { h with queues := fmod {} h.queues q f }
/-- Units of a message: its header and its data units (R323). -/
def msgUnits (m : HostOut) : Nat := match m with | .hwrite _ b => 1 + cdiv b.length 64 | _ => 1

/-- Puts a message on the link: it takes credits, waits in the replay buffer, and returns the credits owed; the attachment counts it
(Table 17-3). (Log entry 72, DESIGN CHOICE.) -/
def putHost (d : Dev) (m : HostOut) : Dev :=
  let d := ucieCtr (modHost d fun h => { h with
    sent := h.sent ++ [(h.txSeq, (h.rxSeq + 2 ^ 32 - 1) % 2 ^ 32, h.owed, m)]
    replay := h.replay ++ [(h.txSeq, 0, h.owed, m)]
    txSeq := (h.txSeq + 1) % 2 ^ 32
    credit := h.credit - msgUnits m
    owed := 0 }) 0 (msgUnits m)
  ucieCtr (ucieCtr d 2 (match m with | .hread _ _ _ => 1 | _ => 0)) 7 (match m with | .interrupt _ => 1 | _ => 0)

/-- Credits (R326) and room in the 128 KiB replay buffer (R325) for a message. -/
def hostRoom (h : HostSt) (m : HostOut) : Bool :=
  h.up && decide (msgUnits m ≤ h.credit) && decide ((h.replay.map fun e => msgUnits e.2.2.2).foldl (· + ·) 0 + msgUnits m ≤ 2048)

/-- Sends waiting messages in order while there is room. -/
def pumpHost : Nat → Dev → Dev
  | 0, d => d
  | n + 1, d =>
    match d.host.waiting with
    | m :: ms => if hostRoom d.host m then pumpHost n (putHost (modHost d fun h => { h with waiting := ms }) m) else d
    | [] => d

/-- Sends a message of the link itself ahead of those that wait, once it has credits (R326). -/
def sendFirst (d : Dev) (m : HostOut) : Dev :=
  let d := modHost d fun h => { h with waiting := m :: h.waiting }
  pumpHost d.host.waiting.length d

/-- Sends a host message behind those that wait; while the mainband is not up it waits on Die L (R337). -/
def sendHost (d : Dev) (m : HostOut) : Dev :=
  let d := modHost d fun h => { h with waiting := h.waiting ++ [m] }
  pumpHost d.host.waiting.length d

/-- Bytes for host memory: HWRITE messages of at most 64 data units (R323). -/
def hostStore (d : Dev) (addr : Nat) (b : List Byte) : Dev :=
  (chunksOf 4096 b.length b).zipIdx.foldl (fun d p => sendHost d (.hwrite (addr + p.2 * 4096) p.1)) d

/-- Sends the units of host memory that hold `n` bytes from `off` of a slot of a HOST allocation (R328). -/
def hostUnits (d : Dev) (id slot off n : Nat) : Dev :=
  match getAlloc d id with
  | some a =>
    let lo := off / 64 * 64
    if tierOf a = 2 ∧ n > 0 then hostStore d (a.hostAddr + slot * a.size + lo) (allocReadSlot d id slot lo (roundUp (off + n) 64 - lo)) else d
  | none => d

/-- An INTERRUPT on a vector, at once or at the end of the interval that runs (R334). -/
def interrupt (d : Dev) (v : Nat) : Dev :=
  if v = 0xFFFF then d
  else if fget false d.host.irqOpen v then modHost d fun h => { h with irqDue := fput false h.irqDue v true }
  else
    let d := sendHost d (.interrupt v)
    if dget d 0x2100 7 = 0 then d else modHost d fun h => { h with irqOpen := fput false h.irqOpen v true }

/-- Writes a completion record to the next CQ slot and interrupts (R333, R334). (Log entry 71, DESIGN CHOICE.) -/
def hostComplete (d : Dev) (q : HQueue) (r : List Byte) : Dev :=
  let c := bitf (dget d 0x2102 (q.val + 1)) 4 4
  let h := getHQ d q.val
  let d := sendHost d (.hwrite (dget d 0x2103 (q.val + 1) + 32 * (h.write % 2 ^ c)) r)
  let d := modHQ d q.val fun h => { h with write := (h.write + 1) % 2 ^ 32 }
  interrupt d (dget d 0x2104 (q.val + 1))

/-! ### Semaphores (R228-R236) -/

/-- The state of a thread whose wait has ended: READY once its listed tc have run (R216) and no update of its waits to close its region
(R186); a FAULTED one stays so (R233). -/
def Thread.woken (k : Thread) : TState := if k.st = .faulted then .faulted else if k.busy || k.held then .blocked else .ready

/-- Puts a BLOCKED thread's wait to rest. -/
def wakeThread (d : Dev) (t : TileId) (th : Thr) : Dev := modThread d t th fun k => { k with wait := .none, st := k.woken }

def setReg (k : Thread) (r : Reg) (v : W64) : Thread := { k with regs := fput 0 k.regs r.val v }
def getReg (k : Thread) (r : Reg) : W64 := fget 0 k.regs r.val

/-- Ends a thread's SWAIT with D ← `v` (0 acquired, 1 woken, 2 limit expired). -/
def endSwait (d : Dev) (t : TileId) (th : Thr) (v : W64) : Dev :=
  match (getThread d t th).wait with
  | .swait r _ => wakeThread (modThread d t th fun k => setReg k r v) t th
  | _ => d

/-- Gives a waiter its count (R231). -/
def grant (d : Dev) (t : TileId) (w : Waiter) : Dev :=
  match w with
  | .thread th _ => endSwait d t th 0
  | .desc u id => modEnt d t u id fun e => { e with phase := .ready }
  | .grinder => modCurv d (t.val - 128) fun c => { c with grind := c.grind.map fun p => { p with waiting := false, idx := p.idx + 1 } }
  | .script => modCurv d (t.val - 128) fun c => { c with script := c.script.map fun p => { p with waiting := false, idx := p.idx + 1 } }
  | .job => modCurv d (t.val - 128) fun c => { c with job := c.job.map fun j => { j with ready := true } }
  | .coll p => modFab d fun b => { b with engines := fmod none b.engines p.val fun e => e.map fun g => { g with waiting := false, passed := true } }

def waiterN (w : Waiter) : Nat := match w with | .thread _ n => n | _ => 1

/-- Serves the waiters from the head while the count suffices; none overtakes the head (R231). -/
def serveWaiters : Nat → Dev → TileId → SemId → Dev
  | 0, d, _, _ => d
  | n + 1, d, t, s =>
    match (getSem d t s).waiters with
    | [] => d
    | w :: ws =>
      if waiterN w ≤ (getSem d t s).count then
        serveWaiters n (grant (modSem d t s fun k => { k with count := k.count - waiterN w, waiters := ws }) t w) t s
      else d

def serveSem (d : Dev) (t : TileId) (s : SemId) : Dev := serveWaiters (getSem d t s).waiters.length d t s

/-- Tier moves of the tile that are still to signal semaphore `s`: a wait on it has begun (R99, R204). -/
def markLate (d : Dev) (t : TileId) (s : SemId) : Dev :=
  modQueue d t 2 fun q => q.map fun e => if dfield e.words 0 0 8 == 0x94 && signalSemOf e.words == s.val then { e with late := true } else e

/-- A thread's wait that BACKPRESSURE_TC counts: on a semaphore marked in 0x4013:01 (R103). -/
def markBackpressure (d : Dev) (t : TileId) (s : SemId) (w : Waiter) : Dev :=
  match w with
  | .thread _ _ => if bitAt (dget d 0x4013 1) s.val then modCount d fun c => { c with marked := fput false c.marked (tileBlk d t) true } else d
  | _ => d

/-- Notes the waits of a tile's threads that BACKPRESSURE_TC counts from now on, on the physical tile that serves it or by a new mask. -/
def remark (d : Dev) (t : TileId) : Dev :=
  (List.finRange 48).foldl (fun d s => (getSem d t s).waiters.foldl (fun d w => markBackpressure d t s w) d) d

/-- Brings every counter of cycles up to now, and notes the waits that BACKPRESSURE_TC goes on counting. -/
def tally (d : Dev) : Dev := (List.finRange 136).foldl remark (settleQuads ((List.range 200).foldl settleBlk d))

/-- Joins a semaphore's waiter queue and is served when at the head (R229, R231); one that must wait makes the moves that signal
the semaphore late. -/
def joinSem (d : Dev) (t : TileId) (s : SemId) (w : Waiter) : Dev :=
  let d := serveSem (modSem d t s fun k => { k with waiters := k.waiters ++ [w] }) t s
  if (getSem d t s).waiters.isEmpty then d else markLate (markBackpressure d t s w) t s

/-- Removes a thread from whatever semaphore queue it waits in. -/
def leaveSems (d : Dev) (t : TileId) (th : Thr) : Dev :=
  match (getThread d t th).wait with
  | .swait _ s =>
    serveSem (modSem d t s fun k => { k with waiters := k.waiters.filter fun w =>
      match w with | .thread x _ => x != th | _ => true }) t s
  | _ => d

/-! ### Posted stores (R238) -/

/-- Writes one posted store; a line poisoned since its issue keeps its poison and contents. (Log entry 34, DESIGN CHOICE.) -/
def writeStore (d : Dev) (t : TileId) (s : Nat × Nat × List Byte) : Dev :=
  match spPoisonAt d t s.2.1 s.2.2.length with
  | some _ => d
  | none => spWrite d t s.2.1 s.2.2

/-- Writes, in issue order, the posted stores of a thread numbered below `upTo`. -/
def flushStores (d : Dev) (t : TileId) (th : Thr) (upTo : Nat) : Dev :=
  let k := getThread d t th
  let d := (k.posted.filter fun s => decide (s.1 < upTo)).foldl (fun d s => writeStore d t s) d
  modThread d t th fun k => { k with posted := k.posted.filter fun s => !decide (s.1 < upTo) }

/-! ### Thread faults (R239) -/

/-- The 16-byte fault record. -/
def faultRec (code : Nat) (pc : W64) (word : W32) (detail : Nat) : List Byte :=
  natLe 1 code ++ zbytes 3 ++ natLe 4 pc.toNat ++ natLe 4 word.toNat ++ natLe 4 detail

/-- What a fault does once its thread is FAULTED: the record is written when FAULT_BASE.EN is set, FAULT_SEM is signalled, and an event
is recorded. -/
def faultNoted (d : Dev) (t : TileId) (th : Thr) (code : Nat) (pc : W64) (word : W32) (detail : Nat) : Dev :=
  let fb := (getTile d t).faultBase.toNat
  let rec_ := faultRec code pc word detail
  let d := if bitAt fb 0 then writeOwn d t (fb / 64 * 64 + 16 * th.val) rec_ else d
  let d := match semOfNat (getTile d t).faultSem with
    | some s => makeSig d ⟨t, s, 1, .fault, none, some t⟩
    | none => d
  tileEv (post d 0x0011 2 (tileSource d t th.val) rec_) t 0x0F 1

/-- A thread fault, taken by every faulting instruction: the thread enters FAULTED, and the instruction has no effect; other threads and
queues carry on. -/
def threadFault (d : Dev) (t : TileId) (th : Thr) (code : Nat) (pc : W64) (word : W32) (detail : Nat) : Dev :=
  let d := leaveSems d t th
  faultNoted (modThread d t th fun k => { k with st := .faulted, wait := .none, busy := false }) t th code pc word detail

/-- The fault of an SSIG or SSIGT whose increment overflows (R233): an ISSUE or SWAIT issued after it goes on waiting for its effect, and
the thread stays FAULTED. -/
def lateFault (d : Dev) (t : TileId) (th : Thr) (code : Nat) (pc : W64) (word : W32) (detail : Nat) : Dev :=
  faultNoted (modThread d t th fun k => { k with st := .faulted, wait := match k.wait with | .icache _ => .none | w => w }) t th code pc word detail

/-! ### The end of a queue entry -/

def findEnt (d : Dev) (t : TileId) (u id : Nat) : Option QEnt := (getQueue d t u).find? fun e => e.id == id
def dropEnt (d : Dev) (t : TileId) (u id : Nat) : Dev := modQueue d t u (dropFirst fun e => e.id == id)

/-! ### Reduction chunks of a collective (R263) -/

def collOp (w : List W32) : Nat := dfield w 0 0 8
/-- Elements of a reduction chunk. -/
def chunkElems (w : List W32) : Nat :=
  let n := dfield w 3 0 16 + 1
  if bitAt (wordAt w 0) 15 then 1024 / (n + 1) else 16 * (32768 / (16 * (n + 1)))
/-- Bytes of a staged element. -/
def stageElem (w : List W32) : Nat := if bitAt (wordAt w 0) 15 then 128 else 4
/-- The element of DST where this device's reduced shard starts. -/
def shardBase (k : Coll) : Nat := if collOp k.words = 0xC0 then (k.counts.take k.me).foldl (· + ·) 0 else 0
/-- Elements of chunk `c` of this device's shard. -/
def chunkLen (k : Coll) (c : Nat) : Nat := min (chunkElems k.words) (k.counts.getD k.me 0 - c * chunkElems k.words)
/-- The tile and the scratchpad address that stage chunk `c`. -/
def stageTile (w : List W32) (c : Nat) : TileId := tileOfNat (dfield w 12 13 1 * 64 + dfield w 12 0 6 + c % dfield w 12 6 7)
def stageAddr (w : List W32) (c : Nat) : Nat := dfield w 13 0 23 + (c / dfield w 12 6 7) % 2 * 0x20000
/-- The staged row of a chunk: its first byte. -/
def stageRow (w : List W32) (c row : Nat) : Nat := stageAddr w c + row * chunkElems w * stageElem w
/-- The byte offset in DST of chunk `c`'s result. -/
def chunkDst (k : Coll) (c : Nat) : Nat := 64 * wordAt k.words 11 + 4 * (shardBase k + c * chunkElems k.words)

/-- The end of a staging VREDUCE (R263), named by EPOCH · 2^32 + chunk: its result is written to DST and its half is free, or its mismatch
or poison is the collective's; a collective that has ended takes nothing. -/
def collChunkEnd (d : Dev) (p : Port) (ec code status : Nat) : Dev :=
  let c := ec % 2 ^ 32
  let mine := fun (k : Coll) => k.port == p.val && wordAt k.words 2 == ec / 2 ^ 32
  match d.fab.colls.find? (fun k => mine k && decide (c ∈ k.issued)) with
  | none => d
  | some k =>
    let row := spRead d (stageTile k.words c) (stageRow k.words c k.group.length) (4 * chunkLen k c)
    let bad := if code ≠ 0 then code else (checkAllocWrite (unfreed d) (wordAt k.words 10) (chunkDst k c) row.length).1
    let d := if bad = 0 then allocWriteOther d (wordAt k.words 10) (chunkDst k c) row else d
    modFab d fun b => { b with colls := updFirst mine (fun k => { k with
      status := k.status ||| (status % 4), code := if k.code = 0 then bad else k.code
      issued := k.issued.filter (· != c), done := if bad = 0 then k.done ++ [c] else k.done }) b.colls }

/-- Ends entry `e` of tile `t`: it leaves its queue, its record is written and its signal made where its code
allows (`sig`). -/
def endEnt (d : Dev) (t : TileId) (e : QEnt) (sig : Bool) : Dev :=
  let d := dropEnt d t e.unit e.id
  match e.org with
  | .thread _ _ _ => endThreadEnt d t e sig
  | .coll p c => collChunkEnd d p c e.code e.status
  | .host _ _ | .grinder | .solver => d

/-- Whether an entry is a tier move whose semaphore some waiter waits on already (R204). -/
def waitOpen (d : Dev) (t : TileId) (e : QEnt) : Bool :=
  dfield e.words 0 0 8 == 0x94 && match semOfNat (signalSemOf e.words) with
  | some s => !(getSem d t s).waiters.isEmpty
  | none => false

/-- Accepts a descriptor into a queue: a new identifier in order of arrival (R57, R222). -/
def pushEnt (d : Dev) (t : TileId) (e : QEnt) : Dev :=
  { modQueue d t e.unit (· ++ [{ e with id := d.stamp, late := waitOpen d t e }]) with stamp := d.stamp + 1 }

/-! ### The vector engine queue of a curvature tile (R78)

The Grinder's EMA, DAMP and TREE and the Percolator's element-wise work and tree solves take entries of their own among the threads'
(R78, R129, R149). Log entry 105 (DEDUCED): all the vector work of one command takes one entry. -/

/-- The queue lets engine `o` of the tile run: it is empty, or `o`'s own entry stands at its head. -/
def vecFree (d : Dev) (t : TileId) (o : Org) : Bool :=
  match (getQueue d t 1).head? with | some e => e.org == o | none => true

/-- `o` takes an entry, unless it has one or all eight are taken. The entry holds an instruction in words 1 and 2 and names no
semaphore. -/
def joinVec (d : Dev) (t : TileId) (o : Org) (w : Nat) : Dev :=
  if (getQueue d t 1).any (fun e => e.org == o) || decide ((getQueue d t 1).length ≥ 8) then d
  else pushEnt d t { id := 0, unit := 1, words := [0, BitVec.ofNat 32 w, BitVec.ofNat 32 (w / 2 ^ 32)] ++ List.replicate 12 0 ++ [0xFFF], org := o }

/-- `o`'s entry leaves the queue. -/
def leaveVec (d : Dev) (t : TileId) (o : Org) : Dev := modQueue d t 1 (dropFirst fun e => e.org == o)

/-- Vector beats of an engine's work, of which the spec gives no number, have counted a free number (R382; log entry 140, DESIGN
CHOICE). -/
def openBeats (d : Dev) (t : TileId) : Dev :=
  tileEv (modCount d fun c => { c with draws := c.draws + 1 }) t 0x0B (Config.counted d.count.draws)

/-- `o`'s turn at the vector engine: its entry leaves the queue. -/
def takeVec (d : Dev) (t : TileId) (o : Org) : Dev := openBeats (leaveVec d t o) t

/-- Vector work of `o`, instruction `w`: `f` runs when the queue lets it, and its entry then leaves. -/
def passVec (d : Dev) (t : TileId) (o : Org) (w : Nat) (f : Dev → Dev) : Dev :=
  if vecFree d t o then f (takeVec d t o) else joinVec d t o w

end Sys2Proof.Machine
end

