-- ==== Sys2Proof/Machine/Operands.lean ====
section
/-!
DEFINITION. Operand forms: the constants, addresses and amounts of sequencer instructions (Tables 10-2 to 10-5), and
the elements of rows in memory in every format of Tables 2-1, 3-7 and 4-2, read to exact values and written back
(R30-R33, R40, R434).
-/
namespace Sys2Proof.Machine

/-! ### Sequencer operands -/

/-- sext(K16). -/
def sextK (k : W16) : W64 := k.signExtend 64
/-- zext(K16). -/
def zextK (k : W16) : W64 := k.zeroExtend 64
/-- Bytes of an access of WIDTH. -/
def widthBytes : Width → Nat
  | .w8 => 1 | .w16 => 2 | .w32 => 4 | .w64 => 8
/-- The address of LD and ST: A + OFS13 × width, modulo 2^64. -/
def lsAddr (a : W64) (w : Width) (o : BitVec 13) : W64 := a + o.signExtend 64 * BitVec.ofNat 64 (widthBytes w)
/-- A branch target: base + 4 × sext(K16). -/
def branchTo (base : W64) (k : W16) : W64 := base + 4 * sextK k
/-- A loaded value, zero- or sign-extended. -/
def extend (w : Width) (sg : Bool) (v : Nat) : W64 :=
  if sg then
    (match w with
     | .w8 => (BitVec.ofNat 8 v).signExtend 64
     | .w16 => (BitVec.ofNat 16 v).signExtend 64
     | .w32 => (BitVec.ofNat 32 v).signExtend 64
     | .w64 => BitVec.ofNat 64 v)
  else BitVec.ofNat 64 v
/-- n of a SEM function: A[15:0] when K is 1, else 1. -/
def semN (a : W64) (k : Bool) : Nat := if k then a.toNat % 65536 else 1

/-! ### Elements (Table 3-7, Table 4-2) -/

/-- Bits per element of a format code. -/
def fmtBits (f : Nat) : Nat :=
  if f = 0 ∨ f = 1 then 16 else if f = 5 then 6 else if f = 6 then 4 else if f = 8 then 32
  else if f = 9 then 64 else if f = 10 then 1024 else 8

/-- MXFP8, MXFP6 and MXFP4. -/
def isMx (f : Nat) : Bool := f == 4 || f == 5 || f == 6

/-- Bytes of a row of `n` elements. -/
def rowBytes (f n : Nat) : Nat := cdiv (n * fmtBits f) 8

/-- The codes of `n` elements of `w` bits packed from bit 0 of the first byte up. -/
def elemCodes (w : Nat) (b : List Byte) (n : Nat) : List Nat :=
  (List.range n).map fun j => bitf (recf b (j * w / 8) (cdiv (j * w % 8 + w) 8)) (j * w % 8) w

/-- Element codes packed into bytes, the last byte's upper bits zero. -/
def packCodes (w : Nat) (codes : List Nat) : List Byte :=
  if w % 8 = 0 then codes.flatMap (natLe (w / 8))
  else natLe (cdiv (codes.length * w) 8) (codes.foldr (fun c acc => c % 2 ^ w + 2 ^ w * acc) 0)

/-- The exact value of an element code. -/
def elemVal (f : Nat) (elem : Bool) (scale c : Nat) : XVal :=
  if f = 0 then widen fmtBf16 c
  else if f = 1 then widen fmtFp16 c
  else if f = 2 then widen fmtE4m3 c
  else if f = 3 then widen fmtE5m2 c
  else if isMx f then mxWiden (mxFmt f elem) scale c
  else if f = 7 then widenInt8 c
  else x32 (BitVec.ofNat 32 c)

/-- The exact values of a row of `n` elements; `scales` holds the row's MX block scales. -/
def rowVals (f : Nat) (elem : Bool) (b scales : List Byte) (n : Nat) : List XVal :=
  (elemCodes (fmtBits f) b n).zipIdx.map fun e => elemVal f elem ((scales.getD (e.2 / 32) 0).toNat) e.1

/-- A row widened to binary32. -/
def row32 (f : Nat) (elem : Bool) (b scales : List Byte) (n : Nat) : List W32 := (rowVals f elem b scales n).map rne32

/-- A row as pairs (R40): format 0x9 holds pairs, others widen with lo = +0. -/
def rowPairs (f : Nat) (b : List Byte) (n : Nat) : List Pair :=
  if f = 9 then (elemCodes 64 b n).map fun c =>
    let p : Pair := (BitVec.ofNat 32 c, BitVec.ofNat 32 (c / 2 ^ 32))
    (if isNan32 p.1 then nan32 else p.1, if isZero32 p.2 then 0 else p.2)
  else (row32 f false b [] n).map pair32

/-- The code of one value narrowed to a format that is not MX (R32). -/
def narrowTo (f : Nat) (x : XVal) : Nat :=
  if f = 0 then narrow fmtBf16 x
  else if f = 1 then narrow fmtFp16 x
  else if f = 2 then narrow fmtE4m3 x
  else if f = 3 then narrow fmtE5m2 x
  else if f = 7 then narrowInt8 x
  else (rne32 x).toNat

/-- Binary32 values narrowed to a format: element bytes, and the scale bytes of an MX format, a short last block padded
with zero elements (R33, R434): they count for its scale, and the row's element bytes end with its last element, the bits that are
left in that byte zero (log entry 128, DEDUCED). -/
def rowOut (f : Nat) (elem : Bool) (l : List W32) : List Byte × List Byte :=
  if isMx f then
    let bs := chunksOf 32 l.length l
    (packCodes (fmtBits f) (bs.flatMap fun b => mxCodes f elem b), bs.map fun b => BitVec.ofNat 8 (mxScale f elem b))
  else (packCodes (fmtBits f) (l.map fun b => narrowTo f (x32 b)), [])

/-- Pairs written in a format: 8 bytes as they stand, or hi + lo rounded once (R40). -/
def pairsOut (f : Nat) (l : List Pair) : List Byte :=
  if f = 9 then l.flatMap fun p => natLe 4 p.1.toNat ++ natLe 4 p.2.toNat
  else packCodes (fmtBits f) (l.map fun p => if f = 8 then p.1.toNat else narrowTo f (xpair p))

end Sys2Proof.Machine
end

