-- ==== Sys2Proof/Machine/Checks.lean ====
section
/-!
DEFINITION. The descriptor checks that ISSUE makes (R223): R65 for matrix, R92 for vector, R188 for update and
preconditioning, R212 for memory and R226 for launch descriptors. A check answers a completion code, 0 when the
descriptor is accepted. Where several conditions hold the lowest code is given (log entry 13, DESIGN CHOICE).
-/
namespace Sys2Proof.Machine

/-- The lowest code whose condition holds; 0 when none does. The list is in ascending order of code. -/
def firstCode : List (Nat × Bool) → Nat
  | [] => 0
  | (c, b) :: r => if b then c else firstCode r

/-- Whether some listed field `(word, low bit, length)` is not zero (R12). -/
def anySet (w : List W32) (fs : List (Nat × Nat × Nat)) : Bool := fs.any fun f => dfield w f.1 f.2.1 f.2.2 != 0

/-- Semaphore numbers 48 to 62 in WAIT_SEM or SIGNAL_SEM. -/
def badSem (w : List W32) : Bool :=
  let b := fun n => decide (48 ≤ n) && decide (n ≤ 62)
  b (waitSemOf w) || b (signalSemOf w)

def opcodeOf (w : List W32) : Nat := dfield w 0 0 8

/-- A table index of Table 4-5 that names a built-in pair. -/
def listedTable (i : Nat) : Bool := decide (i ≤ 9)

/-- Whether a slot counts as loaded: it holds a table or an accepted VTLOAD to it has not ended (R87). -/
def slotLoaded (d : Dev) (t : TileId) (i : Nat) : Bool :=
  decide (0x80 ≤ i) && decide (i ≤ 0x83) &&
    (!(fget [] (getTile d t).slots (i - 0x80)).isEmpty
     || (getQueue d t 1).any fun e => opcodeOf e.words == 0x60 && dfield e.words 0 15 8 == i)

/-- Last byte + 1 of `rows` rows of `n` bytes. -/
def spanEnd (a rows stride n : Nat) : Nat := a + (rows - 1) * stride + n

/-- Whether rows lie outside the scratchpad of `t` or touch its bound tap pool (R111). -/
def badSpan (d : Dev) (t : TileId) (a rows stride n : Nat) : Bool :=
  decide (spanEnd a rows stride n > scratchSize t)
    || (poolBound d t && (List.range (if decide (spanEnd a rows stride n > 0x400000) then rows else 0)).any fun r => hitsPool d t (a + r * stride) n)

/-! ### Matrix (R64, R65) -/

def mxReserved : List (Nat × Nat × Nat) :=
  [(0, 20, 4), (0, 28, 4), (1, 15, 17), (2, 24, 8), (3, 24, 8), (4, 24, 8), (5, 21, 11), (6, 21, 11), (7, 21, 11),
   (8, 21, 11), (9, 29, 3), (10, 21, 11), (11, 21, 11), (12, 21, 11), (13, 13, 19), (14, 21, 11), (15, 20, 12)]

/-- Bytes of a row of C with its MX scales (R434). -/
def cRowBytes (f n : Nat) : Nat :=
  if isMx f then roundUp (rowBytes f n) 64 + cdiv n 32 else rowBytes f n

/-- Table 3-3: the masks a gang takes. -/
def gangMask (g m : Nat) : Bool :=
  if g = 0 then m == 1 || m == 2 || m == 4 || m == 8 else if g = 1 then m == 3 || m == 12 else m == 15

def checkMatrix (d : Dev) (t : TileId) (w : List W32) : Nat :=
  let fa := dfield w 1 0 4
  let fb := dfield w 1 4 4
  let fc := dfield w 1 8 4
  let df := dfield w 0 8 2
  let g := dfield w 0 10 2
  let feed := dfield w 0 12 1
  let tr := dfield w 0 13 2
  let acc := dfield w 0 15 1
  let red := dfield w 0 16 2
  let m := dfield w 2 0 24
  let n := dfield w 3 0 24
  let k := dfield w 4 0 24
  let ee := dfield w 13 0 4
  let elemBad := fun (f bit : Nat) => bitAt (wordAt w 1) bit && f != 4 && f != 5
  let dest := tileOfCode t (dfield w 9 21 7) (bitAt (wordAt w 9) 28)
  let fmtBad := decide (fa > 7) || decide (fb > 7) || decide (fc > 8) || decide ((fa = 7) ≠ (fb = 7))
    || elemBad fa 12 || elemBad fb 13 || elemBad fc 14
    || (dfield w 11 0 21 != 0 && !isMx fa) || (dfield w 12 0 21 != 0 && !isMx fb)
    || ((acc == 1 || red == 1 || red == 2) && fc != 8) || decide (ee > 2)
    || (ee != 0 && decide (2 ≤ fc) && decide (fc ≤ 7))
    || (bitAt (wordAt w 13) 12 && !(listedTable (dfield w 13 4 8) || slotLoaded d t (dfield w 13 4 8)))
    || (tr == 1 && isMx fa) || (tr == 2 && isMx fb)
  let shapeBad := m == 0 || n == 0 || k == 0 || df == 3 || !gangMask g (dfield w 0 24 4) || red == 3
    || (feed == 1 && (g != 0 || df == 2))
  let ar := if tr = 1 then (k, m) else (m, k)
  let br := if tr = 2 then (n, k) else (k, n)
  let aligned := fun (x : Nat) => x % 64 != 0
  let addrBad := aligned (dfield w 5 0 21) || aligned (dfield w 6 0 21) || aligned (dfield w 7 0 21)
    || aligned (dfield w 8 0 21) || aligned (dfield w 9 0 21) || aligned (dfield w 10 0 21)
    || (isMx fc && decide (dfield w 10 0 21 < roundUp (cRowBytes fc n) 64))
    || dest.isNone
    || badSpan d t (dfield w 5 0 21) ar.1 (dfield w 6 0 21) (rowBytes fa ar.2)
    || badSpan d t (dfield w 7 0 21) br.1 (dfield w 8 0 21) (rowBytes fb br.2)
    || decide (spanEnd (dfield w 9 0 21) m (dfield w 10 0 21) (cRowBytes fc n) > 0x200000)
    || (ee != 0 && badSpan d t (dfield w 14 0 21) m (dfield w 10 0 21) (rowBytes fc n))
    || (isMx fa && badSpan d t (dfield w 11 0 21) 1 0 (m * cdiv k 32))
    || (isMx fb && badSpan d t (dfield w 12 0 21) 1 0 (cdiv k 32 * n))
  firstCode [(1, anySet w mxReserved || (ee == 0 && dfield w 14 0 21 != 0)), (2, fmtBad), (3, shapeBad), (4, addrBad),
    (5, badSem w), (7, tr == 3 || (bitAt (wordAt w 0) 19 && tr == 0))]

/-! ### Vector (R74, R75, R92) -/

/-- What a vector opcode is (Table 4-3): element-wise, with its operands; and the other groups. -/
inductive VKind where
  | ew | cvt | act | rowred | norm | pair | vred | vtload | vtread
  deriving DecidableEq, Repr

/-- Kind and use of y, w, z, IMM, ROWVEC, and whether the opcode reduces (Table 4-3). -/
structure VSpec where
  kind : VKind
  y : Bool := false
  w : Bool := false
  z : Bool := true
  imm : Bool := false
  rv : Bool := false
  red : Bool := false
  deriving DecidableEq, Repr

/-- The row of an opcode in Table 4-3. VRSSQ has no z, so that FMT_Z 0xA is for VREDUCE alone, as Table 4-2 has it, though R170 names both
(log entry 137, DEDUCED). -/
def vspec (op : Nat) : Option VSpec :=
  if op = 0x20 ∨ op = 0x21 ∨ op = 0x22 ∨ op = 0x24 ∨ op = 0x25 ∨ op = 0x3B then some { kind := .ew, y := true }
  else if op = 0x23 ∨ op = 0x28 then some { kind := .ew, y := true, w := true }
  else if op = 0x26 ∨ op = 0x27 ∨ op = 0x38 ∨ op = 0x39 ∨ op = 0x3A ∨ op = 0x3C ∨ op = 0x3D then some { kind := .ew }
  else if op = 0x30 then some { kind := .cvt }
  else if op = 0x40 then some { kind := .act }
  else if op = 0x41 then some { kind := .act, y := true }
  else if op = 0x48 ∨ op = 0x49 ∨ op = 0x4A then some { kind := .rowred, z := false, rv := true, red := true }
  else if op = 0x4B then some { kind := .rowred, y := true, z := false, rv := true, red := true }
  else if op = 0x4C ∨ op = 0x4D then some { kind := .norm, imm := true, rv := true, red := true }
  else if op = 0x4E ∨ op = 0x4F then some { kind := .norm, y := true, rv := true, red := true }
  else if op = 0x50 then some { kind := .norm, red := true }
  else if op = 0x51 then some { kind := .norm, y := true, red := true }
  else if op = 0x54 ∨ op = 0x55 then some { kind := .pair, y := true }
  else if op = 0x56 then some { kind := .pair, y := true, w := true }
  else if op = 0x58 then some { kind := .vred, red := true }
  else if op = 0x60 then some { kind := .vtload, z := false }
  else if op = 0x61 then some { kind := .vtread }
  else none

def vecReserved : List (Nat × Nat × Nat) :=
  [(0, 23, 9), (1, 16, 16), (2, 24, 8), (3, 24, 8), (4, 23, 9), (5, 23, 9), (6, 23, 9), (7, 23, 9), (8, 23, 9),
   (9, 23, 9), (10, 23, 9), (11, 23, 9), (12, 23, 9), (14, 23, 9), (15, 12, 20)]

def imageBytes : Nat := 32896

/-- Whether y comes from memory rows (R75). -/
def yRows (s : VSpec) (w : List W32) : Bool :=
  s.y && !(s.kind != .rowred && s.kind != .norm && (bitAt (wordAt w 0) 10 || bitAt (wordAt w 0) 11))

/-- The check of a vector descriptor (R74, R75, R92). FMT_Y must be zero where y comes from IMM or ROWVEC (log entry 110), and MX
scales of VCVT stand row behind row (log entry 107), DESIGN CHOICE. An opcode that is not listed ends 0x08 whatever else is wrong (log entry
155, DESIGN CHOICE); records have a stride that is a multiple of 128 (log entry 156, DEDUCED). -/
def checkVector (d : Dev) (t : TileId) (w : List W32) : Nat :=
  let op := opcodeOf w
  match vspec op with
  | none => 8
  | some s =>
    let table := s.kind == .vtload || s.kind == .vtread
    let yScalar := bitAt (wordAt w 0) 10
    let yPerRow := bitAt (wordAt w 0) 11
    let yOk := s.y && s.kind != .rowred && s.kind != .norm
    let yMem := yRows s w
    let wUse := s.w || (op == 0x40 && bitAt (wordAt w 0) 13)
    let fx := dfield w 1 0 4
    let fy := dfield w 1 4 4
    let fz := dfield w 1 8 4
    let fw := dfield w 1 12 4
    let mx := s.kind == .cvt && (isMx fx || isMx fz)
    let red := dfield w 0 8 2
    let len := dfield w 2 0 24
    let rows := dfield w 3 0 24
    let tab := dfield w 0 15 8
    let rvUse := s.rv || (yOk && yPerRow)
    let xUse := s.kind != .vtread
    let unused : List (Nat × Nat × Nat) :=
      (if s.kind == .vred then [] else [(0, 12, 1)]) ++ (if op = 0x40 then [] else [(0, 13, 1)])
      ++ (if mx then [] else [(12, 0, 32)]) ++ (if mx && !(fx == 6 || fz == 6) then [] else [(0, 14, 1)])
      ++ (if s.kind == .vred then [(9, 0, 32)] else [])
      ++ (if table || op == 0x40 || op == 0x41 then [] else [(0, 15, 8)])
      ++ (if table then [(1, 0, 4), (1, 8, 4), (2, 0, 32), (3, 0, 32), (5, 0, 32), (9, 0, 32)] else [])
      ++ (if yMem then [] else [(1, 4, 4), (6, 0, 32), (7, 0, 32)])
      ++ (if s.z then [] else [(1, 8, 4), (8, 0, 32), (9, 0, 32)])
      ++ (if wUse then [] else [(1, 12, 4), (10, 0, 32), (11, 0, 32)])
      ++ (if xUse then [] else [(4, 0, 32)])
      ++ (if s.imm || (yOk && yScalar) then [] else [(13, 0, 32)])
      ++ (if rvUse then [] else [(14, 0, 32)])
    let plain := fun (f : Nat) => f == 0 || f == 1 || f == 8
    let fmtOk := fun (f : Nat) (isX isZ : Bool) =>
      match s.kind with
      | .pair => plain f || f == 9
      | .cvt => decide (f ≤ 8) || (isZ && f == 9 && fx == 8)
      | .vred => plain f || (f == 10 && (isX || isZ) && red == 2)
      | _ => plain f
    let fmtBad := !table && (!fmtOk fx true false || (yMem && !fmtOk fy false false) || (s.z && !fmtOk fz false true)
      || (wUse && !fmtOk fw false false) || (s.kind == .cvt && isMx fx && isMx fz))
    let shapeBad := (!table && (len == 0 || rows == 0)) || (yScalar && yPerRow) || ((yScalar || yPerRow) && !yOk)
      || (if s.red then red != 1 && red != 2 else red != 0)
    let al := fun (f : Nat) => if f = 10 then 128 else 64
    let badOp := fun (f ai si rws : Nat) =>
      decide (dfield w ai 0 23 % al f ≠ 0) || decide (dfield w si 0 23 % al f ≠ 0)
        || badSpan d t (dfield w ai 0 23) rws (dfield w si 0 23) (rowBytes f len)
    let addrBad :=
      if table then
        (let a := if s.kind == .vtload then dfield w 4 0 23 else dfield w 8 0 23
         a % 64 != 0 || badSpan d t a 1 0 imageBytes)
      else badOp fx 4 5 rows || (yMem && badOp fy 6 7 rows)
        || (s.z && badOp fz 8 9 (if s.kind == .vred then 1 else rows)) || (wUse && badOp fw 10 11 rows)
        || (rvUse && (dfield w 14 0 23 % 4 != 0 || badSpan d t (dfield w 14 0 23) 1 0 (4 * rows)))
        || (mx && badSpan d t (dfield w 12 0 23) 1 0 (rows * cdiv len 32))
    let tabBad :=
      ((op == 0x40 || op == 0x41) && !(listedTable tab || slotLoaded d t tab))
      || (op == 0x60 && !(decide (0x80 ≤ tab) && decide (tab ≤ 0x83)))
      || (op == 0x61 && !((decide (3 ≤ tab) && decide (tab ≤ 9)) || slotLoaded d t tab))
    firstCode [(1, anySet w vecReserved || anySet w unused), (2, fmtBad), (3, shapeBad), (4, addrBad), (5, badSem w),
      (9, tabBad)]

/-! ### Update and preconditioning (R176, R177, R188) -/

def updReserved : List (Nat × Nat × Nat) :=
  [(0, 18, 14), (6, 24, 8), (8, 23, 9), (9, 23, 9), (10, 23, 9), (11, 0, 32), (12, 0, 32), (13, 0, 32), (14, 0, 32),
   (15, 12, 20)]

/-- Bytes of a working copy of `n` elements (Table 8-1). -/
def wcBytes (f n : Nat) : Nat := if isMx f then roundUp (rowBytes f n) 64 + cdiv n 32 else rowBytes f n

/-- Conditions on the allocations an update names: a code, 0 when all hold. One that names no allocation has none to check here: the
update then ends with ALLOC_ID at its start and signals (R188; log entry 135, DESIGN CHOICE). -/
def updAllocs (d : Dev) (w : List W32) : Nat :=
  let wcf := dfield w 0 12 4
  let wcId := wordAt w 3
  match getAlloc d (wordAt w 1), getAlloc d (wordAt w 2), getAlloc d (wordAt w 7) with
  | some ma, some mo, some gr =>
    let n := ma.elems
    let e := dword w 4 + dfield w 6 0 24
    let sgd := dfield w 0 8 2 == 0
    let moNeed := if sgd then 4 * n else roundUp (4 * n) 64 + 4 * n
    let wcBad := wcf != 0 && (match getAlloc d wcId with | some a => decide (a.size < wcBytes wcf n) | none => false)
    let grNeed := if delayOf ma = 0 then 4 * n else 8 * n
    firstCode [(3, decide (e > n) || (isMx wcf && (dword w 4 % 32 != 0 || (e % 32 != 0 && e != n)))),
      (4, decide (ma.size < roundUp (2 * n) 64 + 2 * n) || decide (mo.size < moNeed) || decide (gr.size < grNeed) || wcBad)]
  | _, _, _ => 0

def checkUpdate (d : Dev) (t : TileId) (w : List W32) : Nat :=
  let wcf := dfield w 0 12 4
  let sgd := dfield w 0 8 2 == 0
  let hp := dfield w 8 0 23
  let c := firstCode [(1, anySet w updReserved), (2, decide (wcf > 6) || decide ((wcf = 0) ≠ (wordAt w 3 = 0)) || (bitAt (wordAt w 0) 16 && wcf != 4 && wcf != 5)),
    (3, dfield w 6 0 24 == 0),
    (4, hp % 32 != 0 || dfield w 9 0 23 % 64 != 0 || dfield w 10 0 23 % 64 != 0
      || badSpan d t hp 1 0 (if sgd then 32 else 40) || badSpan d t (dfield w 9 0 23) 1 0 64
      || badSpan d t (dfield w 10 0 23) 1 0 0x30000),
    (5, badSem w), (8, decide (dfield w 0 8 2 > 1))]
  if c ≠ 0 then c else updAllocs d w

def preReserved : List (Nat × Nat × Nat) :=
  [(0, 11, 21), (3, 18, 14), (4, 18, 14), (6, 29, 3), (7, 29, 3), (8, 23, 9), (9, 0, 32), (10, 0, 32), (11, 0, 32),
   (12, 0, 32), (13, 0, 32), (14, 0, 32), (15, 12, 20)]

/-- Whether the gradient or root set allocation of a PRECONDITION is too small. -/
def preSmall (d : Dev) (w : List W32) : Bool :=
  (match getAlloc d (wordAt w 1) with | some g => decide (g.size < wordAt w 2 + 4 * dfield w 3 0 18 * roundUp (dfield w 4 0 18) 16) | none => false)
    || (match getAlloc d (wordAt w 5) with | some r => decide (r.size < 64) | none => false)

/-- The checks of a PRECONDITION descriptor; an unknown allocation ends it with ALLOC_ID when it runs (R188; log entry 135, DESIGN
CHOICE). -/
def checkPrecond (d : Dev) (t : TileId) (w : List W32) : Nat :=
  let k := dfield w 3 0 18
  let n := dfield w 4 0 18
  firstCode [(1, anySet w preReserved), (3, dfield w 0 9 2 == 0 || k == 0 || n == 0),
    (4, wordAt w 2 % 64 != 0 || dfield w 6 0 23 % 4 != 0 || dfield w 7 0 23 % 4 != 0 || dfield w 8 0 23 % 64 != 0
      || badSpan d t (dfield w 6 0 23) 1 0 (4 * (dfield w 6 23 6 + 1))
      || badSpan d t (dfield w 7 0 23) 1 0 (4 * (dfield w 7 23 6 + 1))
      || badSpan d t (dfield w 8 0 23) 1 0 0x300000 || preSmall d w),
    (5, badSem w)]

/-! ### Memory (R195, R196, R202) -/

/-- Table 9-5 and the refused codes of Tables 9-3 and 9-4. -/
def flagsBad (flags kind : Nat) : Bool :=
  let tier := flags % 4
  let delay := bitf flags 5 3
  decide (kind > 1) || decide (delay > 4) || (bitAt flags 2 && tier != 1)
    || (bitAt flags 3 && tier != 1 && !(tier == 2 && delay != 0)) || (bitAt flags 4 && tier == 3)
    || (delay != 0 && tier != 2) || (kind == 1 && tier != 0 && tier != 1)

/-- The bytes of row `r` of a move. -/
def rowStart (off stride r : Nat) : Nat := off + r * stride

/-- Whether two sets of rows share a byte (R202). Rows of the second that may meet row `i` of the first lie around
one index; with a zero stride all rows are one row. -/
def rowsShare (so ss dof ds rb rows : Nat) : Bool :=
  let hit := fun (a b : Nat) => decide (a < b + rb) && decide (b < a + rb)
  (List.range (if ss = 0 then 1 else rows)).any fun i =>
    let a := rowStart so ss i
    if ds = 0 then hit a dof
    else
      let j0 := (a + rb - dof) / ds
      let lo := (if a < dof + rb then 0 else (a - dof - rb) / ds)
      (List.range (j0 + 1 - lo)).any fun j => decide (lo + j < rows) && hit a (rowStart dof ds (lo + j))

/-- The conditions of R202 that rest on the allocation table. -/
def moveAllocs (d : Dev) (w : List W32) : Nat :=
  match getAlloc d (wordAt w 1), getAlloc d (wordAt w 4) with
  | some a, some b =>
    let rb := dfield w 7 0 24
    let rows := dfield w 8 0 24
    let ver := bitAt (wordAt w 0) 8
    firstCode [(2, ver && delayOf a == 0),
      (3, decide (spanEnd (dword w 2) rows (wordAt w 9) rb > a.size)
        || decide (spanEnd (dword w 5) rows (wordAt w 10) rb > b.size)),
      (4, wordAt w 1 == wordAt w 4 && !ver && rowsShare (dword w 2) (wordAt w 9) (dword w 5) (wordAt w 10) rb rows)]
  | _, _ => 0x40

/-- Fields an allocation descriptor does not use (Tables 9-3, 9-12); a QUERY of the host gives no REC_ADDR (R331). -/
def memUnused (w : List W32) (host : Bool) : Bool :=
  let op := opcodeOf w
  let scratch := op == 0x90 && dfield w 2 0 2 == 0
  (op != 0x92 && dfield w 0 8 4 != 0)
    || (op != 0x90 && (wordAt w 2 != 0 || dword w 3 != 0 || dword w 5 != 0))
    || (!scratch && wordAt w 7 != 0)
    || (!(op == 0x92 && dfield w 0 8 4 == 3) && dword w 8 != 0)
    || ((op != 0x93 || host) && wordAt w 10 != 0)

def memReserved : List (Nat × Nat × Nat) :=
  [(0, 12, 20), (2, 10, 22), (7, 31, 1), (10, 23, 9), (11, 0, 32), (12, 0, 32), (13, 0, 32), (14, 0, 32), (15, 12, 20)]
def moveReserved : List (Nat × Nat × Nat) := [(0, 9, 23), (7, 24, 8), (8, 24, 8), (13, 0, 32), (14, 0, 32), (15, 12, 20)]

/-- The check of a memory descriptor. `own` is the issuing tile; none when the host issues it, whose semaphores must be
63 (R195). -/
def checkMemory (d : Dev) (own : Option TileId) (w : List W32) : Nat :=
  let op := opcodeOf w
  let semBad := badSem w || (own.isNone && (waitSemOf w != 63 || signalSemOf w != 63))
  if op = 0x94 then
    let ver := bitAt (wordAt w 0) 8
    let c := firstCode [(1, anySet w moveReserved || (!ver && dword w 11 != 0)),
      (3, dfield w 7 0 24 == 0 || dfield w 8 0 24 == 0),
      (4, dword w 2 % 64 != 0 || dword w 5 % 64 != 0 || dfield w 7 0 24 % 64 != 0 || wordAt w 9 % 64 != 0 || wordAt w 10 % 64 != 0),
      (5, semBad)]
    if c ≠ 0 then c else moveAllocs d w
  else if op < 0x90 ∨ op > 0x94 then 8
  else
    let cop := dfield w 0 8 4
    let spt := tileOfCode (own.getD ⟨0, by omega⟩) (dfield w 7 23 7) (bitAt (wordAt w 7) 30)
    let scratch := op == 0x90 && dfield w 2 0 2 == 0
    let addrBad :=
      (op == 0x90 && dword w 3 % 64 != 0)
      || (scratch && (match spt with
          | none => true
          | some t => dfield w 7 0 23 % 64 != 0 || badSpan d t (dfield w 7 0 23) 1 0 (dword w 3))
        || (scratch && own.isNone && dfield w 7 23 7 == 0x7F))
      || (op == 0x93 && (match own with
          | some t => dfield w 10 0 23 % 64 != 0 || badSpan d t (dfield w 10 0 23) 1 0 64
          | none => false))
    firstCode [(1, anySet w memReserved || memUnused w own.isNone),
      (2, op == 0x90 && flagsBad (dfield w 2 0 8) (dfield w 2 8 2)), (3, op == 0x90 && dword w 3 == 0), (4, addrBad),
      (5, semBad), (8, op == 0x92 && (cop == 0 || decide (cop > 5)))]

/-! ### Launch (R226, R258) -/

def launchReserved : List (Nat × Nat × Nat) :=
  [(0, 12, 20), (1, 23, 9), (9, 0, 32), (10, 0, 32), (11, 0, 32), (12, 0, 32), (13, 0, 32), (14, 0, 32), (15, 12, 20)]

/-- The checks of a launch (R226); a TARGET beyond 7 is no member (log entry 35, DEDUCED). -/
def checkLaunch (d : Dev) (w : List W32) : Nat :=
  let op := opcodeOf w
  if op < 0xA0 ∨ op > 0xA2 then 8
  else
    let coll := op == 0xA2
    let tgt := dfield w 0 8 4
    let unused := if coll then [(1, 0, 23), (6, 0, 32), (7, 0, 32), (8, 0, 32)]
      else [(2, 0, 32), (3, 0, 32), (4, 0, 32), (5, 0, 32), (6, 0, 32), (7, 0, 32), (8, 0, 32)]
    let addrBad :=
      if coll then
        (match getAlloc d (wordAt w 2) with
         | some a => decide (tierOf a ≠ 1) || decide (dword w 3 + 64 > a.size) || decide (wordAt w 5 ≥ a.size)
         | none => false)
        || dword w 3 % 64 != 0 || wordAt w 5 % 64 != 0
      else decide (tgt < 8) && (dfield w 1 0 23 % 64 != 0 || badSpan d (tileOfNat (128 + tgt)) (dfield w 1 0 23) 1 0 8)
    let c := firstCode [(1, anySet w launchReserved || anySet w unused), (4, addrBad), (5, badSem w),
      (6, !coll && decide (tgt ≥ 8))]
    if c ≠ 0 then c else if coll && (getAlloc d (wordAt w 2)).isNone then 0x40 else 0

/-- The check of a descriptor at a unit (R222, Table 10-7). -/
def checkDesc (d : Dev) (t : TileId) (u : Nat) (w : List W32) : Nat :=
  let op := opcodeOf w
  if u = 0 then (if op = 0x10 && !isCurv t then checkMatrix d t w else 8)
  else if u = 1 then
    (if op = 0x80 then checkUpdate d t w else if 0x20 ≤ op ∧ op ≤ 0x61 then checkVector d t w else 8)
  else if u = 2 then (if 0x90 ≤ op ∧ op ≤ 0x94 then checkMemory d (some t) w else 8)
  else if u = 3 then (if op = 0x72 && isCurv t then checkPrecond d t w else 8)
  else if u = 4 then checkLaunch d w
  else 8

end Sys2Proof.Machine
end

