-- ==== Sys2Proof/Machine/Wire.lean ====
section
/-!
DEFINITION. What the link engines put on the wire and how they read it: packets (Tables 11-7 and 11-8), flits and
credits (R247-R249), routes (R257, R283), retention and acknowledgement (R254), signals between devices (R267) and pair
control (R303), and the mirror packets that P15 carries (R302).
-/
namespace Sys2Proof.Machine

/-! ### Ports -/

/-- Up, or up on L8 (0x6013). -/
def portUp (d : Dev) (p : Nat) : Bool := (getPort d p).state == 2 || (getPort d p).state == 3
def ownAddr (d : Dev) : Nat := dget d 0x6001 1
def partnerAddr (d : Dev) : Nat := ownAddr d / 2 * 2 + (1 - ownAddr d % 2)
/-- The mode in force: that of the last training, or the entry's before any (R243). -/
def portMode (d : Dev) (p : Nat) : Nat := (getPort d p).mode.getD (dget d 0x6010 (p + 1))
/-- Flits that an FEC codeword carries (Table 11-2). -/
def flitsPerCodeword (d : Dev) (p : Nat) : Nat := if portMode d p = 0 then 1 else 2
/-- Symbols that the FEC of a mode corrects in a codeword at most (Table 11-2). -/
def fecCap (d : Dev) (p : Nat) : Nat := if portMode d p = 0 then 7 else 15
/-- Selective replay (R248), which revision 5 does not have (Table 12-6). -/
def selective (d : Dev) (p : Nat) : Bool := portMode d p == 2 && decide ((getPort d p).negRev ≥ 6)
/-- Half of a LONG port's buffer in flits (R251). -/
def longFlits (d : Dev) (p : Nat) : Nat := pcfg d 0x6012 (p + 1) * 2 ^ 20 / 2 / 320
/-- Table 11-5: the receive buffer of a channel in flits. -/
def vcBuffer (d : Dev) (p vc : Nat) : Nat :=
  if vc = 0 then (if portMode d p = 2 then longFlits d p else 320)
  else if vc = 1 then 32
  else if vc = 2 ∧ p = 15 then 320 else 0
/-- Flits that the replay buffer holds: 256 KiB on Die L, or half the long buffer (R249, R251). -/
def replayRoom (d : Dev) (p : Nat) : Nat := if portMode d p = 2 then longFlits d p else 262144 / 320

/-! ### Packets (R252, R253) -/

def pktHeader (p : Packet) (hops : Nat) : List Byte :=
  natLe 1 p.type ++ natLe 1 p.flags ++ natLe 2 p.payload.length ++ natLe 4 p.dst ++ natLe 4 p.src ++ natLe 2 p.srcIndex
    ++ natLe 2 p.dstIndex ++ natLe 4 p.collId ++ natLe 4 p.epoch ++ natLe 4 p.seq ++ natLe 1 hops ++ natLe 3 p.dhash

/-- The trailer: CRC-32C over the header, HOPS taken as zero, and the payload. -/
def pktCrc (p : Packet) : List Byte := natLe 4 (crc32c (pktHeader p 0 ++ p.payload)).toNat
def encPacket (p : Packet) : List Byte := pktHeader p p.hops ++ p.payload ++ pktCrc p

def decPacket (b : List Byte) : Packet :=
  { type := recf b 0 1, flags := recf b 1 1, dst := recf b 4 4, src := recf b 8 4, srcIndex := recf b 12 2
    dstIndex := recf b 14 2, collId := recf b 16 4, epoch := recf b 20 4, seq := recf b 24 4, hops := recf b 28 1
    dhash := recf b 29 3, payload := (b.drop 32).take (recf b 2 2) }

/-- The channel that Table 11-8 gives a packet type. -/
def typeVc (t : Nat) : Option Nat :=
  if t = 1 then some 0 else if 2 ≤ t ∧ t ≤ 6 then some 1 else if t = 7 then some 2 else none

def lastFlag : Nat := 1
def reroutedFlag : Nat := 4
def withFlag (p : Packet) (f : Nat) : Packet := { p with flags := p.flags ||| f }

/-! ### Flits (R247) -/

def seqMod : Nat := 2 ^ 24

/-- A flit with its CRC: FSEQ, type, channel, the last FSEQ received in order, credit returned with its channel, and
the DATA area. -/
def flitBytes (fseq type vc ack cred cvc : Nat) (data : List Byte) : List Byte :=
  let b := natLe 3 fseq ++ natLe 1 (type + 16 * vc) ++ natLe 3 ack ++ zbytes 1 ++ natLe 2 (cred + 16384 * cvc) ++ zbytes 2
    ++ padTo 304 data
  b ++ natLe 4 (crc32c b).toNat

/-- The credit a flit may return: the lowest channel that owes any (log entry 21, DESIGN CHOICE). -/
def creditOwed (k : PortSt) : Nat × Nat :=
  match k.owed with
  | [] => (0, 0)
  | (v, n) :: _ => (min n 16383, v)

def ackSeq (k : PortSt) : Nat := (k.rxSeq + seqMod - 1) % seqMod

/-- Sends a flit that is not sequenced (IDLE, REPLAY_REQ). -/
def sendPlain (d : Dev) (p type : Nat) (data : List Byte) : Dev :=
  modPort d p fun k =>
    let c := creditOwed k
    { k with tx := k.tx ++ [flitBytes k.txSeq type 0 (ackSeq k) c.1 c.2 data], owed := fmod 0 k.owed c.2 (· - c.1) }

/-- Sends a DATA flit of a channel: it takes a credit and stays in the replay buffer until acknowledged. -/
def sendData (d : Dev) (p vc : Nat) (data : List Byte) : Dev :=
  portCtr (modPort d p fun k =>
    let c := creditOwed k
    let b := flitBytes k.txSeq 1 vc (ackSeq k) c.1 c.2 data
    { k with
      tx := k.tx ++ [b], owed := fmod 0 k.owed c.2 (· - c.1), credit := fmod 0 k.credit vc (· - 1)
      replay := k.replay ++ [(k.txSeq, 0, b)], txSeq := (k.txSeq + 1) % seqMod }) p 0 1

/-- The flit to send next: VC1 first, else VC0 or VC2, each only with a credit (R249). -/
def nextTx (k : PortSt) : Option TxFlit :=
  match k.txq.find? (fun e => e.vc == 1) with
  | some e => if fget 0 k.credit 1 > 0 then some e else k.txq.find? (fun e => e.vc != 1 && decide (fget 0 k.credit e.vc > 0))
  | none => k.txq.find? (fun e => decide (fget 0 k.credit e.vc > 0))

/-- Sends what credits and the replay buffer allow. -/
def pump : Nat → Dev → Nat → Dev
  | 0, d, _ => d
  | n + 1, d, p =>
    if !portUp d p || decide ((getPort d p).replay.length ≥ replayRoom d p) then d
    else match nextTx (getPort d p) with
      | none => d
      | some e =>
        pump n (sendData (modPort d p fun k => { k with txq := dropFirst (fun x => x.vc == e.vc) k.txq }) p e.vc e.data) p

def pumpPort (d : Dev) (p : Nat) : Dev := pump (getPort d p).txq.length d p

/-- The flits of a packet: their DATA areas, the last one padded with zeros. -/
def packetFlits (vc : Nat) (resend : Bool) (k : Packet) : List TxFlit :=
  let b := encPacket k
  (chunksOf 304 b.length b).zipIdx.map fun a => ⟨vc, a.2, resend, padTo 304 a.1⟩

/-- Puts the flits of a packet sent again behind the rest of a packet under way and earlier such packets of its channel, ahead
of the new ones (R285). -/
def txAhead (fs : List TxFlit) (vc : Nat) : List TxFlit → List TxFlit
  | [] => fs
  | e :: es => if e.vc != vc || e.resend || decide (e.idx > 0) then e :: txAhead fs vc es else fs ++ e :: es

/-- Puts a packet on a port's stream; one that is sent again goes ahead of new ones. -/
def wireSend (d : Dev) (p vc : Nat) (resend : Bool) (k : Packet) : Dev :=
  let d := portCtr d p 2 (cdiv k.payload.length 64)
  pumpPort (modPort d p fun s => { s with
    txq := if resend then txAhead (packetFlits vc true k) vc s.txq else s.txq ++ packetFlits vc false k }) p

def wirePush (d : Dev) (p vc : Nat) (k : Packet) : Dev := wireSend d p vc false k

/-! ### Routes (R242, R257, R283) -/

def sameBoard (a b : Nat) : Bool := a / 256 == b / 256
/-- The mesh port toward board position `q` from position `p` (R242). -/
def meshPort (p q : Nat) : Option Nat :=
  match (q % 8 + 8 - p % 8) % 8 with
  | 0 => none
  | k + 1 => some k

def planeOk (d : Dev) (dst p : Nat) : Bool :=
  portUp d p && !(getPort d p).planeFull && !decide (dst ∈ (getPort d p).unreach)
def planesTo (d : Dev) (dst : Nat) : List Nat := ((List.range 8).map (· + 7)).filter (planeOk d dst)
def meshTo (d : Dev) (dst : Nat) : List Nat :=
  match meshPort (ownAddr d) dst with
  | some k => if portUp d k then [k] else []
  | none => []

/-- The primary route set of R283. -/
def primaryRoute (d : Dev) (dst : Nat) : List Nat := if sameBoard (ownAddr d) dst then meshTo d dst else planesTo d dst

/-- The relay: the board peer with the lowest POS whose mesh link is up at revision 7 and whose PORTMAP shows a route on, off the
ports in `avoid` (R283, R285). (Log entry 53, DESIGN CHOICE.) -/
def relayTo (d : Dev) (dst : Nat) (avoid : List Nat) : List Nat :=
  let onward := fun (q k : Nat) =>
    let m := (getPort d k).upMask
    if sameBoard (ownAddr d) dst then (match meshPort q dst with | some j => bitAt m j | none => false)
    else bitf m 7 8 != 0
  match firstSome (fun q =>
      match meshPort (ownAddr d) q with
      | some k => if portUp d k && !decide (k ∈ avoid) && (getPort d k).negRev == 7 && onward q k && !(sameBoard (ownAddr d) dst && q == dst % 256) then some k else none
      | none => none) (List.range 8) with
  | some k => [k]
  | none => []

/-- The route set in use off the ports in `avoid`, and whether it is a fallback (R283). -/
def routeSet (d : Dev) (dst : Nat) (avoid : List Nat) : List Nat × Bool :=
  let off := fun (l : List Nat) => l.filter fun p => !decide (p ∈ avoid)
  if !(off (primaryRoute d dst)).isEmpty then (off (primaryRoute d dst), false)
  else if sameBoard (ownAddr d) dst && !(off (planesTo d dst)).isEmpty then (off (planesTo d dst), true)
  else (relayTo d dst avoid, true)

def hasRoute (d : Dev) (dst : Nat) : Bool := dst == ownAddr d || !(routeSet d dst []).1.isEmpty

/-- The port for chunk `seq`, in turn over the set (R257); flows under way keep off the ports in `avoid` (R285) while another
route is left. -/
def pickRoute (d : Dev) (dst seq : Nat) (avoid : List Nat) : Option (Nat × Bool) :=
  let r := if (routeSet d dst avoid).1.isEmpty then routeSet d dst [] else routeSet d dst avoid
  match r.1[seq % r.1.length]? with
  | some p => some (p, r.2)
  | none => none

/-! ### Retention (R254) -/

/-- Bytes that a packet takes in a retention area (log entry 50, DESIGN CHOICE). -/
def pktBytes (k : Packet) : Nat := 36 + k.payload.length
def retentionUsed (d : Dev) (p : Nat) : Nat :=
  (d.fab.retained.filter fun r => r.port == p).foldl (fun n r => n + pktBytes r.pkt) 0
def retentionCap (d : Dev) (p : Nat) : Nat := pcfg d 0x6011 (p + 1) * 2 ^ 20
/-- Packets of one flow: the same collective issue, type and destination. -/
def sameFlow (a b : Packet) : Bool :=
  a.type == b.type && a.dst == b.dst && a.collId == b.collId && a.epoch == b.epoch
/-- Chunks of a flow that have been sent and are not acknowledged. -/
def outstanding (d : Dev) (k : Packet) : Nat :=
  (d.fab.retained.filter fun r => (decide (r.port < 16) || r.again) && sameFlow r.pkt k).length

/-- Ports that the flow of a packet keeps off (R285): a flow of DATA, or the SIGNAL flow to an address. -/
def avoidOf (d : Dev) (k : Packet) : List Nat :=
  if k.type = 6 then (d.fab.sigAvoid.filter fun a => a.2 == k.dst).map (·.1)
  else match d.fab.colls.find? (fun c => wordAt c.words 1 == k.collId && wordAt c.words 2 == k.epoch) with
  | some c => if k.type = 1 then (c.avoid.filter fun a => a.2 == k.dst).map (·.1) else []
  | none => []

/-- Sends retained chunk `i` when it still waits and has a route; a new chunk needs space in the port's retention area and room in
its flow's window of 65,536 too. One that a full area holds back is noted for 0x6019. A chunk sent again by a new route goes ahead
of new ones, and counts in 0x6028 of the port by which it had left (R285, R289). -/
def launchChunk (d : Dev) (i : Nat) : Dev :=
  match d.fab.retained[i]? with
  | none => d
  | some r =>
    if r.port < 16 then d
    else match pickRoute d r.pkt.dst r.pkt.seq (avoidOf d r.pkt) with
      | none => d
      | some (p, fb) =>
        if !r.again ∧ retentionUsed d p + pktBytes r.pkt > retentionCap d p then modPort d p fun k => { k with stalled := true }
        else if !r.again ∧ outstanding d r.pkt ≥ 65536 then d
        else
          let d := if r.again then dbump d 0x6028 (r.port - 31) 1 32 else d
          let k := if fb then withFlag r.pkt reroutedFlag else r.pkt
          wireSend (modFab d fun b => { b with retained := b.retained.set i { r with pkt := k, port := p, again := false } }) p
            ((typeVc k.type).getD 0) r.again k

/-- Sends what can go: chunks sent again by a new route first (R285). -/
def launchWaiting (d : Dev) : Dev :=
  let again := fun (i : Nat) => match d.fab.retained[i]? with | some r => r.again | none => false
  let all := List.range d.fab.retained.length
  (all.filter again ++ all.filter fun i => !again i).foldl launchChunk d

/-- A full retention area holds back a chunk of a port now. -/
def stillFull (d : Dev) (p : Nat) : Bool :=
  d.fab.retained.any fun r => decide (r.port ≥ 16) && !r.again && decide (retentionUsed d p + pktBytes r.pkt > retentionCap d p)
    && (match pickRoute d r.pkt.dst r.pkt.seq (avoidOf d r.pkt) with | some (q, _) => q == p | none => false)

/-- Brings 0x6019 of a port up to now: the cycles that a full area has held its chunks back are a free number (R254; log entry 56,
DESIGN CHOICE). -/
def tallyStall (d : Dev) (p : Nat) : Dev :=
  if !(getPort d p).stalled then d
  else
    let n := Config.counted d.count.draws
    let d := dbump (modCount d fun c => { c with draws := c.draws + 1 }) 0x6019 (p + 1) n 64
    modPort d p fun k => { k with stalled := stillFull d p }

/-- Retains chunks for another device and sends what can go. -/
def sendChunks (d : Dev) (ks : List Packet) : Dev :=
  launchWaiting (modFab d fun b => { b with retained := b.retained ++ ks.map fun k => ⟨k, 16, 0, false⟩ })

/-- Sends a packet that is not retained (ACK, ARRIVE, RELEASE); without a route it is lost. (Log entry 51, DESIGN CHOICE.) -/
def sendLoose (d : Dev) (k : Packet) : Dev :=
  if k.dst = ownAddr d then d
  else match pickRoute d k.dst k.seq [] with
    | some (p, fb) => wirePush d p ((typeVc k.type).getD 1) (if fb then withFlag k reroutedFlag else k)
    | none => d

/-! ### Flows in -/

def flowHas (f : FlowIn) (k : Nat) : Bool := decide (k < f.cum) || decide (k ∈ f.above)

def insSorted (k : Nat) : List Nat → List Nat
  | [] => [k]
  | a :: as => if k < a then k :: a :: as else if k = a then a :: as else a :: insSorted k as

/-- Moves CUM past the chunks received next. -/
def advCum : Nat → List Nat → Nat × List Nat
  | c, [] => (c, [])
  | c, a :: as => if a = c then advCum (c + 1) as else (c, a :: as)

def flowAdd (f : FlowIn) (k : Nat) (last : Bool) : FlowIn :=
  let r := advCum f.cum (insSorted k f.above)
  { f with cum := r.1, above := r.2, unacked := f.unacked + 1, last := if last then some k else f.last }

/-- Every chunk up to LAST is here. -/
def flowWhole (f : FlowIn) : Bool := match f.last with | some l => decide (f.cum > l) | none => false

/-- The ranges of an ACK: at most 15 pairs of first and last. -/
def ackRanges : List Nat → List (Nat × Nat)
  | [] => []
  | a :: as => match ackRanges as with
    | (x, y) :: r => if a + 1 = x then (a, y) :: r else (a, a) :: (x, y) :: r
    | [] => [(a, a)]

def ackPayload (f : FlowIn) : List Byte :=
  let r := (ackRanges f.above).take 15
  natLe 4 f.cum ++ natLe 4 r.length ++ r.flatMap fun x => natLe 4 x.1 ++ natLe 4 x.2

/-- The ACK of a flow; CHUNK_SEQ is 1 for the flow of ABORT packets, else 0 (log entry 22, DESIGN CHOICE). -/
def ackPacket (d : Dev) (dst0 srcIx dstIx coll epoch seq dhash : Nat) (pay : List Byte) : Packet :=
  { type := 2, flags := 0, dst := dst0, src := ownAddr d, srcIndex := srcIx, dstIndex := dstIx, collId := coll, epoch := epoch
    seq := seq, hops := 0, dhash := dhash, payload := pay }

/-- Whether an ACK covers chunk `k`. -/
def ackCovers (pay : List Byte) (k : Nat) : Bool :=
  decide (k < recf pay 0 4)
    || (List.range (min 15 (recf pay 4 4))).any fun i => decide (recf pay (8 + 8 * i) 4 ≤ k) && decide (k ≤ recf pay (12 + 8 * i) 4)

/-! ### Signals between devices (R220, R254, R267, R303) -/

def sendSignalPkt (d : Dev) (dst : Nat) (pay : List Byte) : Dev :=
  let n := fget 0 d.fab.sigSeq dst
  let d := modFab d fun b => { b with sigSeq := fput 0 b.sigSeq dst (n + 1) }
  sendChunks d [{ type := 6, flags := 0, dst := dst, src := ownAddr d, srcIndex := 0, dstIndex := 0, collId := 0, epoch := 0
                  seq := n, hops := 0, dhash := 0, payload := pay }]

/-- The tile that a remote tile code names: bit 7 clear counts from Die A (log entry 23, DEDUCED). -/
def remoteTile (code : Nat) : Option TileId :=
  if code % 128 = 0x7F then none else tileOfCode (tileOfNat 0) (code % 128) (decide (code ≥ 128))

/-- SSIGR: none is a TARGET fault (no rank table, no such rank, no such tile). -/
def remoteSignal (d : Dev) (rank code sem n : Nat) : Option Dev :=
  match d.fab.ranks with
  | none => none
  | some tab =>
    match tab[rank]?, remoteTile code with
    | some (a, true), some t =>
      if a = ownAddr d then (semOfNat sem).map fun s => makeSig d ⟨t, s, n, .program, none, none⟩
      else some (sendSignalPkt d a (natLe 1 code ++ natLe 1 sem ++ natLe 2 n))
    | _, _ => none

/-- A pair-control packet to the partner by ordinary routes (R303). -/
def sendPairControl (d : Dev) (n named : Nat) : Dev :=
  if hasRoute d (partnerAddr d) then sendSignalPkt d (partnerAddr d) (natLe 1 named ++ natLe 1 63 ++ natLe 2 n) else d

/-! ### Mirror packets (R302) -/

/-- Table 13-3: subheader and data as the payload of a packet on P15. -/
def mirrorPacket (d : Dev) (m : MirrorPkt) : Packet :=
  let b := natLe 1 m.sub ++ natLe 1 m.plane ++ zbytes 2 ++ natLe 4 m.reason ++ natLe 8 m.value ++ m.data
  { type := 7, flags := 0, dst := partnerAddr d, src := ownAddr d, srcIndex := 0, dstIndex := 0, collId := m.alloc
    epoch := m.epoch, seq := m.seq, hops := 0, dhash := 0, payload := padTo (roundUp b.length 4) b }

def mirrorOfPacket (k : Packet) : MirrorPkt :=
  let b := k.payload
  { sub := recf b 0 1, plane := recf b 1 1, reason := recf b 4 4, value := recf b 8 8, alloc := k.collId, epoch := k.epoch
    seq := k.seq, data := b.drop 16 }

/-- Hands the mirror packets made so far to P15; Die L counts the units of data that it sends (Table 17-3). -/
def flushMirror (d : Dev) : Dev :=
  if portUp d 15 then
    d.safety.mirrorTx.foldl (fun d m => dieLCtr (wirePush d 15 2 (mirrorPacket d m)) 7 (cdiv m.data.length 64)) (modSafety d fun s => { s with mirrorTx := [] })
  else d

end Sys2Proof.Machine
end

