-- ==== Sys2Proof/Machine/Dict.lean ====
section
/-!
DEFINITION. The entries of the object dictionary (Tables 8-4, 9-9, 11-6, 12-10, 13-9, 14-5, 15-9, 15-10, 16-4, 17-9, 18-8),
their persistent image and its copies in NOR (R349, R350, R354-R356).
-/
namespace Sys2Proof.Machine

/-- An entry: type code of Table 15-3, access code of Table 15-4, role to write, size or greatest size in bytes. -/
structure Entry where
  ty : Nat
  acc : Nat
  role : Nat
  len : Nat
  deriving DecidableEq, Repr

/-- Rows of the table: index, first and last subindex, entry. -/
abbrev EntryRow := Nat × Nat × Nat × Entry

/-- Entries of identity and status (Table 15-9). -/
def entriesIdentity : List EntryRow :=
  [(0x1000, 1, 3, ⟨8, 0, 0, 64⟩), (0x1000, 4, 4, ⟨5, 0, 0, 8⟩), (0x1000, 5, 5, ⟨2, 0, 0, 1⟩), (0x1000, 6, 6, ⟨3, 0, 0, 2⟩)]
  ++ [(0x1000, 7, 7, ⟨2, 0, 0, 1⟩), (0x1000, 8, 8, ⟨4, 0, 0, 4⟩), (0x1000, 9, 9, ⟨5, 0, 0, 8⟩), (0x1000, 10, 10, ⟨2, 0, 0, 1⟩)]
  ++ [(0x1000, 11, 11, ⟨3, 0, 0, 2⟩), (0x1000, 12, 12, ⟨2, 0, 0, 1⟩), (0x1002, 1, 3, ⟨2, 0, 0, 1⟩), (0x1002, 4, 4, ⟨1, 1, 2, 1⟩)]
  ++ [(0x1002, 5, 5, ⟨4, 0, 0, 4⟩), (0x1002, 6, 6, ⟨4, 4, 0, 4⟩), (0x1002, 7, 8, ⟨4, 0, 0, 4⟩)]

/-- Entries of host interface and management status (Tables 14-5, 15-10). -/
def entriesVolatile : List EntryRow :=
  [(0x2100, 1, 2, ⟨2, 0, 0, 1⟩), (0x2100, 3, 3, ⟨3, 0, 0, 2⟩), (0x2100, 4, 5, ⟨4, 4, 0, 4⟩), (0x2100, 6, 7, ⟨3, 1, 1, 2⟩)]
  ++ [(0x2101, 1, 64, ⟨5, 1, 1, 8⟩), (0x2102, 1, 64, ⟨2, 1, 1, 1⟩), (0x2103, 1, 64, ⟨5, 1, 1, 8⟩), (0x2104, 1, 64, ⟨3, 1, 1, 2⟩)]
  ++ [(0x2105, 1, 64, ⟨1, 1, 1, 1⟩), (0x2106, 1, 64, ⟨2, 0, 0, 1⟩), (0x2110, 1, 16, ⟨5, 1, 1, 8⟩), (0x2111, 1, 16, ⟨5, 1, 1, 8⟩)]
  ++ [(0x2200, 1, 2, ⟨2, 0, 0, 1⟩), (0x2200, 3, 4, ⟨4, 4, 0, 4⟩), (0x2200, 5, 6, ⟨2, 0, 0, 1⟩)]

/-- Entries of management port (Table 15-10). -/
def entriesPersistent : List EntryRow :=
  [(0x3100, 1, 2, ⟨2, 2, 1, 1⟩), (0x3100, 3, 3, ⟨9, 2, 1, 16⟩), (0x3100, 4, 4, ⟨2, 2, 1, 1⟩), (0x3100, 5, 5, ⟨3, 2, 1, 2⟩)]

/-- Entries of counters (Table 17-9). -/
def entriesCounters : List EntryRow :=
  [(0x4000, 1, 1, ⟨2, 0, 0, 1⟩), (0x4000, 2, 2, ⟨5, 0, 0, 8⟩), (0x4000, 3, 4, ⟨4, 4, 0, 4⟩), (0x4001, 1, 1, ⟨2, 3, 1, 1⟩)]
  ++ [(0x4002, 1, 1, ⟨4, 1, 1, 4⟩), (0x4002, 2, 2, ⟨2, 1, 1, 1⟩), (0x4003, 1, 1, ⟨4, 1, 1, 4⟩), (0x4003, 2, 2, ⟨3, 1, 1, 2⟩)]
  ++ [(0x4004, 1, 1, ⟨1, 1, 1, 1⟩), (0x4004, 2, 2, ⟨5, 0, 0, 8⟩), (0x4005, 1, 12, ⟨9, 0, 0, 1024⟩), (0x4010, 1, 8, ⟨2, 1, 1, 1⟩)]
  ++ [(0x4011, 1, 8, ⟨2, 1, 1, 1⟩), (0x4012, 1, 1, ⟨4, 0, 0, 4⟩), (0x4013, 1, 1, ⟨5, 1, 1, 8⟩)]

/-- Entries of Event Recorder (Table 17-9). -/
def entriesRecorder : List EntryRow :=
  [(0x5000, 1, 1, ⟨3, 0, 0, 2⟩), (0x5000, 2, 3, ⟨4, 0, 0, 4⟩), (0x5000, 4, 5, ⟨4, 4, 0, 4⟩), (0x5000, 6, 6, ⟨4, 0, 0, 4⟩)]
  ++ [(0x5001, 1, 1, ⟨4, 1, 0, 4⟩), (0x5001, 2, 2, ⟨9, 0, 0, 1024⟩), (0x5002, 1, 1, ⟨1, 3, 2, 1⟩)]

/-- Entries of links and topology (Tables 11-6, 12-10). -/
def entriesLinks : List EntryRow :=
  [(0x6001, 1, 1, ⟨4, 2, 1, 4⟩), (0x6002, 1, 2, ⟨3, 0, 0, 2⟩), (0x6010, 1, 16, ⟨2, 2, 1, 1⟩), (0x6011, 1, 16, ⟨3, 2, 1, 2⟩)]
  ++ [(0x6012, 1, 16, ⟨3, 2, 1, 2⟩), (0x6013, 1, 16, ⟨2, 0, 0, 1⟩), (0x6014, 1, 16, ⟨4, 4, 0, 4⟩), (0x6015, 1, 16, ⟨5, 4, 0, 8⟩)]
  ++ [(0x6016, 1, 16, ⟨4, 4, 0, 4⟩), (0x6017, 1, 16, ⟨4, 4, 0, 4⟩), (0x6018, 1, 16, ⟨4, 4, 0, 4⟩), (0x6019, 1, 16, ⟨5, 4, 0, 8⟩)]
  ++ [(0x6020, 1, 16, ⟨5, 2, 1, 8⟩), (0x6021, 1, 16, ⟨1, 3, 1, 1⟩), (0x6022, 1, 16, ⟨4, 0, 0, 4⟩), (0x6023, 1, 16, ⟨5, 0, 0, 8⟩)]
  ++ [(0x6024, 1, 16, ⟨5, 0, 0, 8⟩), (0x6025, 1, 16, ⟨2, 0, 0, 1⟩), (0x6026, 1, 16, ⟨3, 0, 0, 2⟩), (0x6027, 1, 16, ⟨4, 4, 0, 4⟩)]
  ++ [(0x6028, 1, 16, ⟨4, 4, 0, 4⟩), (0x6029, 1, 2, ⟨4, 4, 0, 4⟩)]

/-- Entries of safety (Table 13-9). -/
def entriesSafety : List EntryRow :=
  [(0x7001, 1, 1, ⟨2, 0, 0, 1⟩), (0x7001, 2, 2, ⟨5, 0, 0, 8⟩), (0x7001, 3, 3, ⟨5, 4, 0, 8⟩), (0x7001, 4, 4, ⟨2, 0, 0, 1⟩)]
  ++ [(0x7001, 5, 5, ⟨1, 3, 2, 1⟩), (0x7002, 1, 1, ⟨3, 1, 1, 2⟩), (0x7002, 2, 2, ⟨4, 4, 0, 4⟩), (0x7002, 3, 3, ⟨9, 0, 0, 64⟩)]
  ++ [(0x7010, 1, 3, ⟨4, 4, 0, 4⟩), (0x7010, 4, 4, ⟨2, 0, 0, 1⟩), (0x7010, 5, 5, ⟨4, 4, 0, 4⟩), (0x7010, 6, 6, ⟨3, 0, 0, 2⟩)]
  ++ [(0x7011, 1, 1, ⟨3, 3, 1, 2⟩)]

/-- Entries of security (Table 16-4). -/
def entriesSecurity : List EntryRow :=
  [(0x8001, 1, 1, ⟨2, 0, 0, 1⟩), (0x8001, 2, 2, ⟨2, 3, 2, 1⟩), (0x8001, 3, 3, ⟨2, 0, 0, 1⟩), (0x8010, 1, 3, ⟨9, 3, 2, 32⟩)]
  ++ [(0x8010, 4, 4, ⟨9, 3, 3, 32⟩), (0x8011, 1, 1, ⟨2, 0, 0, 1⟩), (0x8020, 1, 1, ⟨9, 3, 0, 32⟩), (0x8020, 2, 2, ⟨2, 0, 0, 1⟩)]
  ++ [(0x8020, 3, 3, ⟨4, 0, 0, 4⟩), (0x8021, 1, 1, ⟨9, 0, 0, 128⟩), (0x8021, 2, 4, ⟨9, 0, 0, 1024⟩), (0x8022, 1, 1, ⟨9, 0, 0, 60⟩)]
  ++ [(0x8022, 2, 4, ⟨9, 0, 0, 1024⟩), (0x8030, 1, 1, ⟨4, 1, 2, 4⟩), (0x8030, 2, 2, ⟨9, 3, 2, 1024⟩), (0x8030, 3, 3, ⟨1, 3, 2, 1⟩)]
  ++ [(0x8030, 4, 6, ⟨2, 0, 0, 1⟩)]

/-- Entries of training (Table 8-4). -/
def entriesTraining : List EntryRow :=
  [(0x9010, 1, 1, ⟨2, 2, 1, 1⟩), (0x9010, 2, 2, ⟨7, 2, 1, 4⟩), (0x9010, 3, 3, ⟨1, 1, 1, 1⟩), (0x9010, 4, 5, ⟨4, 4, 0, 4⟩)]
  ++ [(0x9010, 6, 6, ⟨7, 0, 0, 4⟩), (0x9010, 7, 7, ⟨4, 4, 0, 4⟩), (0x9010, 8, 8, ⟨5, 0, 0, 8⟩)]

/-- Entries of tiers (Table 9-9). -/
def entriesTiers : List EntryRow :=
  [(0xA001, 1, 4, ⟨5, 0, 0, 8⟩), (0xA002, 1, 3, ⟨4, 2, 1, 4⟩), (0xA003, 1, 1, ⟨5, 4, 0, 8⟩), (0xA003, 2, 2, ⟨4, 4, 0, 4⟩)]
  ++ [(0xA003, 3, 3, ⟨4, 0, 0, 4⟩), (0xA003, 4, 5, ⟨4, 4, 0, 4⟩)]

/-- Entries of clocks and power (Table 18-8). -/
def entriesPower : List EntryRow :=
  [(0xB001, 1, 1, ⟨1, 3, 2, 1⟩), (0xB002, 1, 34, ⟨3, 0, 0, 2⟩), (0xB003, 1, 34, ⟨3, 0, 0, 2⟩), (0xB004, 1, 34, ⟨7, 0, 0, 4⟩)]
  ++ [(0xB005, 1, 34, ⟨2, 0, 0, 1⟩), (0xB006, 1, 1, ⟨7, 0, 0, 4⟩), (0xB007, 1, 1, ⟨7, 0, 0, 4⟩), (0xB007, 2, 2, ⟨7, 2, 1, 4⟩)]
  ++ [(0xB008, 1, 1, ⟨4, 4, 0, 4⟩), (0xB009, 1, 1, ⟨4, 0, 0, 4⟩)]

/-- The rows of an index. -/
def entryRows (index : Nat) : List EntryRow :=
  match index / 4096 with
  | 1 => entriesIdentity
  | 2 => entriesVolatile
  | 3 => entriesPersistent
  | 4 => entriesCounters
  | 5 => entriesRecorder
  | 6 => entriesLinks
  | 7 => entriesSafety
  | 8 => entriesSecurity
  | 9 => entriesTraining
  | 10 => entriesTiers
  | 11 => entriesPower
  | _ => []

/-- The entry at an index and subindex; none is NO_ENTRY (R357). The vendor range is not documented (log entry 28, DESIGN CHOICE). -/
def entryAt (index sub : Nat) : Option Entry :=
  ((entryRows index).find? fun r => r.1 == index && decide (r.2.1 ≤ sub) && decide (sub ≤ r.2.2.1)).map fun r => r.2.2.2

/-- An entry of access RWP. -/
def isRwp (index sub : Nat) : Bool := match entryAt index sub with | some e => e.acc == 2 | none => false

/-! ### The persistent image (R354-R356) -/

/-- The copy with the highest generation whose check word matches: whether it is the second, and the copy. -/
def newestCopy (m : MgmtSt) : Option (Bool × NorCopy) :=
  match m.nor0.good, m.nor1.good with
  | true, true => if m.nor0.gen < m.nor1.gen then some (true, m.nor1) else some (false, m.nor0)
  | true, false => some (false, m.nor0)
  | false, true => some (true, m.nor1)
  | false, false => none

/-- Writes the copy that does not hold the newest generation. -/
def writeCopy (d : Dev) (gen : Nat) (vals : FMap Nat) (good : Bool) : Dev :=
  modMgmt d fun m =>
    match newestCopy m with
    | some (false, _) => { m with nor1 := ⟨gen, vals, good⟩ }
    | _ => { m with nor0 := ⟨gen, vals, good⟩ }

/-- Generation of the copy in use (0x1002:05). -/
def imageGen (d : Dev) : Nat := match newestCopy d.mgmt with | some (_, c) => c.gen | none => 0

/-- The persistent items of a frame that its commit has not yet put into NOR, with their old values (R354). -/
def unsettled (d : Dev) : List (Nat × Nat × Nat) := match d.mgmt.commit with | some c => if c.nor then c.items else [] | none => []

/-- The device with those items at their old values. -/
def settledDict (d : Dev) : Dev := (unsettled d).foldl (fun d i => dset d i.1 i.2.1 i.2.2) d

/-- Puts what the device itself keeps into an image's values: 0x7001:04 and 0x7010:04 (Table 13-9). -/
def putKept (d : Dev) (vals : FMap Nat) : FMap Nat :=
  fput 0 (fput 0 vals (ekey 0x7001 4) (if d.safety.fatalCode = 0 then 0 else d.safety.fatalCode + 1)) (ekey 0x7010 4) d.safety.tilesRetired

/-- The values an image holds: the persistent entries, and what the device keeps. -/
def imageVals (d : Dev) : FMap Nat := putKept d ((settledDict d).dict.filter fun e => isRwp (e.1 / 256) (e.1 % 256))

/-- A value that another write commits is the old value of a frame's item that still waits (R354). (Log entry 141, DESIGN CHOICE.) -/
def keepOld (d : Dev) (i s v : Nat) : Dev :=
  modMgmt d fun m => { m with commit := m.commit.map fun c => { c with
    items := c.items.map fun x => if x.1 = i ∧ x.2.1 = s then (i, s, v) else x } }

/-- Commits the present values as the next generation. -/
def commitImage (d : Dev) : Dev := writeCopy d ((imageGen d + 1) % 2 ^ 32) (imageVals d) true

/-- Commits the factory defaults. -/
def commitDefaults (d : Dev) : Dev := writeCopy d ((imageGen d + 1) % 2 ^ 32) [] true

/-- An entry that the device itself keeps: access RO or RC. -/
def isKept (index sub : Nat) : Bool := match entryAt index sub with | some e => e.acc == 0 || e.acc == 4 | none => false

/-- Loads an image: its persistent values take effect, and every RW entry is at its default (R360). -/
def loadImage (d : Dev) (vals : FMap Nat) : Dev :=
  let fatal := fget 0 vals (ekey 0x7001 4) - 1
  let d := { d with dict := (d.dict.filter fun e => isKept (e.1 / 256) (e.1 % 256)) }
  let d := vals.foldl (fun d e => if isRwp (e.1 / 256) (e.1 % 256) then { d with dict := fput 0 d.dict e.1 e.2 } else d) d
  modSafety d fun s => { s with fatalCode := fatal, tilesRetired := fget 0 vals (ekey 0x7010 4) }

/-- FW_VERSION of the running image (0x1000:08). -/
def fwVersion (d : Dev) : Nat := recf d.sec.runHeader 8 4

/-- The buffer entries that this start-up takes (R193). -/
def takeBuffers (d : Dev) : Dev :=
  modFab d fun b => { b with portCfg := d.dict.filter fun e => e.1 / 256 == 0x6011 || e.1 / 256 == 0x6012 }

/-- The image, or the factory defaults (R356), takes effect; WDP is served and recording begins (R341, R395). -/
def startServing (d : Dev) (ok : Bool) : Dev :=
  let d := match (if ok then newestCopy d.mgmt else none) with
    | some (_, c) => loadImage d c.vals
    | none =>
      let d := dset (loadImage d []) 0x1002 4 1
      let d := modMgmt d fun m => { m with nor0 := ⟨1, [], true⟩, nor1 := { m.nor1 with good := false } }
      post d 0x0006 2 srcNor []
  let d := modCount (takeBuffers d) fun c => { c with selPending := [] }
  let d := modMgmt d fun m => { m with
    serving := true
    nodeActive := if dget d 0x3100 1 = 0xFF then 1 + Config.boardPos.val else dget d 0x3100 1
    nodeCount := dget d 0x3100 2 }
  let cause := d.power.resetCause
  modLog d fun l => { l with
    recording := true
    inbox := (if cause = 0 then ⟨0x0001, 0, srcDevice, padTo 32 (natLe 4 0 ++ natLe 4 (fwVersion d) ++ natLe 4 (imageGen d))⟩
      else ⟨0x0002, 0, srcDevice, padTo 32 (natLe 1 cause)⟩) :: l.inbox }

end Sys2Proof.Machine
end

