-- ==== Sys2Proof/Machine/Fatal.lean ====
section
/-!
DEFINITION. Fail-stop (R304) and the checkers whose second flag raises it (R296).
-/
namespace Sys2Proof.Machine

/-- A mirror packet for P15 (R302); it waits while P15 is down. -/
def sendMirror (d : Dev) (m : MirrorPkt) : Dev :=
  flushMirror (modSafety d fun s => { s with mirrorTx := s.mirrorTx ++ [m] })

/-- A fatal fault (R304): the device stops and stays FENCED until reset; FAILSTOP goes out on P15 and a fence naming the
device by ordinary routes; the event is recorded; FAULT_N goes low with 0x1002:01 at 2. (Log entry 70, DESIGN CHOICE.) A device
that stops before its image is loaded loads it now and serves WDP frames (R417; log entry 139, DESIGN CHOICE). -/
def failStop (d : Dev) (code : Nat) : Dev :=
  if d.power.devState = 2 then d
  else
    let d := if d.mgmt.serving then d else startServing d true
    let d := sendMirror d ⟨6, 0, code, 0, 0, 0, 0, []⟩
    let d := sendPairControl d 0xFFFF 0
    let d := modSafety d fun s => { s with pairState := 3, fatalCode := code }
    let d := post d 0x0051 3 srcDevice (natLe 1 code)
    modPower d fun w => { w with devState := 2 }

/-- A checksum flag on the tile that serves `t` (R296): a second one on the same physical tile within 10 s of powered
time is a fatal fault. -/
def checksumFlag (d : Dev) (t : TileId) : Dev :=
  let key := dieOf t * 128 + physOf d t
  let times := (fget [] d.safety.flagTimes key).filter fun m => decide (nowMs d < m + 10000)
  let d := checkerFlag d t
  if times.isEmpty then modSafety d fun s => { s with flagTimes := fput [] s.flagTimes key [nowMs d] }
  else failStop d 7

end Sys2Proof.Machine
end

