-- ==== Sys2Proof/Machine/Mirror.lean ====
section
/-!
DEFINITION. What an owner sends to its partner: commits (R300-R302) and closed regions (R187). P15 carries them as
mirror packets in order.
-/
namespace Sys2Proof.Machine

/-- 0x7001:01 as held: 0 UNJOINED, 1 JOINED, 2 SURVIVOR, 3 FENCED (R299). -/
def joined (d : Dev) : Bool := d.safety.pairState == 1

/-- Splits `[lo, hi)` of an allocation into DATA-sized pieces of at most 4,080 bytes. -/
def pieces (lo hi : Nat) : List (Nat × Nat) :=
  (List.range (cdiv (hi - lo) 4080)).map fun i => (lo + i * 4080, min 4080 (hi - lo - i * 4080))

/-- Planes of an allocation in the order they are sent: number of Table 13-3, first byte and end. -/
abbrev Planes := List (Nat × Nat × Nat)

def masterPlanes (n : Nat) : Planes := [(0, 0, 2 * n), (1, roundUp (2 * n) 64, roundUp (2 * n) 64 + 2 * n)]
/-- The moments of `n` elements in an allocation of `size` bytes: m, and v where it holds both (R301). -/
def momentPlanes (n size : Nat) : Planes :=
  (2, 0, 4 * n) :: if roundUp (4 * n) 64 + 4 * n ≤ size then [(3, roundUp (4 * n) 64, roundUp (4 * n) 64 + 4 * n)] else []

/-- The pieces of a plane inside 64 KiB unit `u`. -/
def unitPieces (u : Nat) (p : Nat × Nat × Nat) : List (Nat × Nat × Nat) :=
  (pieces (max p.2.1 (u * 65536)) (min p.2.2 (u * 65536 + 65536))).map fun x => (p.1, x.1, x.2)

/-- Notes that bytes of a MIRROR allocation were written, by 64 KiB unit (R301). -/
def noteUnits (d : Dev) (id off n : Nat) : Dev :=
  match getAlloc d id with
  | some a =>
    if hasMirror a && !a.mirrorCopy && decide (n > 0) then
      let us := (List.range ((off + n - 1) / 65536 + 1 - off / 65536)).map (· + off / 65536)
      modSafety d fun s => { s with written := fmod [] s.written (id * 2 + 1) fun l => us.foldl (fun l u => if u ∈ l then l else l ++ [u]) l }
    else d
  | none => d

/-- Commits of an allocation are mirrored: the pair is JOINED, or is joining and the partner has acknowledged its full copy (R299, R301; log
entry 123, DESIGN CHOICE). -/
def mirroring (d : Dev) (id : Nat) : Bool := joined d || (d.safety.joinWait && !decide (id ∈ d.safety.joinAcks))

/-- Sends mirror packets numbered from `n`. -/
def sendPieces (d : Dev) (id ctr : Nat) : Nat → List (Nat × Nat × Nat) → Dev
  | _, [] => d
  | n, p :: ps => sendPieces (sendMirror (countRead d id p.2.1 p.2.2) ⟨1, p.1, 0, p.2.1, id, ctr % 2 ^ 32, n, allocRead d id p.2.1 p.2.2⟩) id ctr (n + 1) ps

/-- The mirroring of a commit (R301): COMMIT_BEGIN, the units of the last two commits, every plane in them whatever rule wrote it (the
allocation in full when UNMIRRORED stands, which it clears, and once more for the other slot; R300), COMMIT_END. A torn allocation and one
with a poisoned line send nothing (R189, R210); the second is noted. Units that were not of this commit alone are sent again with the next,
whose slot lacks them. -/
def sendCommit (d : Dev) (id : Nat) (pl : Planes) : Dev :=
  match getAlloc d id with
  | none => d
  | some a =>
    if !hasMirror a || a.mirrorCopy then d
    else
      let w0 := fget [] d.safety.written (id * 2)
      let w1 := fget [] d.safety.written (id * 2 + 1)
      let both := w1.foldl (fun l u => if u ∈ l then l else l ++ [u]) w0
      if mirroring d id && !a.torn && !degraded d id a then
        let full := a.unmirrored || a.fullBefore
        let us := if full then List.range (cdiv a.size 65536) else both
        let pl : Planes := if full then [(4, 0, a.size)] else pl
        let ps := (List.range (cdiv a.size 65536)).flatMap fun u => if u ∈ us then pl.flatMap (unitPieces u) else []
        let d := sendMirror d ⟨2, 0, 0, a.counter, id, a.counter % 2 ^ 32, 0, []⟩
        let d := sendPieces d id a.counter 1 ps
        let d := sendMirror d ⟨3, 0, 0, 0, id, a.counter % 2 ^ 32, ps.length + 1, []⟩
        let d := modAlloc d id fun a => { a with unmirrored := false, unsent := false, fullBefore := a.unmirrored }
        let kept := if a.unmirrored || a.unsent then us else w1
        modSafety d fun s => { s with written := fput [] (fput [] s.written (id * 2) kept) (id * 2 + 1) [] }
      else
        let d := if mirroring d id && !a.torn then modAlloc d id fun a => { a with unsent := true } else d
        modSafety d fun s => { s with written := fput [] (fput [] s.written (id * 2) both) (id * 2 + 1) [] }

/-! ### Repairs (R210) -/

/-- The request for a repair by the other device: EPOCH names the version that the line must have. -/
def requestRepair (d : Dev) (id off : Nat) : Dev :=
  match getAlloc d id with
  | some a =>
    if (hasMirror a || a.mirrorCopy) && decide (a.counter = a.mirrorAck) && !a.unmirrored && !a.unsent && joined d then
      sendMirror d ⟨8, 4, 0, off, id, a.counter % 2 ^ 32, 0, []⟩
    else d
  | none => d

/-- An uncorrectable error in a unit of an allocation (R209), and the request for its repair. -/
def poisonAlloc (d : Dev) (id off : Nat) : Dev :=
  let d := poisonUnit d id off
  match getAlloc d id with
  | some a => if tierOf a = 0 then d else requestRepair d id (if tierOf a = 3 then off / 4096 * 4096 else off / 64 * 64)
  | none => d

/-- Bytes of a region's message before the gradient: descriptor, hyperparameters, norm record. -/
def regionHead : Nat := 168

/-- The version that an update of a DELAY master makes, behind the updates of it that are queued (R184, R187): those of this
device, or the partner's. -/
def regionVer (d : Dev) (own : Bool) (w : List W32) : Nat :=
  (match getAlloc d (wordAt w 1) with | some a => a.counter | none => 0) + b2n (bitAt (wordAt w 0) 17)
    + (d.mem.slow.filter fun e => e.from_.isSome == own && wordAt e.words 1 == wordAt w 1 && bitAt (wordAt e.words 0) 17).length

/-- A closed region with its descriptor, hyperparameters and norm record (R187), in that order (log entry 19, DESIGN CHOICE): packets of
4,080 bytes that name the master and the counter of the version they make. -/
def sendRegion (d : Dev) (e : SlowEnt) : Dev :=
  let id := wordAt e.words 1
  let gid := wordAt e.words 7
  let half := match getAlloc d gid with | some g => g.size / 2 | none => 0
  let n := match getAlloc d id with | some a => a.elems | none => 0
  let ctr := regionVer d true e.words
  let b := (e.words.flatMap fun w => natLe 4 w.toNat) ++ padTo 40 e.hp ++ padTo 64 e.norm ++ allocRead d gid (e.region * half) (4 * n)
  (chunksOf 4080 b.length b).zipIdx.foldl (fun d p => sendMirror d ⟨10, 4, 0, 0, id, ctr % 2 ^ 32, p.2, p.1⟩) (countRead d gid (e.region * half) (4 * n))

/-- The first packet of a full copy (JOIN_COPY, CHUNK_SEQ 0; log entry 26, DESIGN CHOICE): FLAGS, KIND, whether no more follows, SIZE,
ELEMS and counter. The partner makes the copy, or with SIZE zero frees it (R200). -/
def sendCopyHead (d : Dev) (id : Nat) (a : Alloc) (whole : Bool) (size : Nat) : Dev :=
  sendMirror d ⟨11, 4, 0, 0, id, a.counter % 2 ^ 32, 0,
    natLe 4 a.flags ++ natLe 2 a.kind ++ natLe 2 (b2n whole) ++ natLe 8 size ++ natLe 8 a.elems ++ natLe 8 a.counter⟩

/-- The counter that SET_COUNTER gives the partner's copy (R199), as a first JOIN_COPY packet that carries it alone (log entry
97, DESIGN CHOICE). -/
def sendCopyCounter (d : Dev) (id n : Nat) : Dev :=
  sendMirror d ⟨11, 4, 0, 0, id, n % 2 ^ 32, 0, zbytes 6 ++ natLe 2 2 ++ zbytes 16 ++ natLe 8 n⟩

/-- An allocation whose full copy may go to the partner: torn ones send nothing (R189), nor do those with a poisoned unit (R210). -/
def mayCopy (d : Dev) (id : Nat) : Bool := match getAlloc d id with | some a => !a.torn && !degraded d id a | none => false

/-- A MIRROR allocation goes to the partner in full, as it stands now (R200, R312): both slots of the copy then hold that version, and what
is written from now on is noted anew (R300, R301). -/
def sendCopyNow (d : Dev) (id : Nat) : Dev :=
  match getAlloc d id with
  | none => d
  | some a =>
    let d := modSafety (modAlloc d id fun a => { a with dirty := false }) fun s => { s with
      written := fput [] (fput [] s.written (id * 2) []) (id * 2 + 1) [] }
    (pieces 0 a.size).zipIdx.foldl (fun d p => sendMirror (countRead d id p.1.1 p.1.2) ⟨11, 4, 0, p.1.1, id, a.counter % 2 ^ 32, p.2 + 1, allocRead d id p.1.1 p.1.2⟩)
      (sendCopyHead d id a (a.size == 0) a.size)

/-! ### Joining (R299, R312) -/

/-- The pair becomes JOINED and heartbeats begin (R416). -/
def becomeJoined (d : Dev) : Dev :=
  modSafety d fun s => { s with pairState := 1, joinWait := false, joinAcks := [], copies := [], partnerDone := false, hbOn := true }

/-- Every own full copy has been acknowledged: the partner hears it, as a JOIN_COPY packet for pair control; the pair is JOINED when the
partner's copies are complete too (R299, R312; log entry 123, DESIGN CHOICE). -/
def joinReady (d : Dev) : Dev :=
  if !d.safety.joinWait || !d.safety.joinAcks.isEmpty then d
  else
    let d := sendMirror d ⟨11, 4, 0, 0, 0, 0, 0, zbytes 6 ++ natLe 2 3⟩
    if d.safety.partnerDone then becomeJoined d else d

end Sys2Proof.Machine
end

