-- ==== Sys2Proof/Machine/Flags.lean ====
section
/-!
DEFINITION. Status computations: the STATUS bits of a completion record (Table 10-8), the reduction mode in force
(R44), the saturation of a semaphore (R233) and the comparisons of the sequencer.
-/
namespace Sys2Proof.Machine

def stInf : Nat := 1
def stNan : Nat := 2
def stModeRaised : Nat := 4
def stSemOverflow : Nat := 8
def stSkipped : Nat := 16
def stClipped : Nat := 32
def stFallback : Nat := 64

/-- The mode in force and the MODE_RAISED bit: EXACT_RED on the destination makes every mode EXACT (R44). -/
def raisedMode (mode : Nat) (exactRed : Bool) : Nat × Nat :=
  if exactRed then (2, stModeRaised) else (mode, 0)

/-- A count after increments that are added once: the new count and whether it saturated (R233). -/
def saturate (count total : Nat) : Nat × Bool :=
  if count + total > 65535 then (65535, true) else (count + total, false)

/-- −1, 0 or +1, signed (CMPS, CMPSK). -/
def cmpSigned (a b : W64) : W64 := if a.slt b then -1 else if a = b then 0 else 1

/-- −1, 0 or +1, unsigned (CMPU). -/
def cmpUnsigned (a b : W64) : W64 := if a.ult b then -1 else if a = b then 0 else 1

/-- The condition of BRZ, A taken as signed. -/
def condHolds (c : Cond) (a : W64) : Bool :=
  match c with
  | .zero => a == 0
  | .nonzero => a != 0
  | .neg => a.msb
  | .nonneg => !a.msb
  | .pos => !a.msb && a != 0
  | .nonpos => a.msb || a == 0

end Sys2Proof.Machine
end

