-- ==== Sys2Proof/Machine/Sequencer.lean ====
section
/-!
DEFINITION. Sequencer programs, threads and semaphores (chapter 10): the instructions a thread issues, the steps that
end its waits, the semaphores, and the entry of a descriptor into its queue and past WAIT_SEM.
A command that names an instruction is that thread issuing it; ISSUE_SELECT issues what the thread's program holds.
-/
namespace Sys2Proof.Machine

/-- A command whose effect is a change of the device. -/
def run (s : State) (f : Dev → Dev) : Host.Outcome State Fault Refusal := .next { s with dev := f s.dev }

/-! ### Results of the arithmetic instructions -/

/-- Table 10-4. -/
def aluVal (op : AluOp) (a b : W64) : W64 :=
  match op with
  | .add => a + b
  | .sub => a - b
  | .and => a &&& b
  | .or => a ||| b
  | .xor => a ^^^ b
  | .shl => a <<< (b.toNat % 64)
  | .shru => a >>> (b.toNat % 64)
  | .shrs => a.sshiftRight (b.toNat % 64)
  | .mul => a * b
  | .mulhu => BitVec.ofNat 64 (a.toNat * b.toNat / 2 ^ 64)
  | .cmps => cmpSigned a b
  | .cmpu => cmpUnsigned a b
  | .mins => if a.slt b then a else b
  | .maxs => if a.slt b then b else a
  | .minu => if a.ult b then a else b
  | .maxu => if a.ult b then b else a

/-- ADDK, ANDK, ORK, XORK and CMPSK of Table 10-3. -/
def aluKVal (op : AluKOp) (a : W64) (k : W16) : W64 :=
  match op with
  | .addk => a + sextK k
  | .andk => a &&& zextK k
  | .ork => a ||| zextK k
  | .xork => a ^^^ zextK k
  | .cmpsk => cmpSigned a (sextK k)

def shiftVal (kind : ShiftKind) (a : W64) (n : Nat) : W64 :=
  match kind with
  | .shl => a <<< n
  | .shru => a >>> n
  | .shrs => a.sshiftRight n

/-- INSK: bits [16p+15:16p] of D replaced. -/
def inskVal (d : W64) (p : Fin 4) (k : W16) : W64 := BitVec.ofNat 64 (setBitf d.toNat (16 * p.val) 16 k.toNat)

/-! ### Control registers (Table 10-6, R221) -/

/-- Mask of the threads in a state. -/
def stateMask (d : Dev) (t : TileId) (st : TState) : Nat :=
  ((getTile d t).threads.filter fun e => e.2.st == st).foldl (fun m e => m ||| (1 <<< e.1)) 0

/-- Value of a control register; none for a number that Table 10-6 does not list. -/
def csrVal (d : Dev) (t : TileId) (th : Thr) (n : Nat) : Option Nat :=
  let k := getThread d t th
  let x := getTile d t
  if n = 0x00 then some ((if isCurv t then (t.val - 128) % 4 else t.val % 64) + 64 * dieOf t + 128 * b2n (isCurv t) + 256 * physOf d t)
  else if n = 0x01 then some th.val
  else if n = 0x02 then some (d.tc - d.resetTc - Config.tcSkew t.val)
  else if n = 0x03 then some x.faultBase.toNat
  else if n = 0x04 then some x.faultSem
  else if n = 0x05 then some k.waitLimit
  else if n = 0x06 then some k.prio
  else if n = 0x07 then some k.issueSeq
  else if n = 0x08 then some (stateMask d t .ready)
  else if n = 0x09 then some (stateMask d t .blocked)
  else if n = 0x0A then some (stateMask d t .faulted)
  else none

/-- Whether a control register takes a new value (R221). -/
def csrTakes (t : TileId) (n v : Nat) : Bool :=
  if n = 0x03 then bitf v 1 5 == 0 && decide (v < 2 ^ 23) && (v % 2 == 0 || decide (v / 64 * 64 + 1024 ≤ scratchSize t))
  else if n = 0x04 then decide (v < 48) || v == 63
  else if n = 0x05 then decide (v < 2 ^ 24)
  else if n = 0x06 then decide (v < 4)
  else false

def csrPut (d : Dev) (t : TileId) (th : Thr) (n v : Nat) : Dev :=
  if n = 0x03 then modTile d t fun x => { x with faultBase := BitVec.ofNat 64 v }
  else if n = 0x04 then modTile d t fun x => { x with faultSem := v }
  else if n = 0x05 then modThread d t th fun k => { k with waitLimit := v }
  else if n = 0x06 then modThread d t th fun k => { k with prio := v }
  else d

/-- The new value by FN: none for a read. -/
def csrNew (fn : CsrFn) (old : Nat) (a : W64) : Option Nat :=
  match fn with
  | .read => none
  | .write => some a.toNat
  | .set => some (old ||| a.toNat)
  | .clear => some ((BitVec.ofNat 64 old &&& ~~~a).toNat)

/-! ### Threads (R217, R236) -/

/-- Starts an IDLE or FAULTED thread at a PC; registers and PRIORITY keep their values. What a FAULTED thread still waited for (R233) is
abandoned. (Log entry 148, DESIGN CHOICE.) -/
def startThread (d : Dev) (t : TileId) (th : Thr) (pc : W64) : Dev × Bool :=
  let st := (getThread d t th).st
  if st = .idle ∨ st = .faulted then
    (modThread (leaveSems d t th) t th fun k => { k with pc := pc, st := .ready, busy := false, wait := .none, held := false }, true)
  else (d, false)

/-- Wakes a thread blocked in SWAIT: it leaves the queue, the count stands, its D receives 1. -/
def wakeSwait (d : Dev) (t : TileId) (th : Thr) : Dev × Bool :=
  match (getThread d t th).wait with
  | .swait _ _ => (endSwait (leaveSems d t th) t th 1, true)
  | _ => (d, false)

/-- Puts a thread in IDLE from any state; an ISSUE not yet accepted is abandoned. -/
def stopThread (d : Dev) (t : TileId) (th : Thr) : Dev :=
  modThread (leaveSems d t th) t th fun k => { k with st := .idle, wait := .none, busy := false }

/-! ### Queues (Table 10-7, R67, R224) -/

/-- A quad gang (Table 3-3). -/
def isQuad (e : QEnt) : Bool := e.unit == 0 && dfield e.words 0 10 2 == 3

/-- A gang of the four arrays of a tile, or of the sixteen of a quad (Table 3-3). -/
def isGang (e : QEnt) : Bool := e.unit == 0 && decide (dfield e.words 0 10 2 ≥ 2)

/-- The four tiles of a compute tile's quad. -/
def quadTiles (t : TileId) : List TileId := (List.range 4).map fun i => tileOfNat (quadBase t + i)

/-- Whether an entry of tile `u` takes array `a` of tile `t`. -/
def takesArray (t u : TileId) (a : Nat) (e : QEnt) : Bool :=
  isQuad e || (u == t && bitAt (dfield e.words 0 24 4) a)

/-- Entries that array `a` of tile `t` holds; an entry is free again when its operation ends (log entry 108, DESIGN CHOICE). -/
def arrayLoad (d : Dev) (t : TileId) (a : Nat) : Nat :=
  (quadTiles t).foldl (fun n u => n + ((getQueue d u 0).filter (takesArray t u a)).length) 0

/-- Whether a queue has a free entry for a descriptor. -/
def hasRoom (d : Dev) (t : TileId) (e : QEnt) : Bool :=
  if e.unit = 0 then
    if isQuad e then (quadTiles t).all fun u => (List.range 4).all fun a => decide (arrayLoad d u a < 4)
    else (List.range 4).all fun a => !bitAt (dfield e.words 0 24 4) a || decide (arrayLoad d t a < 4)
  else
    decide ((getQueue d t e.unit).length < (if e.unit = 1 then 8 else if e.unit = 2 then 16 else 4))

/-- Whether two matrix operations of tiles `t` and `u` share an array. -/
def shareArray (t u : TileId) (e f : QEnt) : Bool :=
  isQuad e || isQuad f || (t == u && dfield e.words 0 24 4 &&& dfield f.words 0 24 4 != 0)

def pastWait (e : QEnt) : Bool := e.phase == .ready || e.phase == .running || e.phase == .done
def started (e : QEnt) : Bool := e.phase == .running || e.phase == .done

/-- Whether entry `e` of tile `t` stands at the head of its queue: of each array it takes, where a tile or quad gang starts
once the operations ahead of it have ended (R56, R57), of the vector, Dot-Product or launch queue, or behind memory requests
that have all passed WAIT_SEM (R205). (Log entry 32, DEDUCED.) Another operation stands at the head of an array's queue as soon as every
earlier one there has started (log entry 154, DEDUCED). -/
def atHead (d : Dev) (t : TileId) (e : QEnt) : Bool :=
  if e.unit = 0 then
    (quadTiles t).all fun u => (getQueue d u 0).all fun f =>
      !(decide (f.id < e.id) && shareArray t u e f) || (started f && !isGang e)
  else if e.unit = 2 then (getQueue d t 2).all fun f => !decide (f.id < e.id) || pastWait f
  else (getQueue d t e.unit).head?.map (·.id) == some e.id

/-- Whether a thread issued an entry. -/
def issuedBy (th : Thr) (e : QEnt) : Bool := match e.org with | .thread x _ _ => x == th | _ => false

/-- Descriptors of a thread that have not ended with their record written (R238 I). -/
def hasOpen (d : Dev) (t : TileId) (th : Thr) : Bool :=
  let la := fun (l : Launch) => l.tile == t && issuedBy th l.ent
  (List.range 5).any (fun u => (getQueue d t u).any (issuedBy th))
    || d.curv.any (fun c => (match c.2.grind with | some p => la p.launch | none => false) || c.2.grindQ.any la
        || (match c.2.script with | some p => la p.launch | none => false) || c.2.scriptQ.any la)
    || d.fab.engines.any (fun e => match e.2 with | some p => la p.launch | none => false)
    || d.fab.engineQ.any (fun q => q.2.any la)
    || d.mem.slow.any (fun e => match e.from_ with | some (u, q) => u == t && issuedBy th q | none => false)
    || d.sigs.any (fun g => match g.record with | some r => r.tile == t && r.th == th.val | none => false)

/-- Puts an accepted descriptor into its queue: ISSUE_SEQ increments and D receives 0 (R223). -/
def acceptIssue (d : Dev) (t : TileId) (th : Thr) (dd : Reg) (e : QEnt) : Dev :=
  let d := pushEnt d t e
  modThread d t th fun k => setReg { k with issueSeq := (k.issueSeq + 1) % 2 ^ 32 } dd 0

/-- Removes a descriptor from the waiter queue it stands in. -/
def leaveWaiters (d : Dev) (t : TileId) (e : QEnt) : Dev :=
  match semOfNat (waitSemOf e.words) with
  | some s => serveSem (modSem d t s fun k => { k with waiters := k.waiters.filter fun w => w != .desc e.unit e.id }) t s
  | none => d

/-- QCANCEL of one entry: it leaves, takes no count, and its record carries CANCELLED (R237). -/
def cancelEnt (d : Dev) (t : TileId) (e : QEnt) : Dev :=
  let d := dropEnt d t e.unit e.id
  let d := if e.phase = .joined then leaveWaiters d t e else d
  endThreadEnt d t { e with code := 0x0A } false

/-- The descriptors QCANCEL removes: issued by a thread of the tile and not past WAIT_SEM. -/
def cancellable (th : Thr) (own : Bool) (e : QEnt) : Bool :=
  (match e.org with | .thread x _ _ => !own || x == th | _ => false) && !pastWait e

/-! ### Instructions -/

/-- A thread fault with the detail that Table 10-11's cause concerns. -/
def seqFault (d : Dev) (t : TileId) (th : Thr) (code : Nat) (w : W32) (detail : Nat) : Dev :=
  threadFault d t th code (getThread d t th).pc w detail

/-- A fault whose DETAIL the spec does not give: no address, semaphore or register is concerned. (Log entry 31, DESIGN CHOICE.) -/
def seqFaultOpen (d : Dev) (t : TileId) (th : Thr) (code : Nat) (w : W32) : Dev :=
  let (v, d) := freeNat d
  seqFault d t th code w v

/-- An instruction without fault: PC advances, the listed tc run (R216), and `f` sets what it writes. -/
def seqDone (d : Dev) (t : TileId) (th : Thr) (f : Thread → Thread) : Dev :=
  modThread d t th fun k => f { k with pc := k.pc + 4, st := .blocked, busy := true, wait := .none }

/-- Bytes that a thread's loads see: its own posted stores over the scratchpad (R238). -/
def loadBytes (d : Dev) (t : TileId) (th : Thr) (a n : Nat) : List Byte :=
  (getThread d t th).posted.foldl (fun (b : List Byte) s =>
    b.zipIdx.map fun e => if s.2.1 ≤ a + e.2 ∧ a + e.2 < s.2.1 + s.2.2.length then s.2.2.getD (a + e.2 - s.2.1) 0 else e.1)
    (spRead d t a n)

/-- The fault of a load, store or ISSUE read: code and nothing, 0 when it may go on. -/
def accessFault (d : Dev) (t : TileId) (a n align : Nat) : Nat :=
  if a % align ≠ 0 then 3 else if !inScratch t a n then 2 else if (spPoisonAt d t a n).isSome then 7 else 0

/-- LD -/
def seqLd (d : Dev) (t : TileId) (th : Thr) (w : W32) (dd a : Reg) (wd : Width) (sg : Bool) (o : BitVec 13) : Dev :=
  let n := widthBytes wd
  let ad := (lsAddr (getReg (getThread d t th) a) wd o).toNat
  let c := accessFault d t ad n n
  if c ≠ 0 then seqFault d t th c w ad
  else
    let v := extend wd sg (leNat (loadBytes d t th ad n))
    seqDone d t th fun k => setReg k dd v

/-- ST: posted (R238). -/
def seqSt (d : Dev) (t : TileId) (th : Thr) (w : W32) (dd a : Reg) (wd : Width) (o : BitVec 13) : Dev :=
  let n := widthBytes wd
  let ad := (lsAddr (getReg (getThread d t th) a) wd o).toNat
  let c := accessFault d t ad n n
  if c ≠ 0 then seqFault d t th c w ad
  else seqDone d t th fun k =>
    { k with posted := k.posted ++ [(k.stNext, ad, natLe n (getReg k dd).toNat)], stNext := k.stNext + 1 }

/-- CSR (R221). -/
def seqCsr (d : Dev) (t : TileId) (th : Thr) (w : W32) (fn : CsrFn) (dd a : Reg) (sel : BitVec 6) : Dev :=
  let n := sel.toNat
  match csrVal d t th n with
  | none => seqFault d t th 8 w n
  | some old =>
    match csrNew fn old (getReg (getThread d t th) a) with
    | none => seqDone d t th fun k => setReg k dd (BitVec.ofNat 64 old)
    | some v =>
      if csrTakes t n v then csrPut (seqDone d t th fun k => setReg k dd (BitVec.ofNat 64 old)) t th n v
      else seqFault d t th 8 w n

/-- The tile that B names for SSIGT and SSIGR: [6:0] tile code, [7] other die. -/
def targetCode (b : W64) : Nat × Bool := (b.toNat % 128, bitAt b.toNat 7)

/-- SSET's effect on a semaphore, before its waiters are served (R229). -/
def setSem (d : Dev) (t : TileId) (sm : SemId) (n : Nat) : Dev := modSem d t sm fun x => { x with count := n, ovf := false }

/-- SEM (Table 10-5). -/
def seqSem (d : Dev) (t : TileId) (th : Thr) (w : W32) (fn : SemFn) (dd a b : Reg) (sel : BitVec 6) (kb : Bool) : Dev :=
  let k := getThread d t th
  match semOfNat sel.toNat with
  | none => seqFault d t th 4 w sel.toNat
  | some sm =>
    let n := semN (getReg k a) kb
    let src := SigSrc.thread t th k.pc w k.stNext
    match fn with
    | .swait =>
      if n = 0 then seqDone d t th fun k => setReg k dd 0
      else joinSem (modThread (seqDone d t th id) t th fun k => { k with wait := .swait dd sm }) t sm (.thread th n)
    | .sdec =>
      if n > (getSem d t sm).count then seqFault d t th 5 w sm.val
      else modSem (seqDone d t th id) t sm fun x => { x with count := x.count - n }
    | .ssig => makeSig (seqDone d t th id) ⟨t, sm, n, src, none, some t⟩
    | .sset => serveSem (setSem (seqDone d t th id) t sm n) t sm
    | .sread =>
      let x := getSem d t sm
      seqDone d t th fun k => setReg k dd (BitVec.ofNat 64 (x.count + 65536 * b2n x.ovf))
    | .ssigt =>
      let (c, o) := targetCode (getReg k b)
      match tileOfCode t c o with
      | some u => makeSig (seqDone d t th id) ⟨u, sm, n, src, none, some t⟩
      | none => seqFault d t th 9 w sm.val
    | .ssigr =>
      match remoteSignal (flushStores d t th k.stNext) (bitf (getReg k b).toNat 8 16) ((getReg k b).toNat % 256) sm.val n with
      | some d' => seqDone d' t th id
      | none => seqFault d t th 9 w sm.val

/-- THR (Table 10-5). -/
def seqThr (d : Dev) (t : TileId) (th : Thr) (w : W32) (fn : ThrFn) (dd a b : Reg) : Dev :=
  let k := getThread d t th
  let texit := modThread (seqDone d t th id) t th fun k => { k with st := .idle, busy := false }
  match fn with
  | .texit => texit
  | .tstart =>
    if h : (getReg k a).toNat < 64 then
      let (d, ok) := startThread d t ⟨(getReg k a).toNat, h⟩ (getReg k b)
      seqDone d t th fun k => setReg k dd (if ok then 0 else 1)
    else seqFaultOpen d t th 9 w
  | .twake =>
    if h : (getReg k a).toNat < 64 then
      let (d, ok) := wakeSwait d t ⟨(getReg k a).toNat, h⟩
      seqDone d t th fun k => setReg k dd (if ok then 0 else 1)
    else seqFaultOpen d t th 9 w
  | .tstop =>
    if h : (getReg k a).toNat < 64 then
      if (getReg k a).toNat = th.val then texit
      else seqDone (stopThread d t ⟨(getReg k a).toNat, h⟩) t th fun k => setReg k dd 0
    else seqFaultOpen d t th 9 w

/-- The member condition of R7 on a descriptor: a launch whose TARGET no curvature tile of the device has. -/
def memberBad (u : Nat) (w : List W32) : Bool := u == 4 && (opcodeOf w == 0xA0 || opcodeOf w == 0xA1) && decide (dfield w 0 8 4 ≥ 8)

/-- ISSUE (R223, R225): a refused descriptor gives its code and record; an accepted one is on its way to its queue, and a TSTOP
before ISSUE_QUEUE_ENTRY abandons it (R236). (Log entry 100, DEDUCED.) -/
def seqIssue (d : Dev) (t : TileId) (th : Thr) (w : W32) (dd a b : Reg) (u : BitVec 3) (kb : Bool) : Dev :=
  let k := getThread d t th
  let ad := (getReg k a).toNat
  let rd := (getReg k b).toNat
  if ad % 64 ≠ 0 then seqFault d t th 3 w ad
  else if !inScratch t ad 64 then seqFault d t th 2 w ad
  else if kb && rd % 32 != 0 then seqFault d t th 3 w rd
  else if kb && !inScratch t rd 32 then seqFault d t th 2 w rd
  else
    let d := flushStores d t th k.stNext
    if (spPoisonAt d t ad 64).isSome then seqFault d t th 7 w ad
    else
      let words := toWords 16 (spRead d t ad 64)
      let c := checkDesc d t u.toNat words
      let rec_ := if kb then some rd else none
      if c ≠ 0 then
        let d := if memberBad u.toNat words then post d 0x0010 2 (tileSource d t 0) (natLe 4 (opcodeOf words) ++ natLe 4 k.issueSeq) else d
        endThreadEnt (seqDone d t th fun k => setReg k dd (BitVec.ofNat 64 c)) t
          { id := 0, unit := u.toNat, words := words, org := .thread th (BitVec.ofNat 32 k.issueSeq) rec_, phase := .done, code := c } false
      else
        let e : QEnt := { id := 0, unit := u.toNat, words := words, org := .thread th (BitVec.ofNat 32 (k.issueSeq + 1)) rec_, phase := .waiting }
        modThread (seqDone d t th id) t th fun k => { k with wait := .queue dd e }

/-- QCANCEL (R237). -/
def seqQcancel (d : Dev) (t : TileId) (th : Thr) (dd : Reg) (u : BitVec 3) (own : Bool) : Dev :=
  let l := (getQueue d t u.toNat).filter (cancellable th own)
  let d := l.foldl (fun d e => cancelEnt d t e) d
  seqDone d t th fun k => setReg k dd (BitVec.ofNat 64 l.length)

/-- FENCE: the thread waits for what its mask names; FENCE_END ends the wait (R238). -/
def seqFence (d : Dev) (t : TileId) (th : Thr) (m : BitVec 3) : Dev :=
  modThread (seqDone d t th id) t th fun k => { k with busy := false, wait := .fence m }

/-- The effect of an instruction whose word is `w` on the thread that issues it. -/
def seqEffect (d : Dev) (t : TileId) (th : Thr) (w : W32) (i : SeqInstr) : Dev :=
  let k := getThread d t th
  match i with
  | .alu op dd a b => seqDone d t th fun k => setReg k dd (aluVal op (getReg k a) (getReg k b))
  | .aluK op dd a c => seqDone d t th fun k => setReg k dd (aluKVal op (getReg k a) c)
  | .shk dd a kind n => seqDone d t th fun k => setReg k dd (shiftVal kind (getReg k a) n.val)
  | .setk dd c => seqDone d t th fun k => setReg k dd (sextK c)
  | .insk dd p c => seqDone d t th fun k => setReg k dd (inskVal (getReg k dd) p c)
  | .ld dd a wd sg o => seqLd d t th w dd a wd sg o
  | .st dd a wd o => seqSt d t th w dd a wd o
  | .brz c a o =>
    seqDone d t th fun k' => if condHolds c (getReg k a) then { k' with pc := branchTo k.pc o } else k'
  | .call dd o => seqDone d t th fun k' => { setReg k' dd (k.pc + 4) with pc := branchTo k.pc o }
  | .jumpr dd a o => seqDone d t th fun k' => { setReg k' dd (k.pc + 4) with pc := branchTo (getReg k a) o }
  | .csr fn dd a sel => seqCsr d t th w fn dd a sel
  | .sem fn dd a b sel kb => seqSem d t th w fn dd a b sel kb
  | .thr fn dd a b => seqThr d t th w fn dd a b
  | .issue dd a b u kb => seqIssue d t th w dd a b u kb
  | .qcancel dd u own => seqQcancel d t th dd u own
  | .fence _ m => seqFence d t th m

/-- A thread takes the tile's issue slot: it is the last to issue at its priority, and the issue is counted (R215). -/
def takeSlot (d : Dev) (t : TileId) (th : Thr) : Dev :=
  tileEv (modTile d t fun x => { x with lastIssue := fput 0 x.lastIssue (getThread d t th).prio (th.val + 1) }) t 2 1

/-- A READY thread issues an instruction. -/
def seqIssueWord (d : Dev) (t : TileId) (th : Thr) (w : W32) (i : SeqInstr) : Dev :=
  seqEffect (takeSlot d t th) t th w i

/-- The READY threads of a tile, in ascending order. -/
def readyThreads (d : Dev) (t : TileId) : List Thr :=
  ((List.range 64).filterMap fun i => if h : i < 64 then some (⟨i, h⟩ : Thr) else none).filter fun x => (getThread d t x).st == .ready

/-- The READY threads of the highest PRIORITY, in turn after the thread that last issued there (R215). -/
def selectThread (d : Dev) (t : TileId) : Option Thr :=
  let ready := readyThreads d t
  let p := ready.foldl (fun m x => max m (getThread d t x).prio) 0
  let at_ := ready.filter fun x => (getThread d t x).prio == p
  let last := fget 0 (getTile d t).lastIssue p
  match at_.find? (fun x => decide (x.val ≥ last)) with | some x => some x | none => at_.head?

/-- Whether the thread may issue: the tile acts, and the thread is the one that R215 selects. (Log entry 17, DESIGN CHOICE.) -/
def mayIssue (d : Dev) (t : TileId) (th : Thr) : Bool := tileActs d t && selectThread d t == some th

/-- A command that is one instruction of a thread. -/
def seqCmd (s : State) (t : TileId) (th : Thr) (i : SeqInstr) : Host.Outcome State Fault Refusal :=
  run s fun d => if mayIssue d t th then seqIssueWord d t th (encodeSeq i) i else d

def execAdd (t : TileId) (th : Thr) (d a b : Reg) (s : State) : Host.Outcome State Fault Refusal :=
  seqCmd s t th (.alu .add d a b)
def execSub (t : TileId) (th : Thr) (d a b : Reg) (s : State) : Host.Outcome State Fault Refusal :=
  seqCmd s t th (.alu .sub d a b)
def execAnd (t : TileId) (th : Thr) (d a b : Reg) (s : State) : Host.Outcome State Fault Refusal :=
  seqCmd s t th (.alu .and d a b)
def execOr (t : TileId) (th : Thr) (d a b : Reg) (s : State) : Host.Outcome State Fault Refusal :=
  seqCmd s t th (.alu .or d a b)
def execXor (t : TileId) (th : Thr) (d a b : Reg) (s : State) : Host.Outcome State Fault Refusal :=
  seqCmd s t th (.alu .xor d a b)
def execShl (t : TileId) (th : Thr) (d a b : Reg) (s : State) : Host.Outcome State Fault Refusal :=
  seqCmd s t th (.alu .shl d a b)
def execShru (t : TileId) (th : Thr) (d a b : Reg) (s : State) : Host.Outcome State Fault Refusal :=
  seqCmd s t th (.alu .shru d a b)
def execShrs (t : TileId) (th : Thr) (d a b : Reg) (s : State) : Host.Outcome State Fault Refusal :=
  seqCmd s t th (.alu .shrs d a b)
def execMul (t : TileId) (th : Thr) (d a b : Reg) (s : State) : Host.Outcome State Fault Refusal :=
  seqCmd s t th (.alu .mul d a b)
def execMulhu (t : TileId) (th : Thr) (d a b : Reg) (s : State) : Host.Outcome State Fault Refusal :=
  seqCmd s t th (.alu .mulhu d a b)
def execCmps (t : TileId) (th : Thr) (d a b : Reg) (s : State) : Host.Outcome State Fault Refusal :=
  seqCmd s t th (.alu .cmps d a b)
def execCmpu (t : TileId) (th : Thr) (d a b : Reg) (s : State) : Host.Outcome State Fault Refusal :=
  seqCmd s t th (.alu .cmpu d a b)
def execMins (t : TileId) (th : Thr) (d a b : Reg) (s : State) : Host.Outcome State Fault Refusal :=
  seqCmd s t th (.alu .mins d a b)
def execMaxs (t : TileId) (th : Thr) (d a b : Reg) (s : State) : Host.Outcome State Fault Refusal :=
  seqCmd s t th (.alu .maxs d a b)
def execMinu (t : TileId) (th : Thr) (d a b : Reg) (s : State) : Host.Outcome State Fault Refusal :=
  seqCmd s t th (.alu .minu d a b)
def execMaxu (t : TileId) (th : Thr) (d a b : Reg) (s : State) : Host.Outcome State Fault Refusal :=
  seqCmd s t th (.alu .maxu d a b)
def execAddk (t : TileId) (th : Thr) (d a : Reg) (k : W16) (s : State) : Host.Outcome State Fault Refusal :=
  seqCmd s t th (.aluK .addk d a k)
def execAndk (t : TileId) (th : Thr) (d a : Reg) (k : W16) (s : State) : Host.Outcome State Fault Refusal :=
  seqCmd s t th (.aluK .andk d a k)
def execOrk (t : TileId) (th : Thr) (d a : Reg) (k : W16) (s : State) : Host.Outcome State Fault Refusal :=
  seqCmd s t th (.aluK .ork d a k)
def execXork (t : TileId) (th : Thr) (d a : Reg) (k : W16) (s : State) : Host.Outcome State Fault Refusal :=
  seqCmd s t th (.aluK .xork d a k)
def execShk (t : TileId) (th : Thr) (d a : Reg) (kind : ShiftKind) (n : Fin 64) (s : State) : Host.Outcome State Fault Refusal :=
  seqCmd s t th (.shk d a kind n)
def execCmpsk (t : TileId) (th : Thr) (d a : Reg) (k : W16) (s : State) : Host.Outcome State Fault Refusal :=
  seqCmd s t th (.aluK .cmpsk d a k)
def execSetk (t : TileId) (th : Thr) (d : Reg) (k : W16) (s : State) : Host.Outcome State Fault Refusal :=
  seqCmd s t th (.setk d k)
def execInsk (t : TileId) (th : Thr) (d : Reg) (p : Fin 4) (k : W16) (s : State) : Host.Outcome State Fault Refusal :=
  seqCmd s t th (.insk d p k)
def execLd (t : TileId) (th : Thr) (d a : Reg) (w : Width) (sg : Bool) (ofs : BitVec 13) (s : State) : Host.Outcome State Fault Refusal :=
  seqCmd s t th (.ld d a w sg ofs)
def execSt (t : TileId) (th : Thr) (d a : Reg) (w : Width) (ofs : BitVec 13) (s : State) : Host.Outcome State Fault Refusal :=
  seqCmd s t th (.st d a w ofs)
def execBrz (t : TileId) (th : Thr) (c : Cond) (a : Reg) (k : W16) (s : State) : Host.Outcome State Fault Refusal :=
  seqCmd s t th (.brz c a k)
def execCall (t : TileId) (th : Thr) (d : Reg) (k : W16) (s : State) : Host.Outcome State Fault Refusal :=
  seqCmd s t th (.call d k)
def execJumpr (t : TileId) (th : Thr) (d a : Reg) (k : W16) (s : State) : Host.Outcome State Fault Refusal :=
  seqCmd s t th (.jumpr d a k)
def execCsrRead (t : TileId) (th : Thr) (d a : Reg) (sel : BitVec 6) (s : State) : Host.Outcome State Fault Refusal :=
  seqCmd s t th (.csr .read d a sel)
def execCsrWrite (t : TileId) (th : Thr) (d a : Reg) (sel : BitVec 6) (s : State) : Host.Outcome State Fault Refusal :=
  seqCmd s t th (.csr .write d a sel)
def execCsrSetBits (t : TileId) (th : Thr) (d a : Reg) (sel : BitVec 6) (s : State) : Host.Outcome State Fault Refusal :=
  seqCmd s t th (.csr .set d a sel)
def execCsrClearBits (t : TileId) (th : Thr) (d a : Reg) (sel : BitVec 6) (s : State) : Host.Outcome State Fault Refusal :=
  seqCmd s t th (.csr .clear d a sel)
def execSwait (t : TileId) (th : Thr) (d a b : Reg) (sel : BitVec 6) (k : Bool) (s : State) : Host.Outcome State Fault Refusal :=
  seqCmd s t th (.sem .swait d a b sel k)
def execSdec (t : TileId) (th : Thr) (d a b : Reg) (sel : BitVec 6) (k : Bool) (s : State) : Host.Outcome State Fault Refusal :=
  seqCmd s t th (.sem .sdec d a b sel k)
def execSsig (t : TileId) (th : Thr) (d a b : Reg) (sel : BitVec 6) (k : Bool) (s : State) : Host.Outcome State Fault Refusal :=
  seqCmd s t th (.sem .ssig d a b sel k)
def execSset (t : TileId) (th : Thr) (d a b : Reg) (sel : BitVec 6) (k : Bool) (s : State) : Host.Outcome State Fault Refusal :=
  seqCmd s t th (.sem .sset d a b sel k)
def execSread (t : TileId) (th : Thr) (d a b : Reg) (sel : BitVec 6) (k : Bool) (s : State) : Host.Outcome State Fault Refusal :=
  seqCmd s t th (.sem .sread d a b sel k)
def execSsigt (t : TileId) (th : Thr) (d a b : Reg) (sel : BitVec 6) (k : Bool) (s : State) : Host.Outcome State Fault Refusal :=
  seqCmd s t th (.sem .ssigt d a b sel k)
def execSsigr (t : TileId) (th : Thr) (d a b : Reg) (sel : BitVec 6) (k : Bool) (s : State) : Host.Outcome State Fault Refusal :=
  seqCmd s t th (.sem .ssigr d a b sel k)
def execTstart (t : TileId) (th : Thr) (d a b : Reg) (s : State) : Host.Outcome State Fault Refusal :=
  seqCmd s t th (.thr .tstart d a b)
def execTexit (t : TileId) (th : Thr) (d a b : Reg) (s : State) : Host.Outcome State Fault Refusal :=
  seqCmd s t th (.thr .texit d a b)
def execTwake (t : TileId) (th : Thr) (d a b : Reg) (s : State) : Host.Outcome State Fault Refusal :=
  seqCmd s t th (.thr .twake d a b)
def execTstop (t : TileId) (th : Thr) (d a b : Reg) (s : State) : Host.Outcome State Fault Refusal :=
  seqCmd s t th (.thr .tstop d a b)
def execIssue (t : TileId) (th : Thr) (d a b : Reg) (u : BitVec 3) (k : Bool) (s : State) : Host.Outcome State Fault Refusal :=
  seqCmd s t th (.issue d a b u k)
def execQcancel (t : TileId) (th : Thr) (d : Reg) (u : BitVec 3) (own : Bool) (s : State) : Host.Outcome State Fault Refusal :=
  seqCmd s t th (.qcancel d u own)
def execFence (t : TileId) (th : Thr) (d : Reg) (m : BitVec 3) (s : State) : Host.Outcome State Fault Refusal :=
  seqCmd s t th (.fence d m)

/-! ### The steps around the instructions -/

/-- STORE_WRITTEN (R238): the thread's oldest posted store is written. -/
def storeWritten (d : Dev) (t : TileId) (th : Thr) : Dev :=
  match (getThread d t th).posted with
  | [] => d
  | s :: _ => flushStores d t th (s.1 + 1)

def execStoreWritten (t : TileId) (th : Thr) (s : State) : Host.Outcome State Fault Refusal :=
  run s fun d => if tileActs d t then storeWritten d t th else d

/-- ISSUE_QUEUE_ENTRY (R223): the descriptor of an ISSUE is accepted: its queue has a free entry and takes it. -/
def issueQueueEntry (d : Dev) (t : TileId) (th : Thr) : Dev :=
  match (getThread d t th).wait with
  | .queue dd e => if hasRoom d t e then wakeThread (acceptIssue d t th dd e) t th else d
  | _ => d

def execIssueQueueEntry (t : TileId) (th : Thr) (s : State) : Host.Outcome State Fault Refusal :=
  run s fun d => if tileActs d t then issueQueueEntry d t th else d

/-- FENCE_END (R238): what the mask names holds; with C the cache is invalidated. -/
def fenceEnd (d : Dev) (t : TileId) (th : Thr) : Dev :=
  match (getThread d t th).wait with
  | .fence m =>
    if (m.getLsbD 0 && !(getThread d t th).posted.isEmpty) || (m.getLsbD 1 && hasOpen d t th) then d
    else wakeThread (if m.getLsbD 2 then modTile d t fun x => { x with icache := [] } else d) t th
  | _ => d

def execFenceEnd (t : TileId) (th : Thr) (s : State) : Host.Outcome State Fault Refusal :=
  run s fun d => if tileActs d t then fenceEnd d t th else d

/-- ISSUE_SELECT (R215, R219): the selected thread fetches, and issues what the cache holds at its PC. -/
def issueSelect (d : Dev) (t : TileId) : Dev :=
  match selectThread d t with
  | none => d
  | some th =>
    let pc := (getThread d t th).pc.toNat
    let pcFault := fun (c : Nat) => let (v, d) := freeNat d; seqFault d t th c (BitVec.ofNat 32 v) pc
    if pc % 4 ≠ 0 then pcFault 3
    else if !inScratch t pc 4 || hitsPool d t pc 4 then pcFault 2
    else
      match fget [] (getTile d t).icache (pc / 64) with
      | [] => tileEv (modThread d t th fun k => { k with st := .blocked, busy := false, wait := .icache (pc / 64) }) t 0x0D 1
      | line =>
        let w := BitVec.ofNat 32 (recf line (pc % 64) 4)
        match decodeSeq w with
        | some i => seqIssueWord d t th w i
        | none => seqFaultOpen (takeSlot d t th) t th 1 w

def execIssueSelect (t : TileId) (s : State) : Host.Outcome State Fault Refusal :=
  run s fun d => if tileActs d t then issueSelect d t else d

/-- BLOCK_TIME_END (R216): the listed tc have run. -/
def blockTimeEnd (d : Dev) (t : TileId) (th : Thr) : Dev :=
  modThread d t th fun k =>
    if k.busy then { k with busy := false, st := if k.st = .blocked ∧ k.wait = .none ∧ !k.held then .ready else k.st } else k

def execBlockTimeEnd (t : TileId) (th : Thr) (s : State) : Host.Outcome State Fault Refusal :=
  run s fun d => if tileActs d t then blockTimeEnd d t th else d

/-- ICACHE_MISS_FILL (R219): the line is read and cached, over the line `evict` when all 256 are taken; a poisoned line
is a thread fault POISON with the PC as DETAIL and the event of R209. -/
def icacheMissFill (d : Dev) (t : TileId) (th : Thr) (evict : Option Nat) : Dev :=
  match (getThread d t th).wait with
  | .icache line =>
    let pc := (getThread d t th).pc.toNat
    match spPoisonAt d t (line * 64) 64 with
    | some a =>
      let (v, d) := freeNat d
      let (id, off) := match allocAtScratch d t a with | some (i, k) => (i, a - k.spAddr) | none => (0, a)
      seqFault (post d 0x0030 2 (tileSource d t 0) (poisonDetail id off 0)) t th 7 (BitVec.ofNat 32 v) pc
    | none =>
      let c := (getTile d t).icache
      let c' := match evict with | some l => fput [] c l [] | none => c
      if c'.length < 256 then
        wakeThread (modTile d t fun x => { x with icache := fput [] c' line (spRead d t (line * 64) 64) }) t th
      else d
  | _ => d

def execIcacheMissFill (t : TileId) (th : Thr) (evict : Option Nat) (s : State) : Host.Outcome State Fault Refusal :=
  run s fun d => if tileActs d t then icacheMissFill d t th evict else d

/-- The signals of a list at the given places among those bound for a semaphore, and the rest. A signal behind one that the same
tile made earlier and that stays is not taken: both have one latency (R234). (Log entry 33, DESIGN CHOICE.) -/
def pickSigs (t : TileId) (sm : SemId) (which : List Nat) (held : List TileId) : Nat → List Sig → List Sig × List Sig
  | _, [] => ([], [])
  | n, g :: gs =>
    if g.tile = t ∧ g.sem = sm then
      let behind := match g.from_ with | some u => decide (u ∈ held) | none => false
      if n ∈ which && !behind then
        let (a, b) := pickSigs t sm which held (n + 1) gs
        (g :: a, b)
      else
        let (a, b) := pickSigs t sm which (g.from_.toList ++ held) (n + 1) gs
        (a, g :: b)
    else
      let (a, b) := pickSigs t sm which held n gs
      (a, g :: b)

/-- Kind of Table 17-8 for an overflow: 0 a thread, 1 a descriptor, 2 otherwise. -/
def overflowKind (l : List Sig) : Nat :=
  if l.any (fun g => match g.src with | .thread _ _ _ _ _ => true | _ => false) then 0
  else if l.any (fun g => g.src == .desc) then 1 else 2

/-- What a signal brings with it when it takes effect: the thread that made it faults on overflow; a descriptor's
record is written, with SEM_OVERFLOW on overflow (R225, R233). -/
def sigArrives (ovf : Bool) (d : Dev) (g : Sig) : Dev :=
  let d := match g.src with
    | .thread u th pc w _ => if ovf then lateFault d u th 6 pc w g.sem.val else d
    | _ => d
  match g.record with
  | some r => writeRec d { r with status := r.status ||| (if ovf && g.src == .desc then stSemOverflow else 0) }
  | none => d

/-- The SSET or SDEC on a semaphore that the tile's sequencer issues in this tc: its thread, word and instruction. -/
def sameTc (d : Dev) (t : TileId) (sm : SemId) : Option (Thr × W32 × SeqInstr) :=
  match selectThread d t with
  | none => none
  | some th =>
    let pc := (getThread d t th).pc.toNat
    let w := BitVec.ofNat 32 (recf (fget [] (getTile d t).icache (pc / 64)) (pc % 64) 4)
    match decodeSeq w with
    | some (.sem fn dd a b sel kb) =>
      if tileActs d t && pc % 4 == 0 && inScratch t pc 4 && !hitsPool d t pc 4 && !(fget [] (getTile d t).icache (pc / 64)).isEmpty
          && sel.toNat == sm.val && (fn == .sset || fn == .sdec) then some (th, w, .sem fn dd a b sel kb)
      else none
    | _ => none

/-- What of the tc's own instruction comes before the increments (an SSET) or after them (an SDEC); neither serves waiters (R229). A thread
that the increments have just FAULTED stays so, and its SDEC keeps its effects (R233). -/
def sameTcEffect (d : Dev) (t : TileId) (sm : SemId) (first : Bool) (x : Thr × W32 × SeqInstr) : Dev :=
  match x with
  | (th, _, .sem .sset _ a _ _ kb) =>
    if first then
      let d := takeSlot d t th
      setSem (seqDone d t th id) t sm (semN (getReg (getThread d t th) a) kb)
    else d
  | (th, w, i) =>
    if first then d
    else if (getThread d t th).st = .faulted then modThread (seqIssueWord d t th w i) t th fun k => { k with st := .faulted }
    else seqIssueWord d t th w i

/-- SIGNAL_TAKES_EFFECT (R229, R230, R233): the chosen increments are added and saturate once; stores the signals
release are written first; records are written; then the waiters are served. With `same`, the tile's sequencer issues its
instruction in this very tc: an SSET of this semaphore acts before the increments, an SDEC between them and the waiters. -/
def signalTakesEffect (d : Dev) (t : TileId) (sm : SemId) (which : List Nat) (same : Bool) : Dev :=
  let (got, rest) := pickSigs t sm which [] 0 d.sigs
  if got.isEmpty then d
  else
    let own := if same then sameTc d t sm else none
    let d := match own with | some x => sameTcEffect d t sm true x | none => d
    let d := { d with sigs := rest }
    let d := got.foldl (fun d g => match g.src with | .thread u th _ _ n => flushStores d u th n | _ => d) d
    let r := saturate (getSem d t sm).count (got.foldl (fun n g => n + g.n) 0)
    let d := modSem d t sm fun x => { x with count := r.1, ovf := x.ovf || r.2 }
    let d := if r.2 then post d 0x0012 1 (tileSource d t 0) (natLe 1 sm.val ++ natLe 1 (overflowKind got)) else d
    let d := got.foldl (sigArrives r.2) d
    let d := match own with | some x => sameTcEffect d t sm false x | none => d
    serveSem d t sm

def execSignalTakesEffect (t : TileId) (sm : SemId) (which : SigPick) (s : State) : Host.Outcome State Fault Refusal :=
  run s fun d => if alive d then signalTakesEffect d t sm which.places which.same else d

/-- WAIT_LIMIT_EXPIRY (R235). -/
def waitLimitExpiry (d : Dev) (t : TileId) (th : Thr) : Dev :=
  match (getThread d t th).wait with
  | .swait _ _ =>
    if (getThread d t th).waitLimit = 0 then d else tileEv (endSwait (leaveSems d t th) t th 2) t 6 1
  | _ => d

def execWaitLimitExpiry (t : TileId) (th : Thr) (s : State) : Host.Outcome State Fault Refusal :=
  run s fun d => if tileActs d t then waitLimitExpiry d t th else d

/-- DESCRIPTOR_WAIT_SEM (R224): the entry at the head joins its semaphore's waiters, or passes with WAIT_SEM 63. -/
def descriptorWaitSem (d : Dev) (t : TileId) (u : Nat) (i : Nat) : Dev :=
  match (getQueue d t u)[i]? with
  | none => d
  | some e =>
    if e.phase = .waiting ∧ atHead d t e then
      match semOfNat (waitSemOf e.words) with
      | none => modEnt d t u e.id fun e => { e with phase := .ready }
      | some sm => joinSem (modEnt d t u e.id fun e => { e with phase := .joined }) t sm (.desc u e.id)
    else d

def execDescriptorWaitSem (t : TileId) (u : Fin 5) (i : Nat) (s : State) : Host.Outcome State Fault Refusal :=
  run s fun d => if tileActs d t then descriptorWaitSem d t u.val i else d

end Sys2Proof.Machine
end

