-- ==== Sys2Proof/Machine/Real.lean ====
section
/-!
DEFINITION. The correctly rounded functions of the vector engine (R73: VEXP, VLOG) and the coefficients of the
built-in tables (R83-R86). A real is a fixed-point integer of `p` fraction bits; a value computed with p bits is
within 2^(-p/2) of the exact one (log entry 10, DEDUCED), and a rounding is accepted once both ends of that interval round
alike, with p doubled until they do.
-/
namespace Sys2Proof.Machine

/-- Fixed-point product, quotient and reciprocal of integers, with p fraction bits. -/
def fxMul (p : Nat) (a b : Int) : Int := (a * b) >>> p
def fxDiv (p : Nat) (a b : Int) : Int := if b = 0 then 0 else (a <<< p) / b
def fxOne (p : Nat) : Int := ((1 <<< p : Nat) : Int)

/-- Σ x^k / k! by Horner's rule from term `n` down, for |x| ≤ 1. -/
def fxExpSeries (p : Nat) (x : Int) : Nat → Int → Int
  | 0, acc => acc
  | n + 1, acc => fxExpSeries p x n (fxOne p + fxMul p x acc / ((n + 1 : Nat) : Int))

/-- Σ z^(2k+1) / (2k+1) (atanh), summed upward with term `t` = z^(2k+1). -/
def fxAtanhSeries (p : Nat) (z2 : Int) : Nat → Nat → Int → Int → Int
  | 0, _, _, acc => acc
  | n + 1, k, t, acc => fxAtanhSeries p z2 n (k + 1) (fxMul p t z2) (acc + t / ((2 * k + 1 : Nat) : Int))

def fxAtanh (p : Nat) (z : Int) : Int := fxAtanhSeries p (fxMul p z z) p 0 z 0

/-- ln 2 = 2 atanh(1/3). -/
def fxLn2 (p : Nat) : Int := 2 * fxAtanh p (fxOne p / 3)

/-- e^x for a fixed-point x, |x| up to a few hundred: x = k ln 2 + r. -/
def fxExp (p : Nat) (x : Int) : Int :=
  let q := p + 512
  let ln2 := fxLn2 q
  let x' := x <<< (512 : Nat)
  let k := x' / ln2
  let r := x' - k * ln2
  let e := fxExpSeries q r (p / 2 + 64) (fxOne q)
  if k ≥ 0 then (e <<< k.toNat) >>> (512 : Nat) else (e >>> (512 : Nat)) >>> (-k).toNat

/-- ln(m / 2^s) for m > 0, in p bits. -/
def fxLn (p : Nat) (m s : Nat) : Int :=
  let e : Nat := Nat.log2 m
  let q := p + 32
  -- m = f * 2^e with 1 ≤ f < 2
  let f : Int := ((m <<< q : Nat) : Int) >>> e
  let z := fxDiv q (f - fxOne q) (f + fxOne q)
  (2 * fxAtanh q z + ((e : Int) - (s : Int)) * fxLn2 q) >>> (32 : Nat)

/-- arctan(1/n) by its alternating series. -/
def fxAtanInv (p : Nat) (n2 : Int) : Nat → Nat → Int → Int → Int
  | 0, _, _, acc => acc
  | m + 1, k, t, acc =>
    fxAtanInv p n2 m (k + 1) (t / n2) (if k % 2 = 0 then acc + t / ((2 * k + 1 : Nat) : Int) else acc - t / ((2 * k + 1 : Nat) : Int))

/-- π by Machin's formula. -/
def fxPi (p : Nat) : Int :=
  4 * (4 * fxAtanInv p 25 p 0 (fxOne p / 5) 0 - fxAtanInv p (239 * 239) p 0 (fxOne p / 239) 0)

def fxSqrt (p : Nat) (x : Int) : Int := (isqrt ((x.toNat) <<< p) : Int)

/-- erf(x) = 2/√π · e^(-x²) · Σ 2^k x^(2k+1) / (1·3·…·(2k+1)). -/
def fxErfSeries (p : Nat) (x2 : Int) : Nat → Nat → Int → Int → Int
  | 0, _, _, acc => acc
  | n + 1, k, t, acc => fxErfSeries p x2 n (k + 1) (fxMul p t (2 * x2) / ((2 * k + 3 : Nat) : Int)) (acc + t)

def fxErf (p : Nat) (x : Int) : Int :=
  let q := p + 128
  let x' := x <<< (128 : Nat)
  let x2 := fxMul q x' x'
  let s := fxErfSeries q x2 (p + 256) 0 x' 0
  (fxDiv q (2 * fxMul q (fxExp q (-x2)) s) (fxSqrt q (fxPi q))) >>> (128 : Nat)

def fxTanh (p : Nat) (x : Int) : Int :=
  let e := fxExp p (-2 * (x.natAbs : Int))
  let t := fxDiv p (fxOne p - e) (fxOne p + e)
  if x < 0 then -t else t

def fxSigmoid (p : Nat) (x : Int) : Int :=
  let e := fxExp p (-(x.natAbs : Int))
  let s := fxDiv p (fxOne p) (fxOne p + e)
  if x < 0 then fxMul p e s else s

/-- The exact functions of Table 4-11 in fixed point: index 0x03-0x09, `d` true for the derivative. -/
def fxAct (p idx : Nat) (d : Bool) (x : Int) : Int :=
  let one := fxOne p
  if idx = 3 then
    let phi := (one + fxErf p (fxDiv p x (fxSqrt p (2 * one)))) / 2
    if d then phi + fxDiv p (fxMul p x (fxExp p (-(fxMul p x x) / 2))) (fxSqrt p (2 * fxPi p))
    else fxMul p x phi
  else if idx = 4 then
    let c := fxSqrt p (fxDiv p (2 * one) (fxPi p))
    let x2 := fxMul p x x
    let u := fxMul p c (x + fxMul p x2 x * 44715 / 1000000)
    -- (1 + tanh u) / 2 = 1 / (1 + e^(-2u)); 1 - tanh² u = 4 s (1 - s)
    let s := fxSigmoid p (2 * u)
    if d then s + fxMul p (fxMul p (fxMul p (2 * x) (fxMul p s (fxSigmoid p (-2 * u)))) c) (one + x2 * 134145 / 1000000)
    else fxMul p x s
  else if idx = 5 then
    let s := fxSigmoid p x
    if d then fxMul p s (one + fxMul p x (fxSigmoid p (-x))) else fxMul p x s
  else if idx = 6 then
    let s := fxSigmoid p x
    if d then fxMul p s (fxSigmoid p (-x)) else s
  else if idx = 7 then
    if d then 4 * fxMul p (fxSigmoid p (2 * x)) (fxSigmoid p (-2 * x)) else fxTanh p x
  else if idx = 8 then
    -- ln(1 + e^x) = max(x, 0) + ln(1 + e^(-|x|))
    if d then fxSigmoid p x
    else (if x > 0 then x else 0) + fxLn p ((one + fxExp p (-(x.natAbs : Int))).toNat) p
  else
    if d then (if x ≥ 0 then one else fxExp p x) else (if x ≥ 0 then x else fxExp p x - one)

/-- Rounds the fixed-point value to binary32, and whether both ends of its error interval agree. -/
def fxRound (p : Nat) (v : Int) : W32 × Bool :=
  let r (w : Int) : W32 := ratio32 (decide (w < 0)) (w.natAbs <<< 149) (2 ^ p)
  let e : Int := ((1 <<< (p / 2) : Nat) : Int)
  (r v, decide (r (v - e) = r (v + e)))

/-- Evaluates at growing precision until the rounding is decided. -/
def fxDecide (f : Nat → Int) : Nat → Nat → W32
  | 0, p => (fxRound p (f p)).1
  | n + 1, p => let r := fxRound p (f p); if r.2 then r.1 else fxDecide f n (2 * p)

/-- A fixed-point integer from ± num / den. -/
def fxOfRat (p : Nat) (neg : Bool) (num den : Nat) : Int :=
  let v : Int := ((num <<< p) / den : Nat)
  if neg then -v else v

/-- VEXP (R73). -/
def fexp (a : W32) : W32 :=
  if isNan32 a then nan32
  else if isInf32 a then (if isNeg32 a then 0 else inf32 false)
  else if isZero32 a then one32
  else if flt 0x42C80000 a then inf32 false
  else if flt a 0xC2DC0000 then 0
  else fxDecide (fun p => fxExp p (fxOfRat p (isNeg32 a) (codeMag fmtF32 (mag32 a)) (2 ^ 149))) 4 512

/-- VLOG (R73). -/
def flog (a : W32) : W32 :=
  if isNan32 a then nan32
  else if isZero32 a then inf32 true
  else if isNeg32 a then nan32
  else if isInf32 a then inf32 false
  else if a = one32 then 0
  else fxDecide (fun p => fxLn p (codeMag fmtF32 (mag32 a)) 149) 4 256

/-- rne32(g(x)) of R86 at the exact real x = ± num/den. At 0 the exact functions have exact values. -/
def actRne (idx : Nat) (d : Bool) (neg : Bool) (num den : Nat) : W32 :=
  if num = 0 ∧ !d ∧ (idx = 3 ∨ idx = 4 ∨ idx = 5 ∨ idx = 7 ∨ idx = 9) then 0
  else if idx = 9 ∧ !neg then (if d then one32 else ratio32 false (num <<< 149) den)
  else fxDecide (fun p => fxAct p idx d (fxOfRat p neg num den)) 4 256

/-- Range and outer lines of a built-in pair (Table 4-5): LO, HI, then A_LO, B_LO, A_HI, B_HI of f or of f′. -/
def builtinLines (idx : Nat) (d : Bool) : Int × Int × W32 × W32 × W32 × W32 :=
  let (lo, hi) : Int × Int :=
    if idx = 3 ∨ idx = 4 ∨ idx = 7 then (-8, 8) else if idx = 5 then (-20, 20) else (-16, 16)
  if d then
    (lo, hi, 0, 0, 0, if idx = 6 ∨ idx = 7 then 0 else one32)
  else if idx = 6 then (lo, hi, 0, 0, 0, one32)
  else if idx = 7 then (lo, hi, 0, 0xBF800000, 0, one32)
  else if idx = 9 then (lo, hi, 0, 0xBF800000, one32, 0)
  else (lo, hi, 0, 0, one32, 0)

/-- A binary32 from an integer. -/
def f32OfInt (i : Int) : W32 := ratio32 (decide (i < 0)) (i.natAbs <<< 149) 1

/-- SCALE of a built-in table: fl(1024 / (HI − LO)). -/
def builtinScale (idx : Nat) : W32 :=
  let l := builtinLines idx false
  fdiv 0x44800000 (f32OfInt (l.2.1 - l.1))

/-- C0, C1, C2 of segment `i` of a built-in table (R86). -/
def builtinCoef (idx : Nat) (d : Bool) (i : Nat) : W32 × W32 × W32 :=
  let l := builtinLines idx d
  -- 1 / SCALE = 2^149 / s where s counts steps of 2^-149
  let s := codeMag fmtF32 (mag32 (builtinScale idx))
  -- x = LO + j/2 * h, as a rational over 2 * s
  let at_ (j : Nat) : W32 :=
    let v : Int := l.1 * (2 * s : Nat) + (j * 2 ^ 149 : Nat)
    actRne idx d (decide (v < 0)) v.natAbs (2 * s)
  let y0 := at_ (2 * i)
  let y1 := at_ (2 * i + 1)
  let y2 := at_ (2 * i + 2)
  let m (k : Nat) (n : Bool) (y : W32) : XVal :=
    match x32 y with
    | .fin a num sh => .fin (a != n) (k * num) sh
    | v => v
  (y0, rne32 (xadd (xadd (m 4 false y1) (m 3 true y0)) (m 1 true y2)),
   rne32 (xadd (xadd (m 2 false y0) (m 4 true y1)) (m 2 false y2)))

end Sys2Proof.Machine
end

