-- ==== Sys2Proof/Machine/Tables.lean ====
section
/-!
DEFINITION. Activation and derivative tables (R83-R86): the built-in pairs, the loadable slots, and evaluation.
-/
namespace Sys2Proof.Machine

/-- A table's range, scale and lines, and its coefficients by segment. -/
structure TabHead where
  lo : W32
  hi : W32
  scale : W32
  aLo : W32
  bLo : W32
  aHi : W32
  bHi : W32
  deriving DecidableEq, Repr

/-- Words from the start of an image to its derivative table (R84). -/
def derivWords : Nat := 0x1010

/-- Heads of the built-in pairs (Table 4-5). -/
def builtinHead (idx : Nat) (d : Bool) : TabHead :=
  let l := builtinLines idx d
  ⟨f32OfInt l.1, f32OfInt l.2.1, builtinScale idx, l.2.2.1, l.2.2.2.1, l.2.2.2.2.1, l.2.2.2.2.2⟩

/-- Head of a table in an image (Table 4-6). -/
def imageHead (im : List W32) (d : Bool) : TabHead :=
  let o := if d then derivWords else 0
  ⟨im.getD o 0, im.getD (o + 1) 0, im.getD (o + 2) 0, im.getD (o + 3) 0, im.getD (o + 4) 0, im.getD (o + 5) 0, im.getD (o + 6) 0⟩

/-- Coefficients of a segment in an image. -/
def imageCoef (im : List W32) (d : Bool) (i : Nat) : W32 × W32 × W32 :=
  let o := (if d then derivWords else 0) + 16 + 4 * i
  (im.getD o 0, im.getD (o + 1) 0, im.getD (o + 2) 0)

/-- line of R85 -/
def tabLine (a b x : W32) : W32 := if isZero32 a then b else ffma a x b

/-- The segment number and the fraction of u (R85): i = min(⌊u⌋, 1023), f = u − i. -/
def tabSegment (u : W32) : Nat × W32 :=
  if isInf32 u then (1023, u)
  else
    let m := codeMag fmtF32 (mag32 u)
    let i := min (m / 2 ^ 149) 1023
    (i, ratio32 false (m - i * 2 ^ 149) 1)

/-- eval of R85 -/
def tabEval (h : TabHead) (coef : Nat → W32 × W32 × W32) (x : W32) : W32 :=
  if isNan32 x then nan32
  else if flt x h.lo then tabLine h.aLo h.bLo x
  else if !flt x h.hi then tabLine h.aHi h.bHi x
  else
    let s := tabSegment (fmul (fsub x h.lo) h.scale)
    let c := coef s.1
    ffma s.2 (ffma s.2 c.2.2 c.2.1) c.1

def leakySlope : W32 := 0x3C23D70A

/-- The kinds "exact" (Table 4-5). -/
def exactFn (idx : Nat) (d : Bool) (x : W32) : W32 :=
  if idx = 0 then (if d then one32 else if isNan32 x then nan32 else x)
  else if idx = 1 then (if d then (if flt 0 x then one32 else 0) else fmax x 0)
  else if d then (if fle 0 x then one32 else leakySlope)
  else if fle 0 x then x else fmul x leakySlope

/-- f (or f′) of table index `idx` in a tile. -/
def actFn (slots : FMap (List W32)) (idx : Nat) (d : Bool) (x : W32) : W32 :=
  if idx ≤ 2 then exactFn idx d x
  else if idx ≤ 9 then tabEval (builtinHead idx d) (builtinCoef idx d) x
  else
    let im := fget [] slots (idx - 0x80)
    tabEval (imageHead im d) (imageCoef im d) x

/-- Words of one table of a built-in pair as VTREAD copies it out (R86). -/
def builtinWords (idx : Nat) (d : Bool) : List W32 :=
  let h := builtinHead idx d
  [h.lo, h.hi, h.scale, h.aLo, h.bLo, h.aHi, h.bHi] ++ List.replicate 9 0 ++
    (List.range 1024).flatMap fun i => let c := builtinCoef idx d i; [c.1, c.2.1, c.2.2, 0]

/-- The image of a pair, 8,224 words. -/
def tableImage (slots : FMap (List W32)) (idx : Nat) : List W32 :=
  if idx ≤ 9 then builtinWords idx false ++ builtinWords idx true else fget [] slots (idx - 0x80)

/-- Whether one table of an image is valid (R84). -/
def tableValid (w : List W32) : Bool :=
  let f := fun (i : Nat) => w.getD i 0
  isFin32 (f 0) && isFin32 (f 1) && flt (f 0) (f 1) && isFin32 (f 2) && flt 0 (f 2)
    && isFin32 (f 3) && isFin32 (f 4) && isFin32 (f 5) && isFin32 (f 6)
    && ((w.drop 7).take 9).all (· == 0)
    && ((w.drop 16).zipIdx.all fun e => if e.2 % 4 = 3 then e.1 == 0 else isFin32 e.1)

def imageValid (w : List W32) : Bool := tableValid (w.take derivWords) && tableValid (w.drop derivWords)

end Sys2Proof.Machine
end

