-- ==== Sys2Proof/Machine/Matrix.lean ====
section
/-!
DEFINITION. Matrix operations (chapter 3, R34-R39, R90, R294-R296): the start of an operation, the drain of an output
block, the epilogue beats and the end. Operands are read as each block drains; the rows of a tap are taken at the
operation's start, and a block drains only once the rows of its operand have reached the Grinder (R27; log entry 14, DESIGN
CHOICE). The command names the block that drains: the spec gives no order of blocks (log entry 103, DESIGN CHOICE).
-/
namespace Sys2Proof.Machine

/-! ### Shapes (Tables 2-3, 3-2, 3-3, 3-4) -/

/-- Products per cell per tc. -/
def fmtP (f : Nat) : Nat := if f = 0 ∨ f = 1 then 1 else if f = 6 then 4 else 2
/-- p of two operands: the smaller (R53). -/
def matP (w : List W32) : Nat := min (fmtP (dfield w 1 0 4)) (fmtP (dfield w 1 4 4))
def gangRows (g : Nat) : Nat := if g = 0 then 32 else if g = 3 then 128 else 64
def gangCols (g : Nat) : Nat := if g = 0 ∨ g = 1 then 32 else if g = 2 then 64 else 128
/-- K depth d of a gang (R36). -/
def gangDepth (g : Nat) : Nat := if g = 0 then 1 else if g = 3 then 4 else 2

/-- Rows and columns of C. -/
def matM (w : List W32) : Nat := dfield w 2 0 24
def matN (w : List W32) : Nat := dfield w 3 0 24
def matK (w : List W32) : Nat := dfield w 4 0 24

/-- Output blocks of an operation. -/
def matBlocks (w : List W32) : Nat :=
  let g := dfield w 0 10 2
  let df := dfield w 0 8 2
  if df = 1 then cdiv (matM w) (gangRows g) * cdiv (matN w) (gangCols g)
  else if df = 0 then cdiv (matN w) (gangCols g) else cdiv (matM w) (gangCols g)

/-- First row, rows, first column and columns of output block `b`. -/
def matBlock (w : List W32) (b : Nat) : Nat × Nat × Nat × Nat :=
  let g := dfield w 0 10 2
  let df := dfield w 0 8 2
  let cut := fun (o s n : Nat) => min s (n - o)
  if df = 1 then
    let nb := cdiv (matN w) (gangCols g)
    let r0 := b / nb * gangRows g
    let c0 := b % nb * gangCols g
    (r0, cut r0 (gangRows g) (matM w), c0, cut c0 (gangCols g) (matN w))
  else if df = 0 then (0, matM w, b * gangCols g, cut (b * gangCols g) (gangCols g) (matN w))
  else (b * gangCols g, cut (b * gangCols g) (gangCols g) (matM w), 0, matN w)

/-! ### Operands -/

/-- Transposes rows of length `n`. -/
def transpose {α : Type} (n : Nat) (d : α) (rows : List (List α)) : List (List α) :=
  (List.range n).map fun j => rows.map fun r => r.getD j d

/-- Rows of A for output rows `[r0, r0+rn)`, each along K. -/
def rowsA (d : Dev) (t : TileId) (w : List W32) (r0 rn : Nat) : List (List XVal) :=
  let f := dfield w 1 0 4
  let el := bitAt (wordAt w 1) 12
  let a := dfield w 5 0 21
  let st := dfield w 6 0 21
  let k := matK w
  if dfield w 0 13 2 = 1 then
    transpose rn .nan ((List.range k).map fun i => ((rowVals f el (spRead d t (a + i * st) (rowBytes f (matM w))) [] (matM w)).drop r0).take rn)
  else (List.range rn).map fun i =>
    rowVals f el (spRead d t (a + (r0 + i) * st) (rowBytes f k)) (spRead d t (dfield w 11 0 21 + (r0 + i) * cdiv k 32) (cdiv k 32)) k

/-- Columns of B for output columns `[c0, c0+cn)`, each along K. Its MX scales lie along K: block b of column n at
B_SCALE_ADDR + b·N + n (log entry 15, DESIGN CHOICE). -/
def colsB (d : Dev) (t : TileId) (w : List W32) (c0 cn : Nat) : List (List XVal) :=
  let f := dfield w 1 4 4
  let el := bitAt (wordAt w 1) 13
  let a := dfield w 7 0 21
  let st := dfield w 8 0 21
  let k := matK w
  let n := matN w
  if dfield w 0 13 2 = 2 then
    (List.range cn).map fun j => rowVals f el (spRead d t (a + (c0 + j) * st) (rowBytes f k)) [] k
  else
    transpose cn .nan ((List.range k).map fun i =>
      let codes := ((elemCodes (fmtBits f) (spRead d t (a + i * st) (rowBytes f n)) n).drop c0).take cn
      let sc := spRead d t (dfield w 12 0 21 + i / 32 * n + c0) (if isMx f then cn else 0)
      codes.zipIdx.map fun e => elemVal f el ((sc.getD e.2 0).toNat) e.1)

/-- The stored code of element (m, k) of A, and of element (k, n) of B; 0 beyond the operand. -/
def codeA (d : Dev) (t : TileId) (w : List W32) (m k : Nat) : Nat :=
  let f := dfield w 1 0 4
  let x := fun (row col len : Nat) => (elemCodes (fmtBits f) (spRead d t (dfield w 5 0 21 + row * dfield w 6 0 21) (rowBytes f len)) len).getD col 0
  if m ≥ matM w ∨ k ≥ matK w then 0 else if dfield w 0 13 2 = 1 then x k m (matM w) else x m k (matK w)
def codeB (d : Dev) (t : TileId) (w : List W32) (k n : Nat) : Nat :=
  let f := dfield w 1 4 4
  let x := fun (row col len : Nat) => (elemCodes (fmtBits f) (spRead d t (dfield w 7 0 21 + row * dfield w 8 0 21) (rowBytes f len)) len).getD col 0
  if k ≥ matK w ∨ n ≥ matN w then 0 else if dfield w 0 13 2 = 2 then x n k (matK w) else x k n (matN w)

/-- Byte ranges that a block's operands occupy: A, B and their scales. -/
def operandSpans (w : List W32) (r0 rn c0 cn : Nat) : List (Nat × Nat) :=
  let fa := dfield w 1 0 4
  let fb := dfield w 1 4 4
  let k := matK w
  let part := fun (f a st rows o n : Nat) => (List.range rows).map fun i =>
    (a + i * st + o * fmtBits f / 8, cdiv ((o + n) * fmtBits f) 8 - o * fmtBits f / 8)
  (if dfield w 0 13 2 = 1 then part fa (dfield w 5 0 21) (dfield w 6 0 21) k r0 rn
   else part fa (dfield w 5 0 21 + r0 * dfield w 6 0 21) (dfield w 6 0 21) rn 0 k)
  ++ (if dfield w 0 13 2 = 2 then part fb (dfield w 7 0 21 + c0 * dfield w 8 0 21) (dfield w 8 0 21) cn 0 k
      else part fb (dfield w 7 0 21) (dfield w 8 0 21) k c0 cn)
  ++ (if isMx fa then [(dfield w 11 0 21 + r0 * cdiv k 32, rn * cdiv k 32)] else [])
  ++ (if isMx fb then (List.range (cdiv k 32)).map fun i => (dfield w 12 0 21 + i * matN w + c0, cn) else [])

/-- The first poisoned line that some byte range of a tile touches. -/
def spansPoison (d : Dev) (t : TileId) (l : List (Nat × Nat)) : Option Nat := firstSome (fun e => spPoisonAt d t e.1 e.2) l

/-- Allocation and offset that a record names for a poisoned scratchpad line (R209). -/
def poisonNames (d : Dev) (t : TileId) (a : Nat) : Nat × Nat :=
  match allocAtScratch d t a with
  | some (i, k) => (i, a - k.spAddr)
  | none => (0, a)

/-! ### Arithmetic (R34-R38) -/

/-- The block sum of one K-block (R35); an INT8 sum of zero is +0. -/
def blockSum (int8 : Bool) (a b : List XVal) : W32 :=
  let s := rne32 (xsum (List.zipWith xmul a b))
  if int8 && isZero32 s then 0 else s

/-- The block sums of one element along K. -/
def blockSums (int8 : Bool) (kb : Nat) (a b : List XVal) : List W32 :=
  List.zipWith (blockSum int8) (chunksOf kb a.length a) (chunksOf kb b.length b)

/-- Combines block sums with the accumulator (R36): one by one, or in runs of `dep` first summed on their own. -/
def combine (os : Bool) (dep : Nat) (acc : W32) (b : List W32) : W32 :=
  if os then b.foldl fadd acc
  else (chunksOf dep b.length b).foldl (fun acc r => match r with
    | [] => acc
    | x :: xs => fadd acc (xs.foldl fadd x)) acc

/-- One result element from a row of A, a column of B and the accumulator's start. -/
def matElem (w : List W32) (acc : W32) (a b : List XVal) : W32 :=
  combine (dfield w 0 8 2 == 1) (gangDepth (dfield w 0 10 2)) acc (blockSums (dfield w 1 0 4 == 7) (32 * matP w) a b)

/-- K elements of one visit (R58); an output-stationary block has one visit of all of K. -/
def visitK (w : List W32) : Nat := if dfield w 0 8 2 = 1 then matK w else gangRows (dfield w 0 10 2) * matP w
/-- K visits of one output block. -/
def visits (w : List W32) : Nat := cdiv (matK w) (visitK w)

/-- A result element after the first `v` visits: `acc` where none has run. -/
def elemAfter (w : List W32) (acc : W32) (a b : List XVal) (v : Nat) : W32 :=
  if v = 0 then acc else matElem w acc (a.take (v * visitK w)) (b.take (v * visitK w))

/-- An upset of an operation's arithmetic: in visit `visit` it flips the bits `mask` of the result at a row and column of a block. -/
structure Upset where
  visit : Nat
  row : Nat
  col : Nat
  mask : W32
  deriving DecidableEq, Repr

/-- The result at row `i` and column `j` of a block after the first `v` visits: later visits go on from a flipped value. -/
def elemRun (w : List W32) (up : Option Upset) (i j : Nat) (acc : W32) (a b : List XVal) (v : Nat) : W32 :=
  match up with
  | none => elemAfter w acc a b v
  | some u =>
    if v ≤ u.visit ∨ u.row ≠ i ∨ u.col ≠ j then elemAfter w acc a b v
    else
      let n := (u.visit + 1) * visitK w
      elemAfter w (elemAfter w acc a b (u.visit + 1) ^^^ u.mask) (a.drop n) (b.drop n) (v - (u.visit + 1))

/-! ### The checksum lane (R294, R295) -/

def xabs : XVal → XVal
  | .fin _ n s => .fin false n s
  | .inf _ => .inf false
  | .nan => .nan

/-- τ of a column or row sum: 2⁻²³ · r · α + 2⁻¹⁴⁸ · r · |G|. -/
def lanePermits (r size : Nat) (alpha : XVal) : XVal :=
  match alpha with
  | .fin _ n s => xadd (.fin false (n * r) (s + 23)) (.fin false (2 * r * size) 0)
  | x => x

/-- The lane's verdict on one sum of a group: `c0` and `c` are the starting and the written values of its elements, `ab` the
operands of each. Flagged, not flagged, or, between τ and 2 τ, left to the part. -/
def laneVerdict (r : Nat) (c0 c : List W32) (ab : List (List XVal × List XVal)) : Option Bool :=
  let prods := ab.flatMap fun p => List.zipWith xmul p.1 p.2
  let kappa := xsum (c.map x32)
  let rho := xadd (xsum (c0.map x32)) (xsum prods)
  let alpha := xadd (xsum (c0.map fun v => xabs (x32 v))) (xsum (prods.map xabs))
  if c.any fun v => !isFin32 v then (if xlt alpha (.fin false (2 ^ 276) 0) then some true else none)
  else
    let diff := xabs (xsub kappa rho)
    let tau := lanePermits r c.length alpha
    if !xlt tau diff then some false else if xlt (xadd tau tau) diff then some true else none

/-- Roundings that each element passes in a check group. -/
def laneRoundings (w : List W32) : Nat :=
  if dfield w 0 8 2 = 1 then 2 * cdiv (matK w) (32 * matP w) else 2 * gangDepth (dfield w 0 10 2)

/-- Rows of a check group (R294): an output tile, or 64 consecutive output rows. -/
def groupRows (w : List W32) (n : Nat) : Nat := if dfield w 0 8 2 = 1 then n else 64

/-- A block as it is worked on: rows of A, columns of B, starting values row by row, columns, and the upset that strikes it. -/
structure Block where
  as : List (List XVal)
  bs : List (List XVal)
  start : List W32
  cn : Nat
  up : Option Upset
  deriving DecidableEq, Repr

/-- A block's result at a row and column after `v` visits. -/
def Block.elem (k : Block) (w : List W32) (v i j : Nat) : W32 :=
  elemRun w k.up i j (k.start.getD (i * k.cn + j) 0) (k.as.getD i []) (k.bs.getD j []) v

/-- The elements of a row or column of an operand in visit `v`. -/
def visitCut (w : List W32) (v : Nat) (l : List XVal) : List XVal := (l.drop (v * visitK w)).take (visitK w)

/-- Whether the group of a block from row `g0` on receives a non-finite input element in visit `v` (R295): of A, of B or as a
starting value. -/
def groupUnchecked (w : List W32) (k : Block) (v g0 : Nat) : Bool :=
  let ga := (k.as.drop g0).take (groupRows w k.as.length)
  ga.any (fun a => (visitCut w v a).any fun x => !xIsFin x) || k.bs.any (fun b => (visitCut w v b).any fun x => !xIsFin x)
    || (List.range ga.length).any fun r => (List.range k.bs.length).any fun c => !isFin32 (k.elem w v (g0 + r) c)

/-- Check groups of a block that receive a non-finite input element. -/
def uncheckedGroups (w : List W32) (k : Block) : Nat :=
  let n := groupRows w k.as.length
  (List.range (visits w)).foldl (fun s v => (List.range (cdiv k.as.length n)).foldl (fun s g => s + b2n (groupUnchecked w k v (g * n))) s) 0

/-- Whether the lane flags the group in which the upset `u` strikes a block. A group with a non-finite input element is not checked.
Only an upset can take a sum beyond τ (R295), so the sums are formed where one has struck. -/
def laneFlags (w : List W32) (k : Block) (u : Upset) : Option Bool :=
  let n := groupRows w k.as.length
  let g0 := u.row / n * n
  let ga := (k.as.drop g0).take n
  let cut := visitCut w u.visit
  let rows := List.range ga.length
  let cols_ := List.range k.bs.length
  if groupUnchecked w k u.visit g0 then some false
  else
    let at_ := fun (v r c : Nat) => k.elem w v (g0 + r) c
    let col := laneVerdict (laneRoundings w) (rows.map fun r => at_ u.visit r u.col) (rows.map fun r => at_ (u.visit + 1) r u.col)
      (ga.map fun a => (cut a, cut (k.bs.getD u.col [])))
    let row := laneVerdict (laneRoundings w) (cols_.map fun c => at_ u.visit (u.row - g0) c)
      (cols_.map fun c => at_ (u.visit + 1) (u.row - g0) c) (k.bs.map fun b => (cut (k.as.getD u.row []), cut b))
    match col, row with
    | some true, _ => some true
    | _, some true => some true
    | some false, some false => some false
    | _, _ => none

/-! ### The destination -/

def matDest (t : TileId) (w : List W32) : TileId := (tileOfCode t (dfield w 9 21 7) (bitAt (wordAt w 9) 28)).getD t

/-- Address of element (r, c) of C as stored. -/
def cAddr (w : List W32) (r c : Nat) : Nat := dfield w 9 0 21 + r * dfield w 10 0 21 + c * fmtBits (dfield w 1 8 4) / 8

/-- Address of the MX scale of element (r, c) of C (R434). -/
def cScaleAddr (w : List W32) (r c : Nat) : Nat :=
  dfield w 9 0 21 + r * dfield w 10 0 21 + roundUp (rowBytes (dfield w 1 8 4) (matN w)) 64 + c / 32

/-- Whether EXACT_RED stands on C's allocation, and whether all of C lies in a Carafe allocation of its tile. -/
def cAlloc (d : Dev) (t : TileId) (w : List W32) : Bool × Bool :=
  match allocAtScratch d (matDest t w) (dfield w 9 0 21) with
  | some (_, a) => (hasExact a, a.kind == 1
      && decide (spanEnd (dfield w 9 0 21) (matM w) (dfield w 10 0 21) (cRowBytes (dfield w 1 8 4) (matN w)) ≤ a.spAddr + a.size))
  | none => (false, false)

/-- Whether the write-back adds into C (R66). -/
def addsIntoC (d : Dev) (t : TileId) (w : List W32) : Bool :=
  let c := cAlloc d t w
  (raisedMode (dfield w 0 16 2) c.1).1 == 0 && dfield w 0 15 1 == 0 && dfield w 1 8 4 == 8 && c.2

/-- The bytes that a block's write-back stores, row by row. -/
def blockBytes (w : List W32) (r0 c0 cn : Nat) (vals : List W32) : List (Nat × List Byte) :=
  let f := dfield w 1 8 4
  let el := bitAt (wordAt w 1) 14
  (chunksOf cn vals.length vals).zipIdx.flatMap fun e =>
    let o := rowOut f el e.1
    [(cAddr w (r0 + e.2) c0, o.1)] ++ (if isMx f then [(cScaleAddr w (r0 + e.2) c0, o.2)] else [])

/-- Marks C's region INVALID (R71, R197). -/
def invalidateC (d : Dev) (t : TileId) (w : List W32) : Dev :=
  (List.range (matM w)).foldl (fun d r => spInvalidate d (matDest t w) (cAddr w r 0) (cRowBytes (dfield w 1 8 4) (matN w))) d

/-- An operation ends with an error of 0x10 or above: C's region turns INVALID with ACCUM = 1; no signal (R71). -/
def failMatrix (d : Dev) (t : TileId) (e : QEnt) (code alloc off : Nat) : Dev :=
  let d := if dfield e.words 0 15 1 = 1 ∧ code ≠ 0x12 then invalidateC d t e.words else d
  endEnt d t { e with phase := .done, code := code, count := e.blks.length, alloc := alloc, off := off } false

/-- Writes a block's final values, or adds them (R45, R66); a write that covers a poisoned line in part, or an add to
one, ends the operation with OPERAND_POISON (Table 3-9). A mode raised to EXACT with an FMT_C other than binary32 writes values
narrowed to FMT_C (log entry 102, DESIGN CHOICE). -/
def writeBlock (d : Dev) (t : TileId) (e : QEnt) (blk : Nat) (vals : List W32) : Dev :=
  let w := e.words
  let u := matDest t w
  let (r0, _, c0, cn) := matBlock w blk
  let add := addsIntoC d t w
  let old := fun (r : Nat) => row32 8 false (spRead d u (cAddr w (r0 + r) c0) (4 * cn)) [] cn
  let vals' := if add then (chunksOf cn vals.length vals).zipIdx.flatMap fun x => List.zipWith fadd (old x.2) x.1 else vals
  let out := blockBytes w r0 c0 cn vals'
  let bad := firstSome (fun (x : Nat × List Byte) => if add then spPoisonAt d u x.1 x.2.length else spPartial d u x.1 x.2.length) out
  let e := { e with status := e.status ||| seenAll vals ||| (raisedMode 0 (cAlloc d t w).1).2, bufBlk := none, buf := [], bufPos := 0 }
  match bad with
  | some a => let (i, o) := poisonNames d u a; failMatrix d t e 0x11 i o
  | none =>
    let d := out.foldl (fun d x =>
      let d := spWrite d u x.1 x.2
      if dfield w 0 15 1 = 0 then spValidate d u x.1 x.2.length else d) d
    modEnt d t 0 e.id fun _ => { e with blks := e.blks ++ [blk], count := e.blks.length + 1 }

/-! ### What stands in the arrays (R58, R60, R61); the places of operands in them are log entry 101, DESIGN CHOICE -/

/-- The arrays of an operation: tile, array, and the first gang row and column that it holds. -/
def gangArrays (t : TileId) (w : List W32) : List (TileId × Nat × Nat × Nat) :=
  let g := dfield w 0 10 2
  if g = 3 then (List.range 16).map fun i => (tileOfNat (quadBase t + i / 4), i % 4, i / 4 * 32, i % 4 * 32)
  else ((List.range 4).filter fun a => bitAt (dfield w 0 24 4) a).zipIdx.map fun e =>
    (t, e.1, e.2 / (gangCols g / 32) * 32, e.2 % (gangCols g / 32) * 32)

/-- What the cell at gang row `r` and column `c` holds in visit `v` of a block: p codes along K of the stationary operand, the
lowest first, or the accumulator of its element. -/
def cellVal (d : Dev) (t : TileId) (w : List W32) (r0 c0 cn : Nat) (vals : List W32) (v r c : Nat) : Nat :=
  let k := fun (i : Nat) => v * visitK w + r * matP w + i
  let pack := fun (bits : Nat) (f : Nat → Nat) => (List.range (matP w)).foldr (fun i n => f i % 2 ^ bits + 2 ^ bits * n) 0
  if dfield w 0 8 2 = 1 then (if c < cn then (vals.getD (r * cn + c) 0).toNat else 0)
  else if dfield w 0 8 2 = 0 then (if c < cn then pack (fmtBits (dfield w 1 4 4)) fun i => codeB d t w (k i) (c0 + c) else 0)
  else pack (fmtBits (dfield w 1 0 4)) fun i => codeA d t w (r0 + c) (k i)

/-- A tile loads into the idle register of array `a`, which is the active one from then on (R58). -/
def loadArray (k : Tile) (a : Nat) (cells : List Nat) : Tile :=
  let bank := 1 - fget 0 k.active a
  { k with cells := fput zeroCells k.cells (2 * a + bank) cells, active := fput 0 k.active a bank }

/-- The tiles of a block's K visits load in turn (R58); only the last two of them still stand in the registers. -/
def loadCells (d : Dev) (t : TileId) (w : List W32) (r0 c0 cn : Nat) (vals : List W32) : Dev :=
  let tile := fun (v fr fc : Nat) => (List.range 1024).map fun i => cellVal d t w r0 c0 cn vals v (fr + i / 32) (fc + i % 32)
  (gangArrays t w).foldl (fun d' x => modTile d' x.1 fun k =>
    ((List.range (visits w)).drop (visits w - 2)).foldl (fun k v => loadArray k x.2.1 (tile v x.2.2.1 x.2.2.2))
      { k with active := fput 0 k.active x.2.1 ((fget 0 k.active x.2.1 + (visits w - 2)) % 2) }) d

/-- The tiles of a block's transposed operand pass through the two buffers in turn, along K first: 64 rows of 64 elements, or of 128
elements of 8 bits (R61). -/
def fillTransBuf (d : Dev) (t : TileId) (w : List W32) (r0 rn c0 cn : Nat) : Dev :=
  let tr := dfield w 0 13 2
  if tr = 0 then d
  else
    let bits := fmtBits (if tr = 1 then dfield w 1 0 4 else dfield w 1 4 4)
    let wide := if bits = 16 then 64 else 128
    let (o, n) := if tr = 1 then (r0, rn) else (c0, cn)
    let ks := cdiv (matK w) wide
    let total := cdiv n 64 * ks
    let elem := fun (x k : Nat) => if x ≥ o + n then 0 else if tr = 1 then codeA d t w x k else codeB d t w k x
    ((List.range total).drop (total - 2)).foldl (fun d' i => modTile d' t fun q => { q with
      transBuf := fput zeroBuf q.transBuf ((q.transNext + i) % 2) ((List.range (64 * wide)).flatMap fun j =>
        natLe (bits / 8) (elem (o + i / ks * 64 + j / wide) (i % ks * wide + j % wide))) }) d
      |> fun d' => modTile d' t fun q => { q with transNext := (q.transNext + total) % 2 }

/-- The skewed feed has read ahead (R60): each row's queue holds the first entries that block 0 streams to it, at most 16. -/
def fillFeed (d : Dev) (t : TileId) (w : List W32) : Dev :=
  if dfield w 0 12 1 = 0 then d
  else
    let (r0, _, _, _) := matBlock w 0
    let bits := fmtBits (dfield w 1 0 4)
    let n := if dfield w 0 8 2 = 1 then cdiv (matK w) (matP w) else matM w
    let entry := fun (r i : Nat) => (List.range (matP w)).foldr (fun e acc =>
      (if dfield w 0 8 2 = 1 then codeA d t w (r0 + r) (i * matP w + e) else codeA d t w i (r * matP w + e)) % 2 ^ bits + 2 ^ bits * acc) 0
    (gangArrays t w).foldl (fun d' x => modTile d' x.1 fun k => { k with
      feedQ := (List.range 32).foldl (fun q r => fput [] q (x.2.1 * 32 + r) ((List.range (min 16 n)).map (entry r))) k.feedQ }) d

/-- The queues of an operation's rows are empty once its block has drained. -/
def drainFeed (d : Dev) (t : TileId) (w : List W32) : Dev :=
  if dfield w 0 12 1 = 0 then d
  else (gangArrays t w).foldl (fun d x => modTile d x.1 fun k => { k with feedQ := fclear k.feedQ (x.2.1 * 32) (x.2.1 * 32 + 32) }) d

/-! ### MATRIX_PRODUCT and QUAD_GANG_START (R57, R65, R110) -/

/-- Rows that a tap delivers: of the stored operand A (TAP_FWD), or of the operand after transposition (TAP_BWD). Rows from the
first one that touches a poisoned line on are not delivered: the operation ends there (log entry 104, DESIGN CHOICE). -/
def tapOf (d : Dev) (t : TileId) (w : List W32) (op : Nat) (bwd : Bool) : Tap :=
  let onA := !bwd || dfield w 0 13 2 == 1
  let f := if onA then dfield w 1 0 4 else dfield w 1 4 4
  let el := if onA then bitAt (wordAt w 1) 12 else bitAt (wordAt w 1) 13
  let a := if onA then dfield w 5 0 21 else dfield w 7 0 21
  let st := if onA then dfield w 6 0 21 else dfield w 8 0 21
  let tr := dfield w 0 13 2
  let stored := if onA then (if tr = 1 then (matK w, matM w) else (matM w, matK w)) else (matN w, matK w)
  let clean := (List.range stored.1).takeWhile fun i => (spPoisonAt d t (a + i * st) (rowBytes f stored.2)).isNone
    && (spPoisonAt d t (dfield w 11 0 21 + i * cdiv stored.2 32) (if isMx f then cdiv stored.2 32 else 0)).isNone
  let rows := (if bwd && clean.length != stored.1 then [] else clean).map fun i =>
    row32 f el (spRead d t (a + i * st) (rowBytes f stored.2)) (spRead d t (dfield w 11 0 21 + i * cdiv stored.2 32) (if isMx f then cdiv stored.2 32 else 0)) stored.2
  let rows := if bwd && !rows.isEmpty then transpose stored.2 0 rows else rows
  let bytes := fun (i : Nat) => spRead d t (a + i * st) (rowBytes f stored.2)
  let bytes := if rows.isEmpty then []
    else if bwd then (transpose stored.2 0 (clean.map fun i => elemCodes (fmtBits f) (bytes i) stored.2)).map (packCodes (fmtBits f))
    else clean.map fun i => bytes i ++ spRead d t (dfield w 11 0 21 + i * cdiv stored.2 32) (if isMx f then cdiv stored.2 32 else 0)
  { stream := dfield w 15 15 5, m := if bwd then stored.2 else stored.1, l := if bwd then stored.1 else stored.2,
    fmt := f, elem := el, src := physOf d t + 256 * dieOf t, rows := rows, bytes := bytes, op := op, bwd := bwd }

def sendTap (d : Dev) (t : TileId) (w : List W32) (op : Nat) (bwd : Bool) : Dev :=
  modCurv d (dfield w 15 12 3) fun c => { c with openRecs := c.openRecs ++ [tapOf d t w op bwd] }

/-- Whether a tap of operation `op` holds its source back (R27): its open record is not admitted yet, or a row below `upto` has
not reached the Grinder. -/
def tapHolds (d : Dev) (w : List W32) (op : Nat) (bwd : Bool) (upto : Nat) : Bool :=
  let c := getCurv d (dfield w 15 12 3)
  let mine := fun (x : Tap) => x.op == op && x.bwd == bwd
  decide (upto > 0) && (c.openRecs.any mine || c.adm.any fun x => mine x.tap && decide (x.row < upto) && !x.tap.rows.isEmpty)

/-- Whether the taps of an operation hold back the drain of a block with output rows `[r0, r0 + rn)` (R27, R110): rows of A
stream whole in weight-stationary dataflow, and a tap whose rows run along K delivers all of them before a block is whole. -/
def tapsHold (d : Dev) (w : List W32) (op r0 rn : Nat) : Bool :=
  let tr := dfield w 0 13 2
  let upto := if dfield w 0 8 2 = 0 then matM w else r0 + rn
  (bitAt (wordAt w 0) 18 && tapHolds d w op false (if tr = 1 then matK w else upto))
    || (bitAt (wordAt w 0) 19 && tapHolds d w op true (if tr = 1 then upto else matK w))

/-- Whether some row of an operation's taps has not been delivered. -/
def tapsOpen (d : Dev) (w : List W32) (op : Nat) : Bool :=
  (bitAt (wordAt w 0) 18 && tapHolds d w op false (2 ^ 24)) || (bitAt (wordAt w 0) 19 && tapHolds d w op true (2 ^ 24))

/-- A VTLOAD ahead of a matrix operation that loads the slot it names (R87). -/
def loadAhead (d : Dev) (t : TileId) (e : QEnt) : Bool :=
  bitAt (wordAt e.words 13) 12 &&
    (getQueue d t 1).any fun v => decide (v.id < e.id) && opcodeOf v.words == 0x60 && dfield v.words 0 15 8 == dfield e.words 13 4 8

/-- Whether the table an operation names is an empty slot (R87). -/
def slotEmpty (d : Dev) (t : TileId) (idx : Nat) : Bool := decide (idx ≥ 0x80) && (fget [] (getTile d t).slots (idx - 0x80)).isEmpty

/-- The start of an operation past WAIT_SEM: an empty slot or an INVALID region ends it; else it runs and its taps send
their rows, the forward tap first (R110). `ecc` is a scratchpad address where an uncorrectable error is met. -/
def startMatrix (d : Dev) (t : TileId) (i : Nat) (quad : Bool) (ecc : Option Nat) : Dev :=
  match (getQueue d t 0)[i]? with
  | none => d
  | some e =>
    let w := e.words
    if e.phase ≠ .ready ∨ isQuad e ≠ quad ∨ loadAhead d t e then d
    else if bitAt (wordAt w 13) 12 && slotEmpty d t (dfield w 13 4 8) then
      endEnt d t { e with phase := .done, code := 2 } false
    else if dfield w 0 15 1 = 1 ∧ (List.range (matM w)).any fun r => spIsInvalid d (matDest t w) (cAddr w r 0) (4 * matN w) then
      failMatrix d t e 0x12 0 0
    else
      let d := match ecc with | some a => if inScratch t a 1 then poisonScratch d t a else d | none => d
      let d := modEnt d t 0 e.id fun e => { e with phase := .running }
      let d := fillFeed d t w
      let d := if bitAt (wordAt w 0) 18 then sendTap d t w e.id false else d
      if bitAt (wordAt w 0) 19 then sendTap d t w e.id true else d

def execMatrixProduct (t : TileId) (i : Nat) (ecc : Option Nat) (s : State) : Host.Outcome State Fault Refusal :=
  run s fun d => if alive d then startMatrix d t i false ecc else d

def execQuadGangStart (t : TileId) (i : Nat) (ecc : Option Nat) (s : State) : Host.Outcome State Fault Refusal :=
  run s fun d => if alive d then startMatrix d t i true ecc else d

/-! ### MATRIX_DRAIN (R37, R68, R90, R294) -/

/-- An operation of the same arrays issued earlier that has not ended: drains keep issue order (R67). -/
def earlierOp (d : Dev) (t : TileId) (e : QEnt) : Bool :=
  (quadTiles t).any fun u => (getQueue d u 0).any fun f => decide (f.id < e.id) && shareArray t u e f

/-- Whether an epilogue is selected. -/
def hasEpilogue (w : List W32) : Bool := dfield w 13 0 4 != 0 || bitAt (wordAt w 13) 12

/-- An upset in a drain: the lane flags its group, or the wrong value stays, as its sums tell (R294-R296). -/
def drainUpset (d : Dev) (w : List W32) (k : Block) (u : Upset) : Bool × Dev :=
  match laneFlags w k u with
  | some b => (b, d)
  | none => let (x, d) := freeNat d; (x % 2 == 1, d)

/-- The tile and array whose lane flags a result at row `i` and column `j` of a block (R296). Gang columns are columns of C in
weight-stationary dataflow and rows of C in input-stationary dataflow; of the arrays along K the first is named (log entry 126,
DESIGN CHOICE). -/
def flaggedArray (t : TileId) (w : List W32) (i j : Nat) : TileId × Nat :=
  let df := dfield w 0 8 2
  let (r, c) := if df = 1 then (i, j) else if df = 0 then (0, j) else (0, i)
  match (gangArrays t w).find? fun x => decide (x.2.2.1 ≤ r) && decide (r < x.2.2.1 + 32) && decide (x.2.2.2 ≤ c) && decide (c < x.2.2.2 + 32) with
  | some x => (x.1, x.2.1)
  | none => (t, 0)

/-- The drain of block `blk`: operands and, with ACCUM, the region are read, the results formed and checked, and written back, or
held for the epilogue. A region that has turned INVALID since the operation started ends it with 0x12, and blocks that it has
written stay (R71; log entry 127, DESIGN CHOICE). -/
def matrixDrain (d : Dev) (t : TileId) (i blk : Nat) (flt : DrainFault) : Dev :=
  match (getQueue d t 0)[i]? with
  | none => d
  | some e =>
    let w := e.words
    let (r0, rn, c0, cn) := matBlock w blk
    if e.phase ≠ .running ∨ blk ∈ e.blks ∨ blk ≥ matBlocks w ∨ e.bufBlk ≠ none ∨ earlierOp d t e ∨ tapsHold d w e.id r0 rn then d
    else if dfield w 0 15 1 = 1 ∧ (List.range rn).any fun r => spIsInvalid d (matDest t w) (cAddr w (r0 + r) c0) (4 * cn) then
      failMatrix d t e 0x12 0 0
    else
      let u := matDest t w
      let acc := dfield w 0 15 1 == 1
      let cSpans := if acc then (List.range rn).map fun r => (cAddr w (r0 + r) c0, 4 * cn) else []
      match spansPoison d t (operandSpans w r0 rn c0 cn), spansPoison d u cSpans with
      | some a, _ => let (x, o) := poisonNames d t a; failMatrix d t e 0x11 x o
      | none, some a => let (x, o) := poisonNames d u a; failMatrix d t e 0x11 x o
      | none, none =>
        let as := rowsA d t w r0 rn
        let bs := colsB d t w c0 cn
        let start := if acc then (List.range rn).flatMap fun r => row32 8 false (spRead d u (cAddr w (r0 + r) c0) (4 * cn)) [] cn
          else List.replicate (rn * cn) 0
        let vals := List.zipWith (fun a (p : List XVal × List XVal) => matElem w a p.1 p.2) start
          (as.flatMap fun a => bs.map fun b => (a, b))
        let up := match flt with | .upset v i j mask => some { visit := v, row := i, col := j, mask := mask } | _ => none
        let drained := fun (d : Dev) (vals : List W32) =>
          let d := drainFeed (fillTransBuf (loadCells d t w r0 c0 cn vals) t w r0 rn c0 cn) t w
          let d := tileEv d t 0x0E (uncheckedGroups w { as := as, bs := bs, start := start, cn := cn, up := up })
          if hasEpilogue w then modEnt d t 0 e.id fun e => { e with bufBlk := some blk, buf := vals, bufPos := 0 }
          else writeBlock d t e blk vals
        match flt with
        | .none => drained d vals
        | .network =>
          if u = t then d else failMatrix (tileEv d t 0x0E (uncheckedGroups w { as := as, bs := bs, start := start, cn := cn, up := up })) t e 0x13 0 0
        | .upset v i j mask =>
          if v ≥ visits w ∨ i ≥ rn ∨ j ≥ cn ∨ mask = 0 then drained d vals
          else
            let u : Upset := { visit := v, row := i, col := j, mask := mask }
            let k : Block := { as := as, bs := bs, start := start, cn := cn, up := some u }
            let (flagged, d) := drainUpset d w k u
            if flagged then
              let d := tileEv d t 0x0E (uncheckedGroups w k)
              let n := groupRows w rn
              let x := flaggedArray t w i j
              let d := post d 0x0020 2 (tileSource d x.1 x.2) (natLe 4 (dfield w 0 8 2) ++ natLe 4 (r0 + i / n * n) ++ natLe 4 (c0 + j))
              checksumFlag (failMatrix d t e 0x10 0 0) x.1
            else drained d (vals.set (i * cn + j) (k.elem w (visits w) i j))

def execMatrixDrain (t : TileId) (i blk : Nat) (flt : DrainFault) (s : State) : Host.Outcome State Fault Refusal :=
  run s fun d => if alive d then matrixDrain d t i blk flt else d

/-! ### EPILOGUE_BEAT (R90, R91, R298) -/

/-- One value through the epilogue: element of E, then the table. -/
def epiVal (slots : FMap (List W32)) (w : List W32) (c e : W32) : W32 :=
  let c' := if dfield w 13 0 4 = 1 then fadd c e else if dfield w 13 0 4 = 2 then fmul c e else c
  if bitAt (wordAt w 13) 12 then actFn slots (dfield w 13 4 8) false c' else c'

/-- Address of element (r, c) of E. -/
def eAddr (w : List W32) (r c : Nat) : Nat := dfield w 14 0 21 + r * dfield w 10 0 21 + c * fmtBits (dfield w 1 8 4) / 8

/-- The reduce-mismatch event of R81 and R298, and the checker's request. -/
def mismatch (d : Dev) (t : TileId) (op which n : Nat) : Dev :=
  checkerFlag (post d 0x0022 2 (tileSource d t 0) (natLe 1 op ++ natLe 1 which ++ zbytes 2 ++ natLe 4 n)) t

/-- One beat of up to 256 results of the held block; the block is written once its last beat has passed. An upset flips the bits of
a lane's result: the shadow lane finds it when it shadows that lane, and the next beat shadows the next lane (R298). -/
def epilogueBeat (d : Dev) (t : TileId) (i : Nat) (upset : Option (Nat × W32)) : Dev :=
  match (getQueue d t 0)[i]? with
  | none => d
  | some e =>
    match e.bufBlk with
    | none => d
    | some blk =>
      let w := e.words
      let (r0, _, c0, cn) := matBlock w blk
      let sz := fmtBits (dfield w 1 8 4) / 8
      let beat := (e.buf.drop e.bufPos).take 256
      let place := fun (j : Nat) => (r0 + (e.bufPos + j) / cn, c0 + (e.bufPos + j) % cn)
      let reads := if dfield w 13 0 4 = 0 then [] else (List.range beat.length).map fun j => (eAddr w (place j).1 (place j).2, sz)
      let lane := (getTile d t).shadow
      let d := modTile (tileEv d t 0x0B 1) t fun k => { k with shadow := (k.shadow + 1) % 256 }
      if upset.any fun u => u.1 == lane && decide (lane < beat.length) && u.2 != 0 then failMatrix (mismatch d t 0x10 1 (e.bufPos / 256)) t { e with bufBlk := none, buf := [] } 0x14 0 0
      else match spansPoison d t reads with
      | some a => let (x, o) := poisonNames d t a; failMatrix d t { e with bufBlk := none, buf := [] } 0x11 x o
      | none =>
        let f := dfield w 1 8 4
        let ev := reads.map fun p => rne32 (elemVal f false 0 (leNat (spRead d t p.1 p.2)))
        let flip := fun (n : Nat) => match upset with | some u => if u.1 = n then u.2 else 0 | none => 0
        let out := beat.zipIdx.map fun x => epiVal (getTile d t).slots w x.1 (ev.getD x.2 0) ^^^ flip x.2
        let buf := e.buf.take e.bufPos ++ out ++ e.buf.drop (e.bufPos + 256)
        if e.bufPos + 256 ≥ e.buf.length then writeBlock d t e blk buf
        else modEnt d t 0 e.id fun e => { e with buf := buf, bufPos := e.bufPos + 256 }

def execEpilogueBeat (t : TileId) (i : Nat) (upset : Option (Nat × W32)) (s : State) : Host.Outcome State Fault Refusal :=
  run s fun d => if alive d then epilogueBeat d t i upset else d

/-! ### MATRIX_WRITE_BACK_COMPLETE (R69) -/

/-- The write-back of the last block has completed: the operation ends with OK, its signal is made. -/
def matrixWriteBackComplete (d : Dev) (t : TileId) (i : Nat) : Dev :=
  match (getQueue d t 0)[i]? with
  | none => d
  | some e =>
    if e.phase ≠ .running ∨ e.blks.length < matBlocks e.words ∨ earlierOp d t e ∨ tapsOpen d e.words e.id then d
    else tileEv (endEnt d t { e with phase := .done, code := 0, count := e.blks.length } true) t 0x0A 1

def execMatrixWriteBackComplete (t : TileId) (i : Nat) (s : State) : Host.Outcome State Fault Refusal :=
  run s fun d => if alive d then matrixWriteBackComplete d t i else d

end Sys2Proof.Machine
end

