-- ==== Sys2Proof/Machine/Vector.lean ====
section
/-!
DEFINITION. Vector instructions (chapter 4): each command runs the head of a tile's vector queue when it carries that
opcode and has passed WAIT_SEM; VECTOR_INSTRUCTION_END signals and writes the record (R79). Element-wise opcodes go
beat by beat, row opcodes row by row, VREDUCE by beats of output elements, and stop where Table 4-10 says.
-/
namespace Sys2Proof.Machine

/-! ### Row reductions (R80) -/

/-- One beat into the lanes. -/
def laneStep {α : Type} (f : W32 → α → W32) : List W32 → List α → List W32
  | s :: ss, v :: vs => f s v :: laneStep f ss vs
  | ss, _ => ss

/-- The cross-lane tree: `h` halvings. -/
def laneTree : Nat → List W32 → W32
  | 0, s => s.headD 0
  | h + 1, s => laneTree h (List.zipWith fadd (s.take (2 ^ h)) (s.drop (2 ^ h)))

/-- ORDERED reduction of a row: 256 lanes from −0, then the tree. -/
def laneSum {α : Type} (f : W32 → α → W32) (v : List α) : W32 :=
  laneTree 8 ((chunksOf 256 v.length v).foldl (laneStep f) (List.replicate 256 0x80000000))

/-- EXACT reduction of contributions: one accumulator, one rounding. -/
def exactSum (v : List W32) : W32 := accRound (v.foldl accAdd accEmpty)

def rowSum (exact : Bool) (v : List W32) : W32 := if exact then exactSum v else laneSum fadd v
def rowSsq (exact : Bool) (v : List W32) : W32 :=
  if exact then exactSum (v.map fun x => fmul x x) else laneSum (fun s x => ffma x x s) v
def rowDot (exact : Bool) (v w : List W32) : W32 :=
  if exact then exactSum (List.zipWith fmul v w) else laneSum (fun s (p : W32 × W32) => ffma p.1 p.2 s) (v.zip w)
def rowMax (v : List W32) : W32 := v.foldl fmax (inf32 true)

/-! ### Element operations (Table 4-3) -/

/-- A value as it is copied: a NaN becomes canonical (R31). -/
def canon (x : W32) : W32 := if isNan32 x then nan32 else x

/-- One element of an element-wise, conversion or table opcode. -/
def vElem (slots : FMap (List W32)) (op tab : Nat) (x y w : W32) : W32 :=
  if op = 0x20 then fadd x y
  else if op = 0x21 then fsub x y
  else if op = 0x22 then fmul x y
  else if op = 0x23 then ffma x y w
  else if op = 0x24 then fmin x y
  else if op = 0x25 then fmax x y
  else if op = 0x26 then fabs x
  else if op = 0x27 then fneg x
  else if op = 0x28 then canon (if flt 0 x then y else w)
  else if op = 0x38 then frcp x
  else if op = 0x39 then frsqrt x
  else if op = 0x3A then fsqrt x
  else if op = 0x3B then fdiv x y
  else if op = 0x3C then fexp x
  else if op = 0x3D then flog x
  else if op = 0x40 then actFn slots tab false x
  else if op = 0x41 then fmul y (actFn slots tab true x)
  else canon x

/-- One element of a pair opcode. -/
def vPair (op : Nat) (x y w : Pair) : Pair :=
  if op = 0x54 then padd x y else if op = 0x55 then pmul x y else pfma x y w

/-- A row of a normalisation or softmax opcode (R88, R89): the row written and the ROWVEC value, when it writes one. -/
def normRow (op : Nat) (exact : Bool) (eps r : W32) (x g : List W32) : List W32 × Option W32 :=
  let n := f32OfNat x.length
  if op = 0x4C then
    let mu := fdiv (rowSum exact x) n
    let xm := x.map fun v => fsub v mu
    let r := frsqrt (fadd (fdiv (rowSsq exact xm) n) eps)
    (xm.map fun v => fmul v r, some r)
  else if op = 0x4D then
    let r := frsqrt (fadd (fdiv (rowSsq exact x) n) eps)
    (x.map fun v => fmul v r, some r)
  else if op = 0x4E then
    let ma := fdiv (rowSum exact g) n
    let mb := fdiv (rowDot exact g x) n
    (List.zipWith (fun xh g => fmul r (ffma (fneg xh) mb (fsub g ma))) x g, none)
  else if op = 0x4F then
    let mb := fdiv (rowDot exact g x) n
    (List.zipWith (fun xh g => fmul r (ffma (fneg xh) mb g)) x g, none)
  else if op = 0x50 then
    let m := rowMax x
    let e := x.map fun v => fexp (fsub v m)
    let s := rowSum exact e
    (e.map fun v => fdiv v s, none)
  else
    let c := rowDot exact g x
    (List.zipWith (fun s g => fmul s (fsub g c)) x g, none)

/-- ROWVEC value of VRSUM, VRMAX, VRSSQ and VRDOT. -/
def redRow (op : Nat) (exact : Bool) (x y : List W32) : W32 :=
  if op = 0x48 then rowSum exact x else if op = 0x49 then rowMax x else if op = 0x4A then rowSsq exact x
  else rowDot exact x y

/-! ### The run of an instruction -/

/-- A run: the device, the status bits, the rows (or output beats) fully written, why it stopped (code, allocation, offset), and
the beats in which the shadow lane compared a lane. -/
structure VRun where
  dev : Dev
  status : Nat
  done : Nat
  stop : Option (Nat × Nat × Nat)
  beats : Nat

/-- Stops a run with OPERAND_POISON at a line of the tile. -/
def stopPoison (r : VRun) (t : TileId) (a : Nat) : VRun :=
  let (i, o) := poisonNames r.dev t a
  { r with stop := some (0x11, i, o) }

/-- Checks the reads and writes of one unit (a beat or a row): a poisoned line read, or one written in part. -/
def unitPoison (d : Dev) (t : TileId) (reads writes : List (Nat × Nat)) : Option Nat :=
  match spansPoison d t reads with
  | some a => some a
  | none => firstSome (fun e => spPartial d t e.1 e.2) writes

/-- Writes the byte strings of one unit. -/
def unitWrite (d : Dev) (t : TileId) (out : List (Nat × List Byte)) : Dev := out.foldl (fun d x => spWrite d t x.1 x.2) d

/-- One unit: checked, then written by what `f` makes of the device as it stands. `last` marks the last unit of a row. -/
def runUnit (t : TileId) (reads writes : List (Nat × Nat)) (last : Bool) (f : Dev → List (Nat × List Byte) × Nat) (r : VRun) : VRun :=
  if r.stop.isSome then r
  else match unitPoison r.dev t reads writes with
  | some a => stopPoison r t a
  | none =>
    let (out, st) := f r.dev
    { r with dev := unitWrite r.dev t out, status := r.status ||| st, done := r.done + b2n last }

/-- The checkers' mismatch at unit `n` (R81, R298): the unit is not written and the instruction stops. -/
def stopMismatch (t : TileId) (op which n : Nat) (r : VRun) : VRun :=
  if r.stop.isSome then r else { r with dev := mismatch r.dev t op which n, stop := some (0x14, 0, 0) }

/-- Whether the shadow lane finds an upset in beats `[b, b + n)` of a run that began with lane `first`: it strikes the lane that is
shadowed in its beat (R298). -/
def shadowFinds (flt : VFault) (first b n : Nat) : Bool :=
  match flt with
  | .lane k l m => decide (b ≤ k) && decide (k < b + n) && (first + k) % 256 == l && m != 0
  | _ => false

/-- The results of `nb` beats from beat `b` on with what an upset flips in them. -/
def flipLane (flt : VFault) (b nb : Nat) (l : List W32) : List W32 :=
  match flt with
  | .lane k ln m => if b ≤ k ∧ k < b + nb ∧ ln < 256 then l.modify ((k - b) * 256 + ln) (· ^^^ m) else l
  | _ => l

/-- Counts the beats of one unit that the run has not stopped before. -/
def countBeats (n : Nat) (before after : VRun) : VRun := if before.stop.isSome then after else { after with beats := after.beats + n }

/-- The row buffer holds the row of a fused opcode for its later passes, when it has room (R88, R93). -/
def bufferRow (t : TileId) (len : Nat) (x : List W32) (r : VRun) : VRun :=
  if len ≤ 16384 then { r with dev := modTile r.dev t fun k => { k with rowBuf := x } } else r

/-- Row operand fields: address, stride, format. -/
def opnd (w : List W32) (ai si flo : Nat) : Nat × Nat × Nat := (dfield w ai 0 23, dfield w si 0 23, dfield w 1 flo 4)

/-- Byte range of elements `[o, o+n)` of row `r`. -/
def elemSpan (x : Nat × Nat × Nat) (r o n : Nat) : Nat × Nat := (x.1 + r * x.2.1 + o * fmtBits x.2.2 / 8, rowBytes x.2.2 n)

def readSpan (d : Dev) (t : TileId) (s : Nat × Nat) : List Byte := spRead d t s.1 s.2

/-- Beats of an instruction as (row, beat). -/
def vBeats (rows nb : Nat) : List (Nat × Nat) := (List.range rows).flatMap fun r => (List.range nb).map fun b => (r, b)

/-- Element-wise, conversion, table and pair opcodes. VCVT's MX scales stand at SCALE_ADDR, row behind row (log entry 107, DESIGN
CHOICE). -/
def runElem (d : Dev) (t : TileId) (w : List W32) (s : VSpec) (flt : VFault) : VRun :=
  let op := opcodeOf w
  let len := dfield w 2 0 24
  let nb := cdiv len 256
  let x := opnd w 4 5 0
  let y := opnd w 6 7 4
  let z := opnd w 8 9 8
  let v := opnd w 10 11 12
  let yMem := yRows s w
  let yRow := bitAt (wordAt w 0) 11
  let save := op == 0x40 && bitAt (wordAt w 0) 13
  let el := bitAt (wordAt w 0) 14
  let slots := (getTile d t).slots
  let scale := fun (r b n : Nat) => (dfield w 12 0 23 + r * cdiv len 32 + b * 8, cdiv n 32)
  let rv := fun (r : Nat) => (dfield w 14 0 23 + 4 * r, 4)
  (vBeats (dfield w 3 0 24) nb).zipIdx.foldl (fun run_ e =>
    let r := e.1.1
    let b := e.1.2
    let n := min 256 (len - b * 256)
    let sx := elemSpan x r (b * 256) n
    let sz := elemSpan z r (b * 256) n
    let sv := elemSpan v r (b * 256) n
    let reads := [sx] ++ (if isMx x.2.2 then [scale r b n] else []) ++ (if yMem then [elemSpan y r (b * 256) n] else [])
      ++ (if s.w then [sv] else []) ++ (if s.y && yRow then [rv r] else [])
    let writes := [sz] ++ (if isMx z.2.2 then [scale r b n] else []) ++ (if save then [sv] else [])
    countBeats 1 run_ <|
    if shadowFinds flt (getTile d t).shadow e.2 1 then stopMismatch t op 1 e.2 run_
    else runUnit t reads writes (b + 1 == nb) (fun d =>
      let y1 : W32 := if yRow then BitVec.ofNat 32 (leNat (readSpan d t (rv r))) else w.getD 13 0
      if s.kind == .pair then
        let xs := rowPairs x.2.2 (readSpan d t sx) n
        let ys := if yMem then rowPairs y.2.2 (readSpan d t (elemSpan y r (b * 256) n)) n else List.replicate n (pair32 y1)
        let ws := if s.w then rowPairs v.2.2 (readSpan d t sv) n else List.replicate n (0, 0)
        let out := List.zipWith (fun (p : Pair × Pair) c => vPair op p.1 p.2 c) (xs.zip ys) ws
        let out := (flipLane flt e.2 1 (out.map (·.1))).zip (out.map (·.2))
        ([(sz.1, pairsOut z.2.2 out)], seenAll (out.map (·.1)))
      else
        let xs := row32 x.2.2 el (readSpan d t sx) (if isMx x.2.2 then readSpan d t (scale r b n) else []) n
        let ys := if yMem then row32 y.2.2 false (readSpan d t (elemSpan y r (b * 256) n)) [] n else List.replicate n y1
        let ws := if s.w then row32 v.2.2 false (readSpan d t sv) [] n else List.replicate n 0
        let out := flipLane flt e.2 1 (List.zipWith (fun (p : W32 × W32) c => vElem slots op (dfield w 0 15 8) p.1 p.2 c) (xs.zip ys) ws)
        let zb := if z.2.2 = 9 then (pairsOut 9 (out.map pair32), []) else rowOut z.2.2 el out
        ([(sz.1, zb.1)] ++ (if isMx z.2.2 then [((scale r b n).1, zb.2)] else [])
          ++ (if save then [(sv.1, (rowOut v.2.2 false xs).1)] else []), seenAll out)) run_)
    ⟨d, 0, 0, none, 0⟩

/-- Whether the mode in force is EXACT, and MODE_RAISED, for a destination address (R44): z's for VLNF and VRNF, which write ROWVEC
too (log entry 111, DESIGN CHOICE). -/
def modeAt (d : Dev) (t : TileId) (w : List W32) (a : Nat) : Bool × Nat :=
  let ex := match allocAtScratch d t a with | some (_, k) => hasExact k | none => false
  let m := raisedMode (dfield w 0 8 2) ex
  (m.1 == 2, m.2)

/-- Row reductions and the fused row opcodes. -/
def runRows (d : Dev) (t : TileId) (w : List W32) (s : VSpec) (flt : VFault) : VRun :=
  let op := opcodeOf w
  let len := dfield w 2 0 24
  let x := opnd w 4 5 0
  let y := opnd w 6 7 4
  let z := opnd w 8 9 8
  let rowred := s.kind == .rowred
  let mode := modeAt d t w (if rowred then dfield w 14 0 23 else z.1)
  let rv := fun (r : Nat) => (dfield w 14 0 23 + 4 * r, 4)
  let wantsR := op == 0x4E || op == 0x4F
  (List.range (dfield w 3 0 24)).foldl (fun run_ r =>
    let sx := elemSpan x r 0 len
    let sy := elemSpan y r 0 len
    let reads := [sx] ++ (if s.y then [sy] else []) ++ (if wantsR then [rv r] else [])
    let writes := (if s.z then [elemSpan z r 0 len] else []) ++ (if s.rv && !wantsR then [rv r] else [])
    let nb := (if rowred then 0 else if op = 0x4C ∨ op = 0x50 then 3 else 2) * cdiv len 256
    (fun u => if s.kind == .norm && run_.stop.isNone then bufferRow t len (row32 x.2.2 false (readSpan run_.dev t sx) [] len) u else u) <|
    countBeats nb run_ <|
    if flt = .duplicate r then stopMismatch t op 0 r run_
    else if shadowFinds flt (getTile d t).shadow (r * nb) nb then stopMismatch t op 1 r run_
    else runUnit t reads writes true (fun d =>
      let xs := row32 x.2.2 false (readSpan d t sx) [] len
      let ys := if s.y then row32 y.2.2 false (readSpan d t sy) [] len else []
      if rowred then
        let v := redRow op mode.1 xs ys
        ([((rv r).1, natLe 4 v.toNat)], seen v)
      else
        let o := normRow op mode.1 (w.getD 13 0) (BitVec.ofNat 32 (leNat (readSpan d t (rv r)))) xs ys
        let o := (flipLane flt (r * nb + nb - cdiv len 256) (cdiv len 256) o.1, o.2)
        ([((elemSpan z r 0 len).1, (rowOut z.2.2 false o.1).1)] ++ (match o.2 with | some v => [((rv r).1, natLe 4 v.toNat)] | none => []),
          seenAll o.1 ||| (match o.2 with | some v => seen v | none => 0))) run_)
    ⟨d, mode.2, 0, none, 0⟩

/-- A partial of VREDUCE as an accumulator's contribution. -/
def accOf (f : Nat) (b : List Byte) (a : Acc) (j : Nat) : Acc :=
  if f = 10 then accMerge a (accOfBytes ((b.drop (j * 128)).take 128))
  else accAdd a ((row32 f false (b.drop (j * fmtBits f / 8)) [] 1).headD 0)

/-- VREDUCE (R46-R48, R82). Where it writes records, the value to which each would round gives the status (log entry 152, DESIGN CHOICE). -/
def runReduce (d : Dev) (t : TileId) (w : List W32) (flt : VFault) : VRun :=
  let len := dfield w 2 0 24
  let x := opnd w 4 5 0
  let z := opnd w 8 9 8
  let rows := dfield w 3 0 24
  let accum := bitAt (wordAt w 0) 12
  let mode := modeAt d t w z.1
  (List.range (cdiv len 256)).foldl (fun run_ b =>
    let n := min 256 (len - b * 256)
    let sx := fun (r : Nat) => elemSpan x r (b * 256) n
    let sz := elemSpan z 0 (b * 256) n
    let reads := (List.range rows).map sx ++ (if accum then [sz] else [])
    if flt = .duplicate b then stopMismatch t 0x58 0 b run_
    else runUnit t reads [sz] true (fun d =>
      let parts := (if accum then [(z.2.2, readSpan d t sz)] else []) ++ (List.range rows).map fun r => (x.2.2, readSpan d t (sx r))
      if mode.1 then
        let accs := (List.range n).map fun j => parts.foldl (fun a p => accOf p.1 p.2 a j) accEmpty
        let res := accs.map accRound
        ([(sz.1, if z.2.2 = 10 then accs.flatMap accBytes else (rowOut z.2.2 false res).1)], seenAll res)
      else
        let vals := parts.map fun p => row32 p.1 false p.2 [] n
        let res := match vals with | [] => [] | v :: vs => vs.foldl (List.zipWith fadd) v
        ([(sz.1, (rowOut z.2.2 false res).1)], seenAll res)) run_)
    ⟨d, mode.2, 0, none, 0⟩

/-- Ends the run of the head of the vector queue: code, status and counts stand until VECTOR_INSTRUCTION_END, and the shadow lane
has moved on by the beats it compared. -/
def finishVec (t : TileId) (e : QEnt) (r : VRun) : Dev :=
  let c := r.stop.getD (0, 0, 0)
  modEnt (modTile r.dev t fun k => { k with shadow := (k.shadow + r.beats) % 256 }) t 1 e.id fun e => { e with phase := .done, code := c.1, alloc := c.2.1, off := c.2.2, status := r.status, count := r.done }

/-- Vector beats that a run took, over its passes (Table 4-3, R382). A reduction's row, or VREDUCE's output beat, in which the run
stops counts whole, as a fused opcode's row does. (Log entry 140, DESIGN CHOICE.) -/
def beatsRun (w : List W32) (s : VSpec) (r : VRun) : Nat :=
  let units := r.done + b2n r.stop.isSome
  match s.kind with
  | .rowred => units * cdiv (dfield w 2 0 24) 256
  | .vred => units * dfield w 3 0 24
  | _ => r.beats

/-- The head of a tile's vector queue, when it carries `op` and has passed WAIT_SEM. -/
def vecHead (d : Dev) (t : TileId) (op : Nat) : Option QEnt :=
  match (getQueue d t 1).head? with
  | some e => if e.phase = .ready ∧ opcodeOf e.words = op then some e else none
  | none => none

/-- Runs the head of the vector queue with opcode `op`. An uncorrectable error met (`VFault.ecc`) first poisons its
line; a table slot that is empty ends the instruction at its start (R87). -/
def vecRun (d : Dev) (t : TileId) (op : Nat) (flt : VFault) : Dev :=
  match vecHead d t op, vspec op with
  | some e, some s =>
    let w := e.words
    let d := match flt with | .ecc a => if inScratch t a 1 then poisonScratch d t a else d | _ => d
    if s.kind == .act && slotEmpty d t (dfield w 0 15 8) then finishVec t e ⟨d, 0, 0, some (9, 0, 0), 0⟩
    else
      let r := match s.kind with
        | .rowred => runRows d t w s flt
        | .norm => runRows d t w s flt
        | .vred => runReduce d t w flt
        | _ => runElem d t w s flt
      finishVec t e { r with dev := tileEv r.dev t 0x0B (beatsRun w s r) }
  | _, _ => d

/-- A command that runs a vector opcode. -/
def vecCmd (s : State) (t : TileId) (op : Nat) (f : VFault) : Host.Outcome State Fault Refusal :=
  run s fun d => if tileActs d t then vecRun d t op f else d

def execVadd (t : TileId) (f : VFault) (s : State) : Host.Outcome State Fault Refusal := vecCmd s t 0x20 f
def execVsub (t : TileId) (f : VFault) (s : State) : Host.Outcome State Fault Refusal := vecCmd s t 0x21 f
def execVmul (t : TileId) (f : VFault) (s : State) : Host.Outcome State Fault Refusal := vecCmd s t 0x22 f
def execVfma (t : TileId) (f : VFault) (s : State) : Host.Outcome State Fault Refusal := vecCmd s t 0x23 f
def execVmin (t : TileId) (f : VFault) (s : State) : Host.Outcome State Fault Refusal := vecCmd s t 0x24 f
def execVmax (t : TileId) (f : VFault) (s : State) : Host.Outcome State Fault Refusal := vecCmd s t 0x25 f
def execVabs (t : TileId) (f : VFault) (s : State) : Host.Outcome State Fault Refusal := vecCmd s t 0x26 f
def execVneg (t : TileId) (f : VFault) (s : State) : Host.Outcome State Fault Refusal := vecCmd s t 0x27 f
def execVsel (t : TileId) (f : VFault) (s : State) : Host.Outcome State Fault Refusal := vecCmd s t 0x28 f
def execVcvt (t : TileId) (f : VFault) (s : State) : Host.Outcome State Fault Refusal := vecCmd s t 0x30 f
def execVrcp (t : TileId) (f : VFault) (s : State) : Host.Outcome State Fault Refusal := vecCmd s t 0x38 f
def execVrsqrt (t : TileId) (f : VFault) (s : State) : Host.Outcome State Fault Refusal := vecCmd s t 0x39 f
def execVsqrt (t : TileId) (f : VFault) (s : State) : Host.Outcome State Fault Refusal := vecCmd s t 0x3A f
def execVdiv (t : TileId) (f : VFault) (s : State) : Host.Outcome State Fault Refusal := vecCmd s t 0x3B f
def execVexp (t : TileId) (f : VFault) (s : State) : Host.Outcome State Fault Refusal := vecCmd s t 0x3C f
def execVlog (t : TileId) (f : VFault) (s : State) : Host.Outcome State Fault Refusal := vecCmd s t 0x3D f
def execVact (t : TileId) (f : VFault) (s : State) : Host.Outcome State Fault Refusal := vecCmd s t 0x40 f
def execVdact (t : TileId) (f : VFault) (s : State) : Host.Outcome State Fault Refusal := vecCmd s t 0x41 f
def execVrsum (t : TileId) (f : VFault) (s : State) : Host.Outcome State Fault Refusal := vecCmd s t 0x48 f
def execVrmax (t : TileId) (f : VFault) (s : State) : Host.Outcome State Fault Refusal := vecCmd s t 0x49 f
def execVrssq (t : TileId) (f : VFault) (s : State) : Host.Outcome State Fault Refusal := vecCmd s t 0x4A f
def execVrdot (t : TileId) (f : VFault) (s : State) : Host.Outcome State Fault Refusal := vecCmd s t 0x4B f
def execVlnf (t : TileId) (f : VFault) (s : State) : Host.Outcome State Fault Refusal := vecCmd s t 0x4C f
def execVrnf (t : TileId) (f : VFault) (s : State) : Host.Outcome State Fault Refusal := vecCmd s t 0x4D f
def execVlnb (t : TileId) (f : VFault) (s : State) : Host.Outcome State Fault Refusal := vecCmd s t 0x4E f
def execVrnb (t : TileId) (f : VFault) (s : State) : Host.Outcome State Fault Refusal := vecCmd s t 0x4F f
def execVsmf (t : TileId) (f : VFault) (s : State) : Host.Outcome State Fault Refusal := vecCmd s t 0x50 f
def execVsmb (t : TileId) (f : VFault) (s : State) : Host.Outcome State Fault Refusal := vecCmd s t 0x51 f
def execPadd (t : TileId) (f : VFault) (s : State) : Host.Outcome State Fault Refusal := vecCmd s t 0x54 f
def execPmul (t : TileId) (f : VFault) (s : State) : Host.Outcome State Fault Refusal := vecCmd s t 0x55 f
def execPfma (t : TileId) (f : VFault) (s : State) : Host.Outcome State Fault Refusal := vecCmd s t 0x56 f
def execVreduce (t : TileId) (f : VFault) (s : State) : Host.Outcome State Fault Refusal := vecCmd s t 0x58 f

/-- A matrix operation accepted before a VTLOAD that names its slot and has not ended (R87). -/
def matrixAhead (d : Dev) (t : TileId) (e : QEnt) : Bool :=
  (getQueue d t 0).any fun m => decide (m.id < e.id) && bitAt (wordAt m.words 13) 12 && dfield m.words 13 4 8 == dfield e.words 0 15 8

/-- VTLOAD (R84, R87): the image is read and checked; a slot keeps its contents when the load fails. -/
def vtload (d : Dev) (t : TileId) : Dev :=
  match vecHead d t 0x60 with
  | none => d
  | some e =>
    if matrixAhead d t e then d
    else
      let a := dfield e.words 4 0 23
      match spPoisonAt d t a imageBytes with
      | some p => finishVec t e (stopPoison ⟨d, 0, 0, none, 0⟩ t p)
      | none =>
        let im := toWords 8224 (spRead d t a imageBytes)
        if imageValid im then
          finishVec t e ⟨modTile d t fun k => { k with slots := fput [] k.slots (dfield e.words 0 15 8 - 0x80) im }, 0, 0, none, 0⟩
        else finishVec t e ⟨d, 0, 0, some (9, 0, 0), 0⟩

def execVtload (t : TileId) (s : State) : Host.Outcome State Fault Refusal :=
  run s fun d => if tileActs d t then vtload d t else d

/-- VTREAD (R83, R86): a table pair's image is written at Z_ADDR. -/
def vtread (d : Dev) (t : TileId) : Dev :=
  match vecHead d t 0x61 with
  | none => d
  | some e =>
    let idx := dfield e.words 0 15 8
    if slotEmpty d t idx then finishVec t e ⟨d, 0, 0, some (9, 0, 0), 0⟩
    else finishVec t e ⟨spWrite d t (dfield e.words 8 0 23) ((tableImage (getTile d t).slots idx).flatMap fun w => natLe 4 w.toNat), 0, 0, none, 0⟩

def execVtread (t : TileId) (s : State) : Host.Outcome State Fault Refusal :=
  run s fun d => if tileActs d t then vtread d t else d

/-- Whether an ended instruction signals: a vector instruction only with 0x00 (R92); an update or preconditioning
descriptor with every code above the refusals (R188). -/
def vecSignals (e : QEnt) : Bool :=
  if opcodeOf e.words = 0x80 ∨ opcodeOf e.words = 0x72 then e.code == 0 || decide (e.code > 8) else e.code == 0

/-- VECTOR_INSTRUCTION_END (R79). -/
def vectorInstructionEnd (d : Dev) (t : TileId) : Dev :=
  match (getQueue d t 1).head? with
  | some e => if e.phase = .done ∧ opcodeOf e.words ≠ 0x80 then endEnt d t e (vecSignals e) else d
  | none => d

def execVectorInstructionEnd (t : TileId) (s : State) : Host.Outcome State Fault Refusal :=
  run s fun d => if tileActs d t then vectorInstructionEnd d t else d

end Sys2Proof.Machine
end

