-- ==== Sys2Proof/Machine/Memory.lean ====
section
/-!
DEFINITION. Allocations, tier moves and error correction (chapter 9). A memory request stands in a tile's memory queue
or among the entries accepted from host queues (`MemSrc`); each command acts on one such request.
-/
namespace Sys2Proof.Machine

/-! ### Requests -/

/-- The request a command names. -/
def memEnt (d : Dev) (src : MemSrc) : Option QEnt :=
  match src with
  | .tile t i => (getQueue d t 2)[i]?
  | .host i => d.host.entries[i]?

/-- The device runs, and the issuing tile is no curvature tile under test, whose work waits (R20, R316). -/
def memActs (d : Dev) (src : MemSrc) : Bool :=
  match src with
  | .tile t _ => tileActs d t
  | .host _ => alive d

def memTile (src : MemSrc) : Option TileId := match src with | .tile t _ => some t | .host _ => none

def modMemEnt (d : Dev) (src : MemSrc) (id : Nat) (f : QEnt → QEnt) : Dev :=
  match src with
  | .tile t _ => modEnt d t 2 id f
  | .host _ => modHost d fun h => { h with entries := updFirst (fun e => e.id == id) f h.entries }

/-- The record of a host entry (R333). -/
def hostRec (e : QEnt) : List Byte :=
  match e.org with
  | .host _ seq => recBytes ⟨⟨0, by omega⟩, 0, 2, e.code, e.status, e.count, e.alloc, e.aux, e.off, seq.toNat, 64⟩
  | _ => []

/-- The host reads that serve a request which ends: those not sent yet are dropped; the data of the others is discarded
when it arrives, and their tags stay taken until then (R326). -/
def dropReads (d : Dev) (owner : Nat) : Dev :=
  modHost d fun h =>
    let mine := fun (e : Nat × Option HRead) => match e.2 with
      | some r => (match r.what with | .tier _ _ o => o == owner | _ => false)
      | none => false
    let unsent := fun (tag : Nat) => h.waiting.any fun m => match m with | .hread t _ _ => t == tag | _ => false
    { h with
      reads := (h.reads.filter fun e => !(mine e && unsent e.1)).map fun e =>
        if mine e then (e.1, e.2.map fun r => match r.what with | .tier i o _ => { r with what := .tier i o 0 } | _ => r) else e
      waiting := h.waiting.filter fun m => match m with
        | .hread t _ _ => !(h.reads.any fun e => e.1 == t && mine e)
        | _ => true }

/-- A read of host memory that a request makes: allocation, slot, offset in the slot, bytes (at most 4 KiB). -/
abbrev HostPiece := Nat × Nat × Nat × Nat

/-- Requests the host reads of `owner` from number `n` on, one per free tag (R326, R328): the device and the number requested. -/
def requestReads : Nat → Dev → Nat → List HostPiece → Nat → Dev × Nat
  | 0, d, _, _, n => (d, n)
  | k + 1, d, owner, ps, n =>
    match ps[n]?, (List.range 512).find? (fun t => (fget none d.host.reads t).isNone) with
    | some (id, slot, off, len), some tag =>
      match getAlloc d id with
      | some a =>
        let d := modHost d fun h => { h with reads := fput none h.reads tag (some { what := .tier id (slot * a.size + off) owner, bytes := len }) }
        requestReads k (sendHost d (.hread tag (a.hostAddr + slot * a.size + off) len)) owner ps (n + 1)
      | none => (d, n)
    | _, _ => (d, n)

/-- Host reads of the units that hold `n` bytes from `off` of an allocation, of up to 4 KiB each (R326, R328). -/
def hostPieces (id off n : Nat) : List HostPiece :=
  let lo := off / 64 * 64
  let hi := roundUp (off + n) 64
  (List.range (cdiv (hi - lo) 4096)).map fun i => (id, 0, lo + i * 4096, min 4096 (hi - lo - i * 4096))

/-- Whether host reads of a request are outstanding. -/
def readsOpen (d : Dev) (owner : Nat) : Bool :=
  d.host.reads.any fun e => match e.2 with
    | some r => (match r.what with | .tier _ _ o => o == owner | _ => false)
    | none => false

/-- The host tier is unreachable beyond its deadline: one event, until the link is up again (R207). -/
def noteOffline (d : Dev) : Dev :=
  if d.mem.offlineNoted then d else modMem (post d 0x0031 1 srcUcie []) fun m => { m with offlineNoted := true }

/-- The host tier is reachable again (R207). -/
def noteOnline (d : Dev) : Dev :=
  if d.mem.offlineNoted then modMem (post d 0x0032 0 srcUcie []) fun m => { m with offlineNoted := false } else d

/-- The host tier has been unreachable for longer than its deadline (R207, Table 9-9): the mainband is not up since `hostDown`. -/
def hostOffline (d : Dev) : Bool :=
  d.mem.offlineNoted || (!d.host.up && decide (d.tc - d.mem.hostDown > dget d 0xA002 2 * Config.tclkMhz))

/-- Once the host tier has been unreachable for longer than its deadline, it is offline, whether a transfer unit waits for it or not (R207).
-/
def noteUnreachable (d : Dev) : Dev := if d.power.devState = 1 ∧ hostOffline d then noteOffline d else d

/-- Whether one of the allocations lies in a tier. -/
def anyTier (d : Dev) (ids : List Nat) (tier : Nat) : Bool :=
  ids.any fun i => match getAlloc d i with | some a => tierOf a == tier | none => false

/-! ### Full copies (R200, R312) -/

/-- A full copy to the partner: of a HOST allocation, once its bytes have been read from host memory (R328); unless its reads are under
way. -/
def sendFullCopy (d : Dev) (id : Nat) : Dev :=
  match getAlloc d id with
  | some a =>
    if tierOf a ≠ 2 then sendCopyNow d id
    else if d.safety.copies.any fun c => c.1 == id then d
    else
      let r := requestReads 512 { d with stamp := d.stamp + 1 } d.stamp (hostPieces id 0 a.size) 0
      modSafety r.1 fun s => { s with copies := s.copies ++ [(id, d.stamp, r.2)] }
  | none => d

/-- The reads of full copies go on; one whose bytes are all here leaves. -/
def advanceCopies (d : Dev) : Dev :=
  d.safety.copies.foldl (fun d c =>
    let ps := match getAlloc d c.1 with | some a => hostPieces c.1 0 a.size | none => []
    let r := requestReads 512 d c.2.1 ps c.2.2
    if r.2 < ps.length || readsOpen r.1 c.2.1 then
      modSafety r.1 fun s => { s with copies := updFirst (fun x => x.1 == c.1) (fun x => (x.1, x.2.1, r.2)) s.copies }
    else
      let d := modSafety r.1 fun s => { s with copies := dropFirst (fun x => x.1 == c.1) s.copies }
      if mayCopy d c.1 then sendCopyNow d c.1 else d) d

/-- The full copies that hold of `p` are abandoned, and their reads. -/
def dropCopies (d : Dev) (p : Nat → Bool) : Dev :=
  let l := d.safety.copies.filter fun c => p c.1
  modSafety (l.foldl (fun d c => dropReads d c.2.1) d) fun s => { s with copies := s.copies.filter fun c => !p c.1 }

/-- Ends a memory request: its record, and on OK its signal (R204); a host entry's record goes to its CQ. -/
def endMem (d : Dev) (src : MemSrc) (e : QEnt) (code count alloc off : Nat) : Dev :=
  let e := { e with phase := .done, code := code, count := count, alloc := alloc, off := off }
  let d := dropReads d e.id
  match src with
  | .tile t _ => endEnt d t e (code == 0)
  | .host _ =>
    let d := modHost d fun h => { h with entries := dropFirst (fun x => x.id == e.id) h.entries }
    match e.org with
    | .host q _ => hostComplete d q (hostRec e)
    | _ => d

/-- All queue entries and running requests of the device. -/
def allEntries (d : Dev) : List QEnt := (d.tiles.flatMap fun t => t.2.queues.flatMap fun q => q.2) ++ d.host.entries

/-- Whether a descriptor names an allocation, and how: as a source, or as anything. -/
def namesAlloc (id : Nat) (w : List W32) : Bool :=
  let op := opcodeOf w
  if op = 0x94 then wordAt w 1 == id || wordAt w 4 == id
  else if op = 0x80 then wordAt w 1 == id || wordAt w 2 == id || wordAt w 3 == id || wordAt w 7 == id
  else if op = 0x72 then wordAt w 1 == id || wordAt w 5 == id
  else if 0x90 ≤ op ∧ op ≤ 0x93 then wordAt w 1 == id
  else if op = 0xA2 then wordAt w 2 == id
  else false

/-- The allocations that a collective entry names: source, destination, and the master of a NORM entry. -/
def collNames (w : List W32) : List Nat := [wordAt w 8, wordAt w 10] ++ (if bitAt (wordAt w 0) 10 then [wordAt w 14] else [])

/-- The allocations that a block job names. -/
def jobNames (w : List W32) : List Nat := [wordAt w 2, wordAt w 5, wordAt w 7]

/-- Whether some request that names an allocation has not ended (R198): an entry accepted before `self` or at work, a
slow-tier update, a collective or its program, a Percolator job, a SCLOSE or a sweep under way. -/
def inUse (d : Dev) (id self : Nat) : Bool :=
  (allEntries d).any (fun e => e.id != self && (decide (e.id < self) || e.phase == .running || e.phase == .done) && namesAlloc id e.words)
    || d.mem.slow.any (fun e => namesAlloc id e.words)
    || d.fab.colls.any (fun c => (collNames c.words).contains id)
    || d.fab.engines.any (fun g => match g.2 with | some g => g.alloc == id | none => false)
    || d.fab.engineQ.any (fun q => q.2.any fun l => namesAlloc id l.ent.words)
    || d.curv.any (fun c => match c.2.job with | some j => (jobNames j.words).contains id | none => false)
    || d.curv.any (fun c => c.2.sweep.any fun g => wordAt (fget {} c.2.streams g.stream).words 3 == id)
    || d.curv.any (fun c => match c.2.grind.bind (·.scPending) with
      | some st => wordAt (fget {} c.2.streams st).words 3 == id
      | none => false)

/-- The FREE that waits for an allocation. -/
def freeOf (d : Dev) (id : Nat) : Option Nat :=
  ((allEntries d).find? fun e => e.phase == .running && opcodeOf e.words == 0x91 && wordAt e.words 1 == id).map (·.id)

/-- The device as an entry accepted before a FREE that waits sees it: the allocation is still there for it (R198). -/
def asBefore (d : Dev) (eid : Nat) : Dev :=
  if d.mem.allocs.any (fun e => match e.2 with | some a => a.freeing | none => false) then
    modMem d fun m => { m with allocs := m.allocs.map fun e => (e.1, e.2.map fun a =>
      if a.freeing && (match freeOf d e.1 with | some f => decide (eid < f) | none => false) then { a with freeing := false } else a) }
  else d

/-- A running tier move that reads, or that writes, an allocation. -/
def movesOn (d : Dev) (id : Nat) (reads : Bool) : Bool :=
  (allEntries d).any fun e => e.phase == .running && opcodeOf e.words == 0x94 && wordAt e.words (if reads then 1 else 4) == id

/-- An update that has begun, on a tile or in the slow-tier engine, and names an allocation in one of `fields`. -/
def updatesOn (d : Dev) (id : Nat) (fields : List Nat) : Bool :=
  let names := fun (w : List W32) => fields.any fun i => wordAt w i == id
  (allEntries d).any (fun e => e.phase == .running && opcodeOf e.words == 0x80 && !e.buf.isEmpty && names e.words)
    || d.mem.slow.any (fun e => e.started && names e.words)

/-- A block job that has begun names an allocation. -/
def jobsOn (d : Dev) (id : Nat) : Bool :=
  d.curv.any fun c => match c.2.job with | some j => j.started && (jobNames j.words).contains id | none => false

/-- A read of an allocation under way: a tier move, an update's operand, a collective's source, a Percolator job (R201). -/
def readsOn (d : Dev) (id : Nat) : Bool :=
  movesOn d id true || updatesOn d id [1, 2, 7] || d.fab.colls.any (fun c => wordAt c.words 8 == id) || jobsOn d id

/-- A write of an allocation under way: a tier move, an update's working copy, a collective's destination, a Percolator job (R201). -/
def writesOn (d : Dev) (id : Nat) : Bool :=
  movesOn d id false || updatesOn d id [1, 2, 3] || d.fab.colls.any (fun c => wordAt c.words 10 == id) || jobsOn d id

/-- The partner has yet to acknowledge a commit of the allocation that it was sent (R29). -/
def ackDue (d : Dev) (id : Nat) : Bool :=
  match getAlloc d id with
  | some a => mirroring d id && hasMirror a && !a.mirrorCopy && delayOf a == 0 && !a.unsent && decide (a.mirrorAck < a.counter)
  | none => false

/-- Updates accepted before entry `id0` that name an allocation and have not ended, the mirror of their commit included (R29, R199; log entry
97, DESIGN CHOICE). -/
def updatesBefore (d : Dev) (id id0 : Nat) : Bool :=
  ackDue d id || (allEntries d).any (fun e => decide (e.id < id0) && opcodeOf e.words == 0x80 && namesAlloc id e.words)
    || d.mem.slow.any (fun e => namesAlloc id e.words && (match e.from_ with | some (_, q) => decide (q.id < id0) | none => true))

/-- A request that has begun and waits: a SET_COUNTER for updates (R199), a FLASH_OPEN for reads and a FLASH_CLOSE for writes (R201), a move
for its version (R203). -/
def begunWaiting (d : Dev) (e : QEnt) : Bool :=
  let w := e.words
  let id := wordAt w 1
  if opcodeOf w = 0x92 then (dfield w 0 8 4 == 3 && updatesBefore d id e.id) || (dfield w 0 8 4 == 4 && readsOn d id)
    || (dfield w 0 8 4 == 5 && writesOn d id)
  else opcodeOf w == 0x94 && bitAt (wordAt w 0) 8 && (match getAlloc d id with | some a => decide (a.counter < dword w 11) | none => false)

/-- Whether a request waits for its start behind one of its own host queue: accepted entries start in acceptance order (R332; log entry
149, DEDUCED). -/
def startsLater (d : Dev) (src : MemSrc) (e : QEnt) : Bool :=
  match src, e.org with
  | .host i, .host q _ => e.phase == .ready && (d.host.entries.take i).any fun x => x.phase == .ready && !begunWaiting d x && (match x.org with | .host p _ => p == q | _ => false)
  | _, _ => false

/-- Runs `f` on a request that has passed WAIT_SEM, may start and carries an opcode. -/
def onReady (d : Dev) (src : MemSrc) (op : Nat) (f : QEnt → Dev) : Dev :=
  match memEnt d src with
  | some e => if e.phase = .ready ∧ opcodeOf e.words = op ∧ startsLater d src e = false then f e else d
  | none => d

/-! ### Space (R193, R198) -/

def hbmCapacity (d : Dev) : Nat := 384 * 2 ^ 30 - d.mem.hbmReserved

def allocList (d : Dev) : List (Nat × Alloc) := d.mem.allocs.filterMap fun e => e.2.map fun a => (e.1, a)

/-- Bytes an allocation takes in its tier: a mirror copy takes two slots (R300), a DELAY allocation its ring (R185). (Log entry 42, DESIGN
CHOICE.) -/
def footprint (a : Alloc) : Nat :=
  (if a.mirrorCopy then 2 else 1) * a.size + (if delayOf a = 0 then 0 else (delayOf a + 1) * a.size)

def tierUsed (d : Dev) (tier : Nat) : Nat :=
  ((allocList d).filter fun e => tierOf e.2 == tier).foldl (fun n e => n + footprint e.2) 0

/-- HBM bytes used on one die: its pinned allocations and half of every other. -/
def dieUsed (d : Dev) (die : Nat) : Nat :=
  ((allocList d).filter fun e => tierOf e.2 == 1).foldl (fun n e =>
    n + (if bitAt e.2.flags 2 then (if e.2.pinDie = die then footprint e.2 else 0) else footprint e.2 / 2)) 0

/-- Pools of host memory as (base, bytes) (R328). -/
def hostPools (d : Dev) : List (Nat × Nat) := (List.range 16).map fun i => (dget d 0x2110 (i + 1), dget d 0x2111 (i + 1))

def hostAvailable (d : Dev) : Nat := (hostPools d).foldl (fun n p => n + p.2) 0

/-- Host ranges taken. -/
def hostTaken (d : Dev) : List (Nat × Nat) := ((allocList d).filter fun e => tierOf e.2 == 2).map fun e => (e.2.hostAddr, footprint e.2)

/-- First fit of `n` bytes in the pools: at a pool's base or behind a taken range. -/
def hostPlace (d : Dev) (n : Nat) : Option Nat :=
  let taken := hostTaken d
  firstSome (fun (p : Nat × Nat) =>
    (p.1 :: (taken.map fun t => t.1 + t.2)).find? fun a =>
      decide (p.1 ≤ a) && decide (a + n ≤ p.1 + p.2) && taken.all fun t => decide (a + n ≤ t.1) || decide (t.1 + t.2 ≤ a))
    (hostPools d)

/-- Whether a scratchpad range is taken by an allocation of the tile. -/
def scratchTaken (d : Dev) (t : TileId) (a n : Nat) : Bool :=
  (allocList d).any fun e => tierOf e.2 == 0 && e.2.spTile == t.val && decide (a < e.2.spAddr + e.2.size) && decide (e.2.spAddr < a + n)

/-- Places an allocation: what it adds to the descriptor's fields, the stack where an HBM interleave starts being the device's
choice, a free value (R193); none when the tier cannot hold it. (Log entry 43, DESIGN CHOICE.) -/
def placeAlloc (d : Dev) (own : Option TileId) (w : List W32) : Option Alloc :=
  let flags := dfield w 2 0 8
  let size := dword w 3
  let a : Alloc := { flags := flags, kind := dfield w 2 8 2, size := size, elems := dword w 5 }
  let tier := flags % 4
  if tier = 0 then
    match tileOfCode (own.getD ⟨0, by omega⟩) (dfield w 7 23 7) (bitAt (wordAt w 7) 30) with
    | some t => if scratchTaken d t (dfield w 7 0 23) size then none else some { a with spAddr := dfield w 7 0 23, spTile := t.val }
    | none => none
  else if tier = 1 then
    let die := match own with | some t => dieOf t | none => 0
    let fits := decide (tierUsed d 1 + size ≤ hbmCapacity d) &&
      (if bitAt flags 2 then decide (dieUsed d die + size ≤ hbmCapacity d / 2)
       else decide (dieUsed d 0 + size / 2 ≤ hbmCapacity d / 2) && decide (dieUsed d 1 + size / 2 ≤ hbmCapacity d / 2))
    if fits then some { a with pinDie := die, stack := (freeNat d).1 % 8 } else none
  else if tier = 2 then (hostPlace d (footprint a)).map fun h => { a with hostAddr := h }
  else if tierUsed d 3 + size ≤ Config.flashBytes then some a else none

/-- The bytes of an allocation in a tier memory, and their poison, are gone. -/
def wipe (d : Dev) (id : Nat) : Dev := modMem d fun m => { m with
  tier := fclear m.tier (tierKey id 0 0) (tierKey (id + 1) 0 0)
  tierUndef := uCut m.tierUndef (tierKey id 0 0) (tierKey (id + 1) 0 0)
  tierPoison := fclear m.tierPoison (id * 2 ^ 60) ((id + 1) * 2 ^ 60) }

/-- Zero fill (R198): every byte, poison and INVALID bit of a new allocation. -/
def zeroFill (d : Dev) (id : Nat) (a : Alloc) : Dev :=
  if tierOf a = 0 then
    let t := tileOfNat a.spTile
    modMem d fun m => { m with
      scratch := fclear m.scratch (spKey t a.spAddr) (spKey t (a.spAddr + a.size))
      scratchUndef := uCut m.scratchUndef (spKey t a.spAddr) (spKey t (a.spAddr + a.size))
      spPoison := fclear m.spPoison (spLine t a.spAddr) (spLine t (a.spAddr + a.size))
      spInvalid := fclear m.spInvalid (spLine t a.spAddr) (spLine t (a.spAddr + a.size)) }
  else wipe (countUnits d id 0 0 a.size 1) id

/-- The allocation is gone, with its bytes. -/
def removeAlloc (d : Dev) (id : Nat) : Dev :=
  match getAlloc d id with
  | none => d
  | some a =>
    let d := if tierOf a = 0 then d else wipe d id
    putAlloc d id none

/-! ### ALLOC, FREE, QUERY, CTL (R195-R201) -/

/-- ALLOC: placed and filling; an existing flash allocation of equal SIZE is attached again (R201), where FLAGS names TIER FLASH_RO too,
whatever ELEMS (log entry 136, DESIGN CHOICE). -/
def allocStart (d : Dev) (src : MemSrc) : Dev :=
  onReady d src 0x90 fun e =>
    let w := e.words
    let id := wordAt w 1
    if id = 0 then endMem d src e 0x40 0 0 0
    else match getAlloc d id with
    | some a =>
      if tierOf a = 3 ∧ dfield w 2 0 2 = 3 ∧ a.size = dword w 3 ∧ !a.freeing then endMem d src e 0 0 0 0
      else endMem d src e 0x40 0 0 0
    | none =>
      if (allocList d).length ≥ 16384 then endMem d src e 0x40 0 0 0
      else if dfield w 2 0 2 = 2 ∧ d.mem.offlineNoted then endMem d src e 0x17 0 0 0
      else match placeAlloc d (memTile src) w with
      | none => endMem d src e 0x41 0 0 0
      | some a =>
        let d := putAlloc { d with fresh := d.fresh + 1 } id (some { a with filling := true, unmirrored := hasMirror a && d.safety.pairState != 1 })
        let d := if hasMirror a && joined d then sendCopyHead d id a true a.size else d
        let d := if hasMirror a && d.safety.joinWait then modSafety d fun s => { s with joinAcks := s.joinAcks ++ [id] } else d
        if tierOf a = 3 then endMem (modAlloc d id fun a => { a with filling := false }) src e 0 0 0 0
        else modMemEnt d src e.id fun e => { e with phase := .running }

def execAlloc (src : MemSrc) (s : State) : Host.Outcome State Fault Refusal :=
  run s fun d => if memActs d src then allocStart d src else d

/-- The partner of a joined pair has yet to confirm the copy (R200). -/
def copyOwed (d : Dev) (a : Alloc) : Bool := hasMirror a && joined d && !a.unmirrored && !a.confirmed

/-- The codes with which the fill may end: OK, once the partner has confirmed the copy and, of a HOST fill, only while the mainband takes
its writes (R207, R337); a tier error of a HOST fill, TIER_OFFLINE only once the host tier is offline (R207); a conflict
or lack of space on the partner of a joined pair, which then confirms nothing (R198, R200, R300). -/
def fillCodeOk (d : Dev) (a : Alloc) (code : Nat) : Bool :=
  (code == 0 && !copyOwed d a && (tierOf a != 2 || d.host.up)) || (tierOf a == 2 && (code == 0x16 || (code == 0x17 && hostOffline d)))
    || ((code == 0x40 || code == 0x41) && copyOwed d a)

/-- An allocation whose ALLOC fails, or that FREE frees, is gone on both devices (R198, R200), and a join does not wait for its copy. -/
def dropAlloc (d : Dev) (id : Nat) : Dev :=
  match getAlloc d id with
  | some a =>
    let d := removeAlloc (if hasMirror a && (joined d || d.safety.joinWait) && !a.mirrorCopy then sendCopyHead d id a true 0 else d) id
    if d.safety.joinAcks.contains id then
      joinReady (modSafety (dropCopies d (· == id)) fun s => { s with joinAcks := s.joinAcks.filter (· != id) })
    else d
  | none => d

/-- The zeros that fill a HOST allocation leave as HWRITE messages (R198, R328). -/
def hostFill (d : Dev) (a : Alloc) : Dev := if tierOf a = 2 then hostStore d a.hostAddr (zbytes (footprint a)) else d

/-- ALLOC_FILL_COMPLETE: the zero fill, and the partner's confirmation where MIRROR asks for one, has ended; while the pair is
joining, the new allocation is copied with the others (R200). -/
def allocFillComplete (d : Dev) (src : MemSrc) (code : Nat) : Dev :=
  match memEnt d src with
  | none => d
  | some e =>
    let id := wordAt e.words 1
    match getAlloc d id with
    | none => d
    | some a =>
      if e.phase ≠ .running ∨ opcodeOf e.words ≠ 0x90 ∨ !fillCodeOk d a code then d
      else if code = 0 then
        let d := modAlloc (hostFill (zeroFill d id a) a) id fun a => { a with filling := false }
        endMem (if d.safety.joinWait && d.safety.joinAcks.contains id then sendFullCopy d id else d) src e 0 0 0 0
      else
        let d := if code = 0x16 then dbump d 0xA003 4 1 32 else if code = 0x17 then noteOffline d else d
        endMem (dropAlloc d id) src e code 0 0 0

def execAllocFillComplete (src : MemSrc) (code : Byte) (s : State) : Host.Outcome State Fault Refusal :=
  run s fun d => if memActs d src then allocFillComplete d src code.toNat else d

/-- FREE: waits until every request that names the allocation has ended, a Reshard too; the command is given again until then.
(Log entry 36, DESIGN CHOICE.) -/
def freeAlloc (d : Dev) (src : MemSrc) : Dev :=
  match memEnt d src with
  | none => d
  | some e =>
    let id := wordAt e.words 1
    if !pastWait e || opcodeOf e.words != 0x91 || startsLater d src e then d
    else match getAlloc d id with
    | none => endMem d src e 0x40 0 0 0
    | some a =>
      if e.phase = .ready ∧ (a.freeing ∨ a.mirrorCopy) then endMem d src e 0x40 0 0 0
      else if a.busy || inUse d id e.id then
        modMemEnt (modAlloc d id fun a => { a with freeing := true }) src e.id fun e => { e with phase := .running }
      else endMem (dropAlloc d id) src e 0 0 0 0

def execFree (src : MemSrc) (s : State) : Host.Outcome State Fault Refusal :=
  run s fun d => if memActs d src then freeAlloc d src else d

/-- INVALID as QUERY reports it: for a SCRATCH allocation, any INVALID line. -/
def allocInvalid (d : Dev) (a : Alloc) : Bool :=
  a.invalid || (tierOf a == 0 && spIsInvalid d (tileOfNat a.spTile) a.spAddr a.size)

/-- STATE of Table 9-6. -/
def allocState (d : Dev) (id : Nat) (a : Alloc) : Nat :=
  b2n (allocInvalid d a) + 2 * b2n (degraded d id a) + 4 * b2n a.torn + 8 * b2n a.busy + 16 * b2n a.mirrorCopy
    + 32 * b2n a.unmirrored + 64 * b2n a.flashOpen + 128 * b2n a.poisonFull

/-- The status record of Table 9-6. -/
def statusRecord (d : Dev) (id : Nat) (a : Alloc) : List Byte :=
  natLe 4 id ++ natLe 1 a.flags ++ natLe 1 a.kind ++ natLe 2 (allocState d id a) ++ natLe 8 a.size ++ natLe 8 a.elems
    ++ natLe 8 a.counter ++ natLe 8 (if a.torn then a.tornIndex else 0) ++ natLe 4 (poisonedCount d id a) ++ zbytes 4
    ++ natLe 8 (if hasMirror a then a.mirrorAck else 0) ++ zbytes 8

/-- QUERY: the record goes to REC_ADDR, or over the host entry's own SQ slot (R331). -/
def queryAlloc (d : Dev) (src : MemSrc) : Dev :=
  onReady d src 0x93 fun e =>
    let id := wordAt e.words 1
    match getAlloc d id with
    | none => endMem d src e 0x40 0 0 0
    | some a =>
      if a.freeing ∧ getAlloc (asBefore d e.id) id = some a then endMem d src e 0x40 0 0 0
      else
        let r := statusRecord d id a
        let d := match src, e.org with
          | .tile t _, _ => writeOwn d t (dfield e.words 10 0 23) r
          | .host _, .host q seq =>
            let c := bitf (dget d 0x2102 (q.val + 1)) 0 4
            sendHost d (.hwrite (dget d 0x2101 (q.val + 1) + 64 * (seq.toNat % 2 ^ c)) r)
          | _, _ => d
        endMem d src e 0 0 0 0

def execQuery (src : MemSrc) (s : State) : Host.Outcome State Fault Refusal :=
  run s fun d => if memActs d src then queryAlloc d src else d

/-- Runs a CTL request with a CTL_OP on its allocation; `f` answers a code and the device, or none to wait. -/
def ctlOp (d : Dev) (src : MemSrc) (cop : Nat) (f : QEnt → Nat → Alloc → Option (Nat × Dev)) : Dev :=
  onReady d src 0x92 fun e =>
    if dfield e.words 0 8 4 ≠ cop then d
    else
      let id := wordAt e.words 1
      match getAlloc d id with
      | none => endMem d src e 0x40 0 0 0
      | some a =>
        if a.freeing ∧ getAlloc (asBefore d e.id) id = some a then endMem d src e 0x40 0 0 0
        else match f e id a with
        | some (c, d) => endMem d src e c 0 0 0
        | none => d

/-- CLEAR_INVALID (R199). -/
def clearInvalid (d : Dev) (src : MemSrc) : Dev :=
  ctlOp d src 1 fun _ id a =>
    let d := modAlloc d id fun a => { a with invalid := false }
    some (0, if tierOf a = 0 then spValidate d (tileOfNat a.spTile) a.spAddr a.size else d)

def execClearInvalid (src : MemSrc) (s : State) : Host.Outcome State Fault Refusal :=
  run s fun d => if memActs d src then clearInvalid d src else d

/-- CLEAR_TORN (R199). -/
def clearTorn (d : Dev) (src : MemSrc) : Dev :=
  ctlOp d src 2 fun _ id _ => some (0, modAlloc d id fun a => { a with torn := false, tornIndex := 0 })

def execClearTorn (src : MemSrc) (s : State) : Host.Outcome State Fault Refusal :=
  run s fun d => if memActs d src then clearTorn d src else d

/-- MIRROR_ACK after SET_COUNTER: the copy has the counter too, but does not count as level with a commit it was not sent. -/
def ackAfterSet (d : Dev) (id : Nat) (a : Alloc) (n : Nat) : Nat :=
  if mirroring d id && hasMirror a && !a.mirrorCopy then (if a.unsent then min a.mirrorAck (n - 1) else n) else a.mirrorAck

/-- The ring slot of version `n` holds the allocation as it stands (R185; log entry 114, DEDUCED). -/
def ringCopy (d : Dev) (id n : Nat) : Dev :=
  match getAlloc d id with
  | some a => if delayOf a = 0 || tierOf a != 2 then d else
    let b := allocRead d id 0 a.size
    hostStore (allocWriteSlot d id (ringSlot a n) 0 b) (a.hostAddr + ringSlot a n * a.size) b
  | none => d

/-- SET_COUNTER (R199): waits for the updates accepted before it, and for the host tier that takes its ring slot; sets the counter, and
that of the partner's copy. (Log entry 97, DESIGN CHOICE.) -/
def setCounter (d : Dev) (src : MemSrc) : Dev :=
  ctlOp d src 3 fun e id a =>
    if updatesBefore d id e.id || (delayOf a != 0 && hostWaits d a) then none
    else
      let n := dword e.words 8
      let d := ringCopy (modAlloc d id fun x => { x with counter := n, mirrorAck := ackAfterSet d id a n }) id n
      some (0, if mirroring d id && hasMirror a && !a.mirrorCopy then sendCopyCounter d id n else d)

def execSetCounter (src : MemSrc) (s : State) : Host.Outcome State Fault Refusal :=
  run s fun d => if memActs d src then setCounter d src else d

/-- FLASH_OPEN (R201): waits until every read of the allocation has ended. -/
def flashOpen (d : Dev) (src : MemSrc) : Dev :=
  ctlOp d src 4 fun _ id a =>
    if tierOf a ≠ 3 then some (0x43, d)
    else if readsOn d id then none
    else some (0, modAlloc d id fun a => { a with flashOpen := true })

def execFlashOpen (src : MemSrc) (s : State) : Host.Outcome State Fault Refusal :=
  run s fun d => if memActs d src then flashOpen d src else d

/-- FLASH_CLOSE (R201): signals once every sector written has been programmed. -/
def flashClose (d : Dev) (src : MemSrc) : Dev :=
  ctlOp d src 5 fun _ id a =>
    if tierOf a ≠ 3 then some (0x43, d)
    else if writesOn d id then none
    else some (0, modAlloc d id fun a => { a with flashOpen := false })

def execFlashClose (src : MemSrc) (s : State) : Host.Outcome State Fault Refusal :=
  run s fun d => if memActs d src then flashClose d src else d

/-! ### Tier moves (R202-R207) -/

/-- The slot a move reads: 1 + VERSION mod (D + 1) with USE_VERSION, the allocation itself otherwise (R203). -/
def moveSlot (w : List W32) (a : Alloc) : Nat :=
  if bitAt (wordAt w 0) 8 then 1 + dword w 11 % (delayOf a + 1) else 0

/-- Pieces of up to 4 KiB that a move reads, by offset. -/
def movePieces (w : List W32) : List (Nat × Nat) :=
  let rb := dfield w 7 0 24
  (List.range (dfield w 8 0 24)).flatMap fun r =>
    (List.range (cdiv rb 4096)).map fun i => (rowStart (dword w 2) (wordAt w 9) r + i * 4096, min 4096 (rb - i * 4096))

/-- The host reads of a tier move: none when its source is in another tier. -/
def moveReads (d : Dev) (w : List W32) : List HostPiece :=
  match getAlloc d (wordAt w 1) with
  | some a => if tierOf a = 2 then (movePieces w).map fun p => (wordAt w 1, moveSlot w a, p.1, p.2) else []
  | none => []

/-- A row of a move's source is INVALID (R205, R212). -/
def moveInvalid (d : Dev) (w : List W32) : Bool :=
  (List.range (dfield w 8 0 24)).any fun r => rangeInvalid d (wordAt w 1) (rowStart (dword w 2) (wordAt w 9) r) (dfield w 7 0 24)

/-- Sends what host reads a running move may. -/
def readMove (d : Dev) (src : MemSrc) (e : QEnt) : Dev :=
  let r := requestReads 512 d e.id (moveReads d e.words) e.bufPos
  modMemEnt r.1 src e.id fun e => { e with bufPos := r.2 }

/-- TIER_MOVE: the start of a move. A move that names a version waits until it is committed (R184, R203). `ecc` is an offset of
the source where an uncorrectable error is met. -/
def tierMove (d : Dev) (src : MemSrc) (ecc : Option Nat) : Dev :=
  onReady d src 0x94 fun e =>
    let w := e.words
    let sid := wordAt w 1
    let did := wordAt w 4
    let c0 := moveAllocs d w
    if c0 ≠ 0 then endMem d src e c0 0 0 0
    else match getAlloc d sid, getAlloc d did with
    | some a, some _ =>
      let ver := bitAt (wordAt w 0) 8
      if ver ∧ a.counter < dword w 11 then d
      else if ver ∧ dword w 11 + delayOf a < a.counter then endMem d src e 0x44 0 0 0
      else
        let v := asBefore d e.id
        let c := firstBad [checkAllocRead v sid 0 0, checkAllocWrite v did 0 0, (if moveInvalid v w then 0x42 else 0, 0)]
        if c.1 ≠ 0 ∧ c.1 ≠ 0x11 then endMem d src e c.1 0 0 0
        else
          let d := match ecc with
            | some o => if o < a.size && tierOf a != 2 && moveSlot w a == 0 && allocPoisonAt d sid o 1 == none then poisonAlloc d sid o else d
            | none => d
          let e := { e with phase := .running, bufPos := 0 }
          readMove (modMemEnt d src e.id fun _ => e) src e
    | _, _ => endMem d src e 0x40 0 0 0

def execTierMove (src : MemSrc) (ecc : Option Nat) (s : State) : Host.Outcome State Fault Refusal :=
  run s fun d => if memActs d src then tierMove d src ecc else d

/-- Copies one row's bytes into the destination; a HOST destination's bytes also leave as HWRITE messages (R328), those of a DELAY
allocation for its ring slot too. -/
def putRow (d : Dev) (did off : Nat) (b : List Byte) : Dev :=
  let d := allocWriteOther d did off b
  match getAlloc d did with
  | some a =>
    if tierOf a = 2 then
      let d := hostStore d (a.hostAddr + off) b
      if delayOf a = 0 then d else hostStore d (a.hostAddr + ringSlot a a.counter * a.size + off) b
    else d
  | none => d

/-- What fails row `r` of a move: a poisoned unit read, or one written in part. -/
def rowBad (d : Dev) (w : List W32) (slot r : Nat) : Option (Nat × Nat) :=
  let rb := dfield w 7 0 24
  let base := slot * (match getAlloc d (wordAt w 1) with | some a => a.size | none => 0)
  match allocPoisonAt d (wordAt w 1) (base + rowStart (dword w 2) (wordAt w 9) r) rb with
  | some o => some (wordAt w 1, o - base)
  | none => (allocPartial d (wordAt w 4) (rowStart (dword w 5) (wordAt w 10) r) rb).map fun o => (wordAt w 4, o)

/-- Copies the leading rows until one fails: the device, the rows written and the failure. -/
def copyRows (w : List W32) (slot : Nat) : List Nat → Nat → Dev → Dev × Nat × Option (Nat × Nat)
  | [], n, d => (d, n, none)
  | r :: rs, n, d =>
    match rowBad d w slot r with
    | some x => (d, n, some x)
    | none =>
      copyRows w slot rs (n + 1) (putRow (countUnits d (wordAt w 1) slot (rowStart (dword w 2) (wordAt w 9) r) (dfield w 7 0 24) 0) (wordAt w 4) (rowStart (dword w 5) (wordAt w 10) r)
        (allocReadSlot d (wordAt w 1) slot (rowStart (dword w 2) (wordAt w 9) r) (dfield w 7 0 24)))

/-- The rows of a move beyond the COUNT leading ones (R204): each 64-byte unit holds its earlier contents or the
source's data, which of them is a free value. (Log entry 37, DESIGN CHOICE.) -/
def blurRows (w : List W32) (slot : Nat) (rows : List Nat) (d : Dev) : Dev :=
  rows.foldl (fun d r => (List.range (dfield w 7 0 24 / 64)).foldl (fun d i =>
    let (v, d) := freeNat d
    let so := rowStart (dword w 2) (wordAt w 9) r + i * 64
    let off := rowStart (dword w 5) (wordAt w 10) r + i * 64
    let base := slot * (match getAlloc d (wordAt w 1) with | some a => a.size | none => 0)
    if v % 2 = 1 && (allocPoisonAt d (wordAt w 1) (base + so) 64).isNone && (allocPartial d (wordAt w 4) off 64).isNone then
      putRow d (wordAt w 4) off (allocReadSlot d (wordAt w 1) slot so 64)
    else d) d) d

/-- A move whose signal comes after a wait on its semaphore has begun counts once, whether the wait has ended meanwhile or not
(R99, R184, R204). -/
def latePrefetch (d : Dev) (src : MemSrc) (e : QEnt) : Dev :=
  match memTile src with
  | some t => if e.late then tileEv d t 5 1 else d
  | none => d

/-- More than 4,096 completion records wait for the mainband (R337). -/
def recordsHeld (d : Dev) : Bool :=
  decide ((d.host.waiting.filter fun m => match m with | .hwrite _ b => b.length == 32 | _ => false).length > 4096)

/-- TIER_MOVE_COMPLETE (R204, R209): the rows have been copied, or the first that could not ends the move. -/
def tierMoveComplete (d : Dev) (src : MemSrc) : Dev :=
  match memEnt d src with
  | none => d
  | some e =>
    let w := e.words
    if e.phase ≠ .running ∨ opcodeOf w ≠ 0x94 then d
    else match getAlloc d (wordAt w 1) with
    | none => d
    | some a =>
      let hostTo := match getAlloc d (wordAt w 4) with | some b => tierOf b == 2 | none => false
      if readsOpen d e.id || decide (e.bufPos < (moveReads d w).length) || (hostTo && !d.host.up) || recordsHeld d then d
      else
        let slot := moveSlot w a
        let rows := dfield w 8 0 24
        let (d, n, bad) := copyRows w slot (List.range rows) 0 d
        match bad with
        | none => endMem (latePrefetch d src e) src e 0 n 0 0
        | some (id, o) => endMem (blurRows w slot ((List.range rows).drop n) d) src e 0x11 n id o

def execTierMoveComplete (src : MemSrc) (s : State) : Host.Outcome State Fault Refusal :=
  run s fun d => if memActs d src then tierMoveComplete d src else d

/-- The tiers a request's transfer units use. -/
def usesTier (d : Dev) (e : QEnt) (tier : Nat) : Bool :=
  let t := fun (id : Nat) => match getAlloc d id with | some a => tierOf a == tier | none => false
  if opcodeOf e.words = 0x94 then t (wordAt e.words 1) || t (wordAt e.words 4) else t (wordAt e.words 1)

/-- The code with which a request whose transfer unit passes its deadline ends, and the device: TIER_TIMEOUT, counted, or
TIER_OFFLINE for a HOST request once the host tier has been unreachable for longer than its deadline (R206, R207). -/
def lateCode (d : Dev) (host : Bool) : Nat × Dev :=
  if host && hostOffline d then (0x17, noteOffline d) else (0x16, dbump d 0xA003 4 1 32)

/-- One of the allocations lies in a tier with a deadline. -/
def anyLower (d : Dev) (ids : List Nat) : Bool := anyTier d ids 1 || anyTier d ids 2 || anyTier d ids 3

/-- A transfer unit of a tier move or of an ALLOC's fill passed its tier's deadline after `rows` leading rows were written.
Scratchpad has no deadline. -/
def memDeadline (d : Dev) (src : MemSrc) (rows : Nat) : Dev :=
  match memEnt d src with
  | none => d
  | some e =>
    let w := e.words
    let host := usesTier d e 2
    let move := opcodeOf w == 0x94
    if e.phase ≠ .running ∨ !(move || opcodeOf w == 0x90) ∨ !(host || (move && (usesTier d e 1 || usesTier d e 3)))
      ∨ (move ∧ rows ≥ dfield w 8 0 24) then d
    else
      let (code, d) := lateCode d host
      if move then
        let slot := match getAlloc d (wordAt w 1) with | some a => moveSlot w a | none => 0
        let (d, n, _) := copyRows w slot (List.range rows) 0 d
        endMem (blurRows w slot ((List.range (dfield w 8 0 24)).drop n) d) src e code n 0 0
      else endMem (dropAlloc d (wordAt w 1)) src e code 0 0 0

/-! ### Error correction (R208, R209) -/

/-- Bytes of one HBM4 stack. -/
def stackBytes : Nat := 48 * 2 ^ 30

/-- Whether a unit exists. (Log entry 88, DESIGN CHOICE.) -/
def unitExists (d : Dev) (u : MemUnit) : Bool :=
  match u with
  | .scratch t a => inScratch t a 1
  | .alloc id off => match getAlloc d id.toNat with | some a => decide (off < a.size) | none => false
  | .slot id n off => match getAlloc d id.toNat with
    | some a => decide (off < a.size) && ((n == recvSlot && a.mirrorCopy) || (delayOf a != 0 && decide (1 ≤ n) && decide (n ≤ delayOf a + 1)))
    | none => false
  | .hbm _ addr => decide (addr < stackBytes)

/-- The HBM4 stack of a unit; none for a unit of another tier. -/
def unitStack (d : Dev) (u : MemUnit) : Option Nat :=
  match u with
  | .scratch _ _ => none
  | .alloc id off => match getAlloc d id.toNat with | some a => if tierOf a = 1 then some (stackOf a off) else none | none => none
  | .slot id n off => match getAlloc d id.toNat with | some a => if tierOf a = 1 then some (stackOf a (n * a.size + off)) else none | none => none
  | .hbm s _ => some s.val

/-- A corrected error is counted (R208): in 0xA003:01 and in the counter of the tile, stack or Die L. -/
def eccCorrected (d : Dev) (u : MemUnit) : Dev :=
  let d := dbump d 0xA003 1 1 64
  match u, unitStack d u with
  | _, some s => bump d (174 + s) 5 1
  | .scratch t _, none => tileEv d t 0x11 1
  | .alloc id _, none =>
    match getAlloc d id.toNat with
    | some a => if tierOf a = 0 then tileEv d (tileOfNat a.spTile) 0x11 1 else if tierOf a = 3 then dieLCtr d 3 1 else d
    | none => d
  | _, none => d

def execEccCorrectedRewrite (u : MemUnit) (s : State) : Host.Outcome State Fault Refusal :=
  if unitExists s.dev u then run s fun d => if alive d then eccCorrected d u else d else .fault .noSuchUnit

/-- The key of a line of a stack that no allocation owns: ALLOC_ID 0 is none of them. -/
def hbmKey (s addr : Nat) : Nat := poisonKey 0 (s * stackBytes + addr)

/-- An uncorrectable error in a line of HBM4 (R209). A line outside allocations is reported with ALLOC_ID 0 and its address in
the stack (log entry 88, DESIGN CHOICE). -/
def poisonLine (d : Dev) (u : MemUnit) : Dev :=
  match u with
  | .alloc id off => if (allocPoisonAt d id.toNat off 1).isSome then d else poisonAlloc d id.toNat off
  | .slot id n off => match getAlloc d id.toNat with
    | some a => if fget false d.mem.tierPoison (poisonKey id.toNat (n * a.size + off)) then d else poisonUnit d id.toNat (n * a.size + off)
    | none => d
  | .hbm s addr =>
    if fget false d.mem.tierPoison (hbmKey s.val addr) then d
    else
      let d := modMem d fun m => { m with tierPoison := fput false m.tierPoison (hbmKey s.val addr) true }
      dbump (post d 0x0030 2 (source 4 (s.val / 4) s.val 0) (poisonDetail 0 (addr / 64 * 64) 1)) 0xA003 2 1 32
  | .scratch _ _ => d

/-- PATROL_SCRUB (R208, R209): the scrub reads a line of HBM4, and a corrected or an uncorrectable error is treated as any other. Poison
goes only by a write that covers the unit. -/
def patrolScrub (d : Dev) (u : MemUnit) (res : ScrubResult) : Dev :=
  match unitStack d u with
  | none => d
  | some s =>
    let d := bump d (174 + s) 7 1
    match res with
    | .clean => d
    | .corrected => bump (dbump d 0xA003 1 1 64) (174 + s) 5 1
    | .uncorrectable => poisonLine d u

def execPatrolScrub (u : MemUnit) (res : ScrubResult) (s : State) : Host.Outcome State Fault Refusal :=
  if unitExists s.dev u then run s fun d => if alive d then patrolScrub d u res else d else .fault .noSuchUnit

end Sys2Proof.Machine
end

