-- ==== Sys2Proof/Machine/Launch.lean ====
section
/-!
DEFINITION. Launches (R226, R227, R258): from the issuing tile's launch queue to the launch queue of a Grinder, a
Percolator or a port's collective engine, and the end that a target reports.
-/
namespace Sys2Proof.Machine

/-- Whether the target of a launch has a free entry among its four. -/
def launchRoom (d : Dev) (w : List W32) : Bool :=
  let tgt := dfield w 0 8 4
  if opcodeOf w = 0xA0 then decide ((getCurv d tgt).grindQ.length < 4)
  else if opcodeOf w = 0xA1 then decide ((getCurv d tgt).scriptQ.length < 4)
  else decide ((fget [] d.fab.engineQ tgt).length < 4)

def progOf (l : Launch) : Prog := { launch := l, addr := dfield l.ent.words 1 0 23, idx := 0 }

/-- The next Grinder program starts when none runs (R126). -/
def grindNext (c : CurvSt) : CurvSt :=
  match c.grind, c.grindQ with
  | none, l :: r => { c with grind := some (progOf l), grindQ := r }
  | _, _ => c

/-- The next script starts when none runs (R137). -/
def scriptNext (c : CurvSt) : CurvSt :=
  match c.script, c.scriptQ with
  | none, l :: r => { c with script := some (progOf l), scriptQ := r }
  | _, _ => c

def cprogOf (l : Launch) : CProg :=
  { launch := l, alloc := wordAt l.ent.words 2, off := dword l.ent.words 3, resOff := wordAt l.ent.words 5 }

/-- The next collective program starts when an engine is free (R258). -/
def engineNext (d : Dev) (p : Nat) : Dev :=
  match fget none d.fab.engines p, fget [] d.fab.engineQ p with
  | none, l :: r => modFab d fun b => { b with engines := fput none b.engines p (some (cprogOf l)), engineQ := fput [] b.engineQ p r }
  | _, _ => d

/-- Sends a launch to its target's queue; it leaves the issuing tile's. -/
def sendLaunch (d : Dev) (t : TileId) (e : QEnt) : Dev :=
  let l : Launch := ⟨t, { e with phase := .running }⟩
  let tgt := dfield e.words 0 8 4
  let d := dropEnt d t 4 e.id
  if opcodeOf e.words = 0xA0 then modCurv d tgt fun c => grindNext { c with grindQ := c.grindQ ++ [l] }
  else if opcodeOf e.words = 0xA1 then modCurv d tgt fun c => scriptNext { c with scriptQ := c.scriptQ ++ [l] }
  else engineNext (modFab d fun b => { b with engineQ := fput [] b.engineQ tgt (fget [] b.engineQ tgt ++ [l]) }) tgt

/-- A launch with opcode `op` at the head of the launch queue that has passed WAIT_SEM: sent, or held at the head while the
target's queue is full (R227). -/
def launchCmd (d : Dev) (t : TileId) (op : Nat) : Dev :=
  match (getQueue d t 4).head? with
  | some e =>
    if e.phase ≠ .ready ∨ opcodeOf e.words ≠ op then d
    else if launchRoom d e.words then sendLaunch d t e
    else modEnt d t 4 e.id fun e => { e with phase := .running }
  | none => d

def execLaunchGrinderProgram (t : TileId) (s : State) : Host.Outcome State Fault Refusal :=
  run s fun d => if tileActs d t then launchCmd d t 0xA0 else d

def execLaunchPercolatorScript (t : TileId) (s : State) : Host.Outcome State Fault Refusal :=
  run s fun d => if tileActs d t then launchCmd d t 0xA1 else d

def execLaunchCollectiveProgram (t : TileId) (s : State) : Host.Outcome State Fault Refusal :=
  run s fun d => if tileActs d t then launchCmd d t 0xA2 else d

/-- LAUNCH_QUEUE_ENTRY (R227): a held launch enters the target's queue once an entry is free. -/
def launchQueueEntry (d : Dev) (t : TileId) : Dev :=
  match (getQueue d t 4).head? with
  | some e => if e.phase = .running ∧ launchRoom d e.words then sendLaunch d t e else d
  | none => d

def execLaunchQueueEntry (t : TileId) (s : State) : Host.Outcome State Fault Refusal :=
  run s fun d => if tileActs d t then launchQueueEntry d t else d

/-- The tile where a launched program runs; a port's collective engine has none. -/
def launchTile (l : Launch) : Option TileId :=
  if opcodeOf l.ent.words = 0xA2 then none else some (ctileNat (dfield l.ent.words 0 8 4))

/-- The end of a launched program: its record and its signal on the issuing tile, with the latency from the target (R227). -/
def endLaunch (d : Dev) (l : Launch) (code status count alloc aux off : Nat) : Dev :=
  endEntFrom d l.tile { l.ent with phase := .done, code := code, status := status, count := count, alloc := alloc, aux := aux, off := off } true
    (launchTile l)

end Sys2Proof.Machine
end

