-- ==== Sys2Proof/Machine/Issue.lean ====
section
/-!
DEFINITION. A collective issue on one participant (R258-R268): how an entry ends, ABORT and lost routes (R286, R287),
the wire records of EXACT (R264), the flows that leave, and what a chunk that arrives does.
-/
namespace Sys2Proof.Machine

/-! ### The entry -/

def collId (w : List W32) : Nat := wordAt w 1
def collEpoch (w : List W32) : Nat := wordAt w 2
def collTotal (w : List W32) : Nat := dword w 6
def esize (w : List W32) : Nat := 2 ^ dfield w 0 13 2
def isReducing (op : Nat) : Bool := op == 0xC0 || op == 0xC1
def isNorm (w : List W32) : Bool := bitAt (wordAt w 0) 10
def isBalanced (w : List W32) : Bool := bitAt (wordAt w 0) 11
def isAccum (w : List W32) : Bool := bitAt (wordAt w 0) 12
def isRecords (w : List W32) : Bool := bitAt (wordAt w 0) 15
def nranks (w : List W32) : Nat := dfield w 3 0 16 + 1
def sumNat (l : List Nat) : Nat := l.foldl (· + ·) 0
def prefixSum (l : List Nat) (i : Nat) : Nat := sumNat (l.take i)

/-- R106. -/
def balanced (c n : Nat) : List Nat := (List.range n).map fun r => c / n + (if r < c % n then 1 else 0)

def srcOff (w : List W32) : Nat := 64 * wordAt w 9
def dstOff (w : List W32) : Nat := 64 * wordAt w 11
def srcElem (w : List W32) : Nat := if isRecords w then 128 else esize w

/-- Elements that the destination receives (Table 11-10). -/
def dstElems (k : Coll) : Nat :=
  let op := collOp k.words
  if op = 0xC0 ∨ op = 0xC4 then collTotal k.words
  else if op = 0xC1 then k.counts.getD k.me 0
  else if op = 0xC2 then sumNat k.counts
  else if op = 0xC3 then sumNat k.recvCounts
  else if op = 0xC5 then (k.table.filter fun t => t.2.2.1 == k.me).length
  else 0

/-- Bytes of the destination range. -/
def dstBytes (k : Coll) : Nat :=
  if isNorm k.words then 64
  else if collOp k.words = 0xC5 then 0
  else dstElems k * esize k.words

/-- The semaphore tile of an entry; Die L counts dies from Die A (log entry 23, DEDUCED). -/
def semTile (w : List W32) : Option TileId :=
  if dfield w 15 12 7 = 0x7F then none else tileOfCode (tileOfNat 0) (dfield w 15 12 7) (dfield w 15 19 1 == 1)

def sameIssue (k : Coll) (id epoch me : Nat) : Bool :=
  collId k.words == id && collEpoch k.words == epoch && k.me == me
def findColl (d : Dev) (id epoch me : Nat) : Option Coll := d.fab.colls.find? fun k => sameIssue k id epoch me
def modColl (d : Dev) (k : Coll) (f : Coll → Coll) : Dev :=
  modFab d fun b => { b with colls := updFirst (fun x => sameIssue x (collId k.words) (collEpoch k.words) k.me) f b.colls }
def collOn (d : Dev) (p : Nat) : Option Coll := d.fab.colls.find? fun k => k.port == p

def staleDrop (d : Dev) (p : Nat) : Dev := if p < 16 then dbump d 0x6018 (p + 1) 1 32 else d

/-! ### The end of an entry (R258, R269, R270) -/

def entryResult (code flags epoch elems : Nat) : List Byte :=
  natLe 1 code ++ natLe 1 flags ++ zbytes 2 ++ natLe 4 epoch ++ natLe 8 elems

/-- Marks a destination range INVALID (Table 9-7): scratchpad lines, or the allocation. -/
def markInvalid (d : Dev) (id off n : Nat) : Dev :=
  match getAlloc d id with
  | none => d
  | some a =>
    if n = 0 then d
    else if tierOf a = 0 then spInvalidate d (tileOfNat a.spTile) (a.spAddr + off) n
    else modAlloc d id fun a => { a with invalid := true }

/-- Ends the program on engine `p` with the launch's record (R269) and lets the next one start. -/
def endProgram (d : Dev) (p : Nat) (g : CProg) (w : List W32) (code : Nat) : Dev :=
  let d := modFab d fun b => { b with engines := fput none b.engines p none }
  let d := endLaunch d g.launch code g.status g.idx g.degraded (collEpoch w) (collId w)
  engineNext d p

/-- Ends the entry reached on engine `p`: its result, the counters, its signal (END's too; log entry 118, DEDUCED) and the next
entry, or the program's end. -/
def endEntry (d : Dev) (p : Nat) (w : List W32) (code flags elems : Nat) : Dev :=
  match fget none d.fab.engines p with
  | none => d
  | some g =>
    let off := g.resOff + 16 * g.idx
    let fits := match getAlloc d g.alloc with | some a => decide (off + 16 ≤ a.size) | none => false
    let d := if fits then writeOwnAlloc d g.alloc off (entryResult code flags (collEpoch w) elems) else d
    let d := if code = 0x50 then dieLCtr (dbump d 0x6029 1 1 32) 6 1 else d
    let d := if code = 0 ∧ collOp w ≠ 0xCF then dieLCtr d 5 1 else d
    let deg := flags % 2
    let d := if deg = 1 then dbump d 0x6029 2 1 32 else d
    let st := bitf flags 2 1 + 2 * bitf flags 3 1 + 4 * bitf flags 1 1
    let g := { g with degraded := g.degraded + deg, status := g.status ||| st }
    let d := match (if code = 0 then semOfNat (signalSemOf w) else none), semTile w with
      | some s, some t => makeSig d ⟨t, s, 1, .program, none, none⟩
      | _, _ => d
    if code = 0 ∧ collOp w ≠ 0xCF then
      modFab d fun b => { b with engines := fput none b.engines p (some { g with idx := g.idx + 1, waiting := false, passed := false, words := [] }) }
    else endProgram d p g w code

/-- Member `i` adds nothing to a reduction: its count is zero (R105; log entry 112, DEDUCED). -/
def addsNone (k : Coll) (i : Nat) : Bool := k.counts.getD i 0 == 0

/-- Elements of this device's shard that the flow from member `i` brings in a reduction. -/
def partLen (k : Coll) (i : Nat) : Nat := if addsNone k i then 0 else k.counts.getD k.me 0

/-- Bytes of the parts of the flow from member `i`: the first part, and the second where there is one. -/
def flowLens (k : Coll) (i : Nat) : Nat × Option Nat :=
  let op := collOp k.words
  let es := esize k.words
  if op = 0xC0 then (4 * partLen k i, some (4 * k.counts.getD i 0))
  else if op = 0xC1 then (4 * partLen k i, none)
  else if op = 0xC2 then (es * k.counts.getD i 0, none)
  else if op = 0xC3 then (es * k.recvCounts.getD i 0, none)
  else if op = 0xC4 then
    (if i = dfield k.words 3 16 16 ∧ k.me ≠ i then (es * k.counts.getD k.me 0, some (es * k.counts.getD i 0))
     else (es * k.counts.getD i 0, none))
  else (0, none)

/-- Where chunk `seq` of a flow stands: its part, the offset in the part, its length, and whether it is the last; none
beyond the flow. -/
def chunkPlace (l0 : Nat) (l1 : Option Nat) (seq : Nat) : Option (Nat × Nat × Nat × Bool) :=
  match l1 with
  | none =>
    let n := max 1 (cdiv l0 4096)
    if seq < n then some (0, 4096 * seq, min 4096 (l0 - 4096 * seq), seq + 1 == n) else none
  | some b =>
    let n0 := cdiv l0 4096
    let n := max 1 (cdiv b 4096)
    if seq < n0 then some (0, 4096 * seq, min 4096 (l0 - 4096 * seq), false)
    else if seq - n0 < n then some (1, 4096 * (seq - n0), min 4096 (b - 4096 * (seq - n0)), seq - n0 + 1 == n)
    else none

def getIn (k : Coll) (i : Nat) : FlowIn := fget {} k.ins i

/-! ### The moves of a RESHARD (R107, R266) -/

/-- Slots of a RESHARD (R266): CHUNK bytes from DST_OFFSET, the last one perhaps short. -/
def slotLen (d : Dev) (w : List W32) (s : Nat) : Nat :=
  match getAlloc d (wordAt w 10) with
  | some a => min (wordAt w 6) (a.size - (dstOff w + s * wordAt w 6))
  | none => 0

/-- An entry of the permutation table: old index and slot, new index and slot. -/
abbrev RMove := Nat × Nat × Nat × Nat

/-- Bytes of a move, of which this device holds the old slot or the new. -/
def moveLen (d : Dev) (k : Coll) (t : RMove) : Nat := slotLen d k.words (if t.1 = k.me then t.2.1 else t.2.2.2)

/-- The moves of the flow from member `i` to member `r`, in table order: the place in the table and the bytes. -/
def flowMoves (d : Dev) (k : Coll) (i r : Nat) : List (Nat × Nat) :=
  (k.table.zipIdx.filter fun t => t.1.1 == i && t.1.2.2.1 == r).map fun t => (t.2, moveLen d k t.1)

/-- Where chunk `seq` of a flow of moves stands: the move, the offset in it, the bytes, and whether it is the last. Each move starts a
packet of its own (log entry 25, DESIGN CHOICE). -/
def movePlace : List (Nat × Nat) → Nat → Option (Nat × Nat × Nat × Bool)
  | [], _ => none
  | m :: ms, s =>
    let n := cdiv m.2 4096
    if s < n then some (m.1, 4096 * s, min 4096 (m.2 - 4096 * s), ms.isEmpty && s + 1 == n) else movePlace ms (s - n)

/-- The first CHUNK_SEQ of move `j` in its flow. -/
def moveBase : List (Nat × Nat) → Nat → Nat
  | [], _ => 0
  | m :: ms, j => if m.1 = j then 0 else cdiv m.2 4096 + moveBase ms j

/-- The place of the table that takes a chunk from the place `(i, s)`, and the one that brings a chunk to it. -/
def moveFrom (t : List RMove) (i s : Nat) : Option Nat := (t.zipIdx.find? fun e => e.1.1 == i && e.1.2.1 == s).map (·.2)
def moveTo (t : List RMove) (i s : Nat) : Option Nat := (t.zipIdx.find? fun e => e.1.2.2.1 == i && e.1.2.2.2 == s).map (·.2)

/-- The moves of the cycle of move `j`, from it on. -/
def cycleFrom (t : List RMove) (j0 : Nat) : Nat → Nat → List Nat
  | 0, _ => []
  | n + 1, j =>
    match t[j]? with
    | none => []
    | some e =>
      match moveFrom t e.2.2.1 e.2.2.2 with
      | some x => if x = j0 then [j] else j :: cycleFrom t j0 n x
      | none => [j]

/-- The cycle of move `j` by the first of its moves in the table, whose old place holds the cycle's first chunk (log entry 25, DESIGN
CHOICE). -/
def cycleHead (t : List RMove) (j : Nat) : Nat := (cycleFrom t j t.length j).foldl min j

/-- The move stays where it is. -/
def fixedMove (e : RMove) : Bool := e.1 == e.2.2.1 && e.2.1 == e.2.2.2

/-- Whether every chunk of move `j` from another member has been written here. -/
def moveHere (d : Dev) (k : Coll) (j : Nat) : Bool :=
  match k.table[j]? with
  | none => false
  | some e =>
    if e.1 = k.me then decide (j ∈ k.moved)
    else
      let b := moveBase (flowMoves d k e.1 k.me) j
      (List.range (cdiv (moveLen d k e) 4096)).all fun i => flowHas (getIn k e.1) (b + i)

/-- Whether move `j` of this device has been made, and every chunk of it acknowledged. -/
def moveDone (d : Dev) (k : Coll) (j : Nat) : Bool :=
  match k.table[j]? with
  | none => true
  | some e =>
    let b := moveBase (flowMoves d k k.me e.2.2.1) j
    decide (j ∈ k.moved) && !d.fab.retained.any fun r => r.pkt.type == 1 && r.pkt.collId == collId k.words && r.pkt.epoch == collEpoch k.words
      && r.pkt.srcIndex == k.me && r.pkt.dstIndex == e.2.2.1 && decide (b ≤ r.pkt.seq) && decide (r.pkt.seq < b + cdiv (moveLen d k e) 4096)

/-- Whether the chunk of slot `s` has left it: into the staging buffer, or to its new place with its acknowledgement. -/
def vacated (d : Dev) (k : Coll) (s : Nat) : Bool :=
  match moveFrom k.table k.me s with
  | none => true
  | some j => decide (j ∈ k.staged) || moveDone d k j

/-! ### What an entry has written (R269) -/

/-- Sequence numbers of the chunks held of a flow. -/
def heldSeqs (f : FlowIn) : List Nat := List.range f.cum ++ f.above

/-- Bytes of part `part` of the flow from member `i` that have been written. -/
def partBytes (k : Coll) (i part : Nat) : Nat :=
  let f := getIn k i
  let rec_ := isRecords k.words && isReducing (collOp k.words)
  let l := if rec_ then (0, some (4 * k.counts.getD i 0)) else flowLens k i
  sumNat ((heldSeqs f).map fun s => match (if rec_ && decide (s < f.next) then none else chunkPlace l.1 l.2 (if rec_ then s - f.next else s)) with
    | some (p, _, n, _) => if p = part then n else 0
    | none => 0)

/-- Destination elements that a collective which ends early has written. -/
def elemsWritten (d : Dev) (k : Coll) : Nat :=
  let w := k.words
  let op := collOp w
  let n := k.group.length
  if isNorm w then k.part
  else if op = 0xC5 then ((List.range k.table.length).filter fun j =>
    (match k.table[j]? with | some e => e.2.2.1 == k.me | none => false) && moveHere d k j).length
  else if isReducing op then
    let own := k.counts.getD k.me 0
    let shard := if k.mode = 0 then
        (if isAccum w then sumNat ((List.range (cdiv own 1024)).map fun s =>
          if (List.range n).any fun i => flowHas (getIn k i) s then min 1024 (own - 1024 * s) else 0) else if (getIn k k.me).cum > 0 then own else 0)
      else sumNat (k.done.map (chunkLen k))
    shard + (if op = 0xC0 then sumNat ((List.range n).map fun i => if i = k.me then 0 else partBytes k i 1 / 4) else 0)
  else sumNat ((List.range n).map fun i => (partBytes k i 0 + partBytes k i 1) / esize w)
    + (if op = 0xC4 ∧ k.me = dfield w 3 16 16 ∧ !k.sent.isEmpty then k.counts.getD k.me 0 else 0)

/-- Codes that leave destinations INVALID (Table 11-14), and those of a late or lost tier and of a closed flash allocation, which the
table does not list (log entry 117, DESIGN CHOICE). -/
def leavesInvalid (code : Nat) : Bool := code == 0x11 || code == 0x14 || code == 0x50 || code == 0x51 || code == 0x16 || code == 0x17 || code == 0x43

/-- Ends an active collective with a code: its chunks leave retention, a RESHARD's allocation stops being BUSY, and
destinations are marked where the code says so (R109 for a RESHARD). -/
def endColl (d : Dev) (k : Coll) (code : Nat) : Dev :=
  let w := k.words
  let id := collId w
  let ep := collEpoch w
  let d := modFab d fun b => { b with
    colls := b.colls.filter fun x => !sameIssue x id ep k.me
    retained := b.retained.filter fun r => !(r.pkt.type == 1 && r.pkt.collId == id && r.pkt.epoch == ep && r.pkt.srcIndex == k.me)
    doneIds := fmod [] b.doneIds id fun l => (l.filter fun x => x.1 != ep) ++ [(ep, code == 0)] }
  let d := if collOp w = 0xC5 then modAlloc d (wordAt w 10) fun a => { a with busy := false } else d
  let d := if leavesInvalid code then
      (if collOp w = 0xC5 then modAlloc d (wordAt w 10) fun a => { a with invalid := true }
       else markInvalid d (wordAt w 10) (dstOff w) (dstBytes k)) else d
  let flags := (if code = 0 then b2n k.degraded else 0) + 2 * bitf k.status 2 1 + 4 * bitf k.status 0 1 + 8 * bitf k.status 1 1
  endEntry d k.port w code flags (if code = 0 then (if isNorm w then 1 else dstElems k) else elemsWritten d k)

/-! ### ABORT (R262, R263, R286, R287) -/

/-- ABORT to every other member that has a route, apart from the indices in `skip`: a chunk of its own flow to each. -/
def sendAborts (d : Dev) (k : Coll) (reason : Nat) (skip : List Nat) : Dev :=
  sendChunks d ((k.faddrs.zipIdx.filter fun e =>
      e.1 != ownAddr d && hasRoute d e.1 && !decide (e.2 ∈ skip)).map fun e =>
    { type := 3, flags := lastFlag, dst := e.1, src := ownAddr d, srcIndex := k.me, dstIndex := e.2, collId := collId k.words
      epoch := collEpoch k.words, seq := 0, hops := 0, dhash := k.hash, payload := natLe 4 reason })

/-- The other rank that this device holds of the same issue ends with it (R309). -/
def otherSelf (d : Dev) (k : Coll) : Option Coll :=
  d.fab.colls.find? fun x => collId x.words == collId k.words && collEpoch x.words == collEpoch k.words && x.me != k.me

/-- Ends an issue with a code, and ABORT with a reason to the other members: the chunks of the issue have left their retention areas by
then. -/
def abortColl (d : Dev) (k : Coll) (reason code : Nat) (skip : List Nat) : Dev :=
  let d := endColl d k code
  let d := match otherSelf d k with
    | some o => endColl d o (if reason = 2 then 0x51 else 0x50)
    | none => d
  sendAborts d k reason skip

/-- A destination that cannot be written, or a poisoned source (R263). -/
def failColl (d : Dev) (k : Coll) (code : Nat) : Dev := abortColl d k 3 code []

/-- R286: every active collective with a member that has no route ends. -/
def checkRoutes (d : Dev) : Dev :=
  d.fab.colls.foldl (fun d k =>
    match findColl d (collId k.words) (collEpoch k.words) k.me with
    | some k => if k.faddrs.all (hasRoute d) then d else abortColl d k 1 0x50 []
    | none => d) d

/-! ### Wire records (R264) -/

def limb (v i : Nat) : Nat := bitf v (32 * i) 32

/-- The shortest form of a record. (Log entry 66, DESIGN CHOICE.) -/
def encWire (a : Acc) : List Byte :=
  let v := a.v.toNat
  let ext := b2n a.v.msb
  let top := if a.v.msb then 2 ^ 32 - 1 else 0
  let hi := ((List.range 20).filter fun i => limb v i != top).foldl (fun _ i => i + 1) 0
  let lo := ((List.range 20).find? fun i => limb v i != 0).getD 0
  let base := if hi = 0 then 0 else lo
  let cnt := if hi = 0 then 0 else if lo < hi then hi - lo else 1
  natLe 4 (base + 32 * cnt + 1024 * ext + 2048 * accFlags a) ++ (List.range cnt).flatMap fun i => natLe 4 (limb v (base + i))

/-- A record read from the front of a payload with the rest; none for a form that is not accepted. -/
def decWire (b : List Byte) : Option (Acc × List Byte) :=
  let h := recf b 0 4
  let base := bitf h 0 5
  let cnt := bitf h 5 5
  if b.length < 4 ∨ base + cnt > 20 ∨ b.length < 4 + 4 * cnt then none
  else
    let body := recf b 4 (4 * cnt) * 2 ^ (32 * base)
    let ones := if bitAt h 10 then 2 ^ 640 - 2 ^ (32 * (base + cnt)) else 0
    some (⟨BitVec.ofNat 640 (body + ones), bitAt h 11, bitAt h 12, bitAt h 13, bitAt h 14⟩, b.drop (4 + 4 * cnt))

/-- All records of a payload as their 128 bytes. -/
def decWires : Nat → List Byte → Option (List (List Byte))
  | 0, b => if b.isEmpty then some [] else none
  | n + 1, b =>
    if b.isEmpty then some []
    else match decWire b with
      | none => none
      | some (a, r) => (decWires n r).map (accBytes a :: ·)

/-- Records packed into chunks; none spans two. -/
def packWires : List Byte → List (List Byte) → List (List Byte)
  | cur, [] => if cur.isEmpty then [] else [cur]
  | cur, r :: rs => if cur.length + r.length > 4096 then cur :: packWires r rs else packWires (cur ++ r) rs

/-! ### Flows out (R252) -/

/-- The chunks of some payload bytes. -/
def rawChunks (b : List Byte) : List (List Byte) := chunksOf 4096 b.length b

/-- The DATA packets of a part of the flow to member `r`, their payloads in multiples of 4 bytes (a part that is not ends in zeros; log
entry 119, DESIGN CHOICE); the last one of the flow has LAST set, and a flow with nothing to carry sends one empty packet. A second part
starts at a new chunk (log entry 24, DESIGN CHOICE). -/
def flowPackets (d : Dev) (k : Coll) (r : Nat) (chunks : List (List Byte)) (final : Bool) (fl : Nat) : List Packet :=
  let from_ := fget 0 k.sent r
  let cs := if final && chunks.isEmpty then [[]] else chunks
  cs.zipIdx.map fun e =>
    { type := 1, flags := fl + (if final && e.2 + 1 == cs.length then lastFlag else 0), dst := k.faddrs.getD r 0, src := ownAddr d
      srcIndex := k.me, dstIndex := r, collId := collId k.words, epoch := collEpoch k.words, seq := from_ + e.2, hops := 0
      dhash := k.hash, payload := padTo (roundUp e.1.length 4) e.1 }

/-! ### Chunks in -/

/-- The code with which a destination stops taking writes while the collective runs: the host tier offline (R207), a flash allocation
closed (R201); 0 for none. -/
def destCode (d : Dev) (id : Nat) : Nat :=
  match getAlloc d id with
  | some a => if tierOf a = 2 ∧ d.mem.offlineNoted then 0x17 else if tierOf a = 3 ∧ !a.flashOpen then 0x43 else 0
  | none => 0

/-- Writes received bytes to DST at byte `off` of the destination; a unit poisoned in part, or a destination that takes no writes, ends
the collective. -/
def collWrite (d : Dev) (k : Coll) (off : Nat) (b : List Byte) : Dev :=
  let id := wordAt k.words 10
  match allocPartial d id (dstOff k.words + off) b.length with
  | some _ => failColl d k 0x11
  | none => if b.isEmpty then d else if destCode d id ≠ 0 then failColl d k (destCode d id) else allocWriteOther d id (dstOff k.words + off) b

/-- Counts atomic additions on the controllers of an HBM destination (Table 17-3). -/
def countAdds (d : Dev) (id off n : Nat) : Dev :=
  match getAlloc d id with
  | some a => if tierOf a = 1 then (List.range n).foldl (fun d i => bump d (174 + stackOf a (off + 4 * i)) 2 1) d else d
  | none => d

/-- An ATOMIC partial (R45): d ← fl(d + p) at byte `off` of the destination. (Log entry 61, DEDUCED.) Each sum written counts for
INF_SEEN and NAN_SEEN (log entry 153, DEDUCED). -/
def collAtomic (d : Dev) (k : Coll) (off : Nat) (b : List Byte) : Dev :=
  let id := wordAt k.words 10
  match allocPoisonAt d id (dstOff k.words + off) b.length with
  | some _ => failColl d k 0x11
  | none =>
    if b.isEmpty then d
    else
      let n := b.length / 4
      let r := List.zipWith fadd (toWords n (allocRead d id (dstOff k.words + off) b.length)) (toWords n b)
      let d := countAdds (countRead d id (dstOff k.words + off) b.length) id (dstOff k.words + off) n
      let d := allocWriteOther d id (dstOff k.words + off) (r.flatMap fun x => natLe 4 x.toNat)
      modColl d k fun k => { k with status := k.status ||| (if r.any isInf32 then 1 else 0) ||| (if r.any isNan32 then 2 else 0) }

/-- Result elements that come reduced from the rank of their shard show in the status as the own ones do (R38). -/
def noteSeen (d : Dev) (k : Coll) (b : List Byte) : Dev :=
  modColl d k fun k => { k with status := k.status ||| seenAll (toWords (b.length / 4) b) }

/-- Puts bytes of part `part` of the flow from `i` where they belong. -/
def placeBytes (d : Dev) (k : Coll) (i part off : Nat) (b : List Byte) : Dev :=
  let op := collOp k.words
  let es := esize k.words
  if op = 0xC0 ∧ part = 1 then noteSeen (collWrite d k (4 * prefixSum k.counts i + off) b) k b
  else if isReducing op then (if k.mode = 0 then collAtomic d k (4 * shardBase k + off) b else d)
  else if op = 0xC3 then collWrite d k (es * prefixSum k.recvCounts i + off) b
  else if op = 0xC4 ∧ part = 0 ∧ i = dfield k.words 3 16 16 ∧ k.me ≠ i then collWrite d k (es * prefixSum k.counts k.me + off) b
  else collWrite d k (es * prefixSum k.counts i + off) b

def modIn (d : Dev) (k : Coll) (i : Nat) (f : FlowIn → FlowIn) : Dev :=
  modColl d k fun k => { k with ins := fmod {} k.ins i f }

/-- A mismatch found on this participant (R262): ABORT with REASON 2 to all, COLL_MISMATCH. (Log entry 63, DESIGN CHOICE.) -/
def collMismatch (d : Dev) (k : Coll) : Dev := abortColl d k 2 0x51 []

/-! ### Staging (R254, R263) -/

/-- Whether the half that chunk `c` is staged in is free. -/
def halfFree (k : Coll) (c : Nat) : Bool :=
  let r := dfield k.words 12 6 7
  decide (c < 2 * r) || decide (c - 2 * r ∈ k.done)

/-- The reduction chunks that elements `[lo, lo + n)` of the shard touch. -/
def chunksAt (k : Coll) (lo n : Nat) : List Nat := (List.range (cdiv (lo + n) (chunkElems k.words))).drop (lo / chunkElems k.words)

/-- How many of the elements `[lo, lo + n)`, from the first on, may be staged: those up to the first reduction chunk whose half is not
free. A packet that touches more chunks than there are halves is staged piece by piece (R263). -/
def stageRoom (k : Coll) (lo n : Nat) : Nat :=
  match ((chunksAt k lo n).takeWhile (halfFree k)).getLast? with
  | some c => min n ((c + 1) * chunkElems k.words - lo)
  | none => 0

/-- Writes the partial of member `i` for elements `[lo, lo + n)` into the windows; a line poisoned in part ends the collective. -/
def stageRows (d : Dev) (k : Coll) (i lo n : Nat) (b : List Byte) : Dev :=
  let w := k.words
  let e := chunkElems w
  let sz := stageElem w
  if n = 0 then d else
  (chunksAt k lo n).foldl (fun d c =>
    let x := max lo (c * e)
    let m := min (lo + n) (c * e + e) - x
    let a := stageRow w c i + (x - c * e) * sz
    let v := (b.drop ((x - lo) * sz)).take (m * sz)
    match spPartial d (stageTile w c) a v.length with
    | some _ => failColl d k 0x11
    | none => spWrite d (stageTile w c) a v) d

/-- The first element of what is left of a chunk of plain elements, and their number: what is kept of a payload is its end. -/
def leftOf (k : Coll) (g : Nat × List Byte) : Nat × Nat :=
  let size := min 1024 (k.counts.getD k.me 0 - 1024 * g.1)
  (1024 * g.1 + (size - g.2.length / 4), g.2.length / 4)

/-- Stages the chunks of plain elements from member `i` that wait for a half, as far as they now may. -/
def drainRaw : Nat → Dev → Coll → Nat → Dev
  | 0, d, _, _ => d
  | fuel + 1, d, k, i =>
    match findColl d (collId k.words) (collEpoch k.words) k.me with
    | none => d
    | some k =>
      let room := fun (g : Nat × List Byte) => stageRoom k (leftOf k g).1 (leftOf k g).2
      match (getIn k i).got.find? fun g => decide ((leftOf k g).2 = 0) || decide (room g > 0) with
      | none => d
      | some g =>
        let n := room g
        let d := modIn d k i fun f =>
          if n = (leftOf k g).2 then { flowAdd f g.1 false with got := f.got.filter fun x => x.1 != g.1 }
          else { f with got := updFirst (fun x => x.1 == g.1) (fun x => (x.1, x.2.drop (4 * n))) f.got }
        drainRaw fuel (stageRows d k i (leftOf k g).1 n g.2) k i

/-- A chunk of the second part of a flow of records. -/
def secondChunk (d : Dev) (k : Coll) (i : Nat) (g : Nat × List Byte) : Dev :=
  let f := getIn k i
  match chunkPlace 0 (some (4 * k.counts.getD i 0)) (g.1 - f.next) with
  | none => collMismatch d k
  | some (_, off, m, last) =>
    if g.2.length ≠ m ∨ last ≠ (f.last == some g.1) then collMismatch d k
    else placeBytes (modIn d k i fun f => { flowAdd f g.1 false with got := f.got.filter (· != g) }) k i 1 off g.2

/-- What follows the first `n` records of a payload. -/
def dropWires : Nat → List Byte → List Byte
  | 0, b => b
  | n + 1, b => match decWire b with | some (_, r) => dropWires n r | none => []

/-- Parses the chunks of a flow of records in order and stages their records, as far as the halves are free; what follows the
records of an ALLREDUCE is its second part. -/
def drainRecords : Nat → Dev → Coll → Nat → Dev
  | 0, d, _, _ => d
  | n + 1, d, k, i =>
    match findColl d (collId k.words) (collEpoch k.words) k.me with
    | none => d
    | some k =>
      let f := getIn k i
      let need := partLen k i
      if collOp k.words = 0xC0 ∧ f.nrec = need then
        (match f.got with
         | g :: _ => drainRecords n (secondChunk d k i g) k i
         | [] => d)
      else match f.got.find? fun g => g.1 == f.next with
        | none => d
        | some g =>
          match decWires g.2.length g.2 with
          | none => collMismatch d k
          | some rs =>
            if f.nrec + rs.length > need then collMismatch d k
            else
              let m := stageRoom k f.nrec rs.length
              if m < rs.length ∧ m = 0 then d
              else
                let d := modIn d k i fun f =>
                  if m = rs.length then { flowAdd f g.1 false with nrec := f.nrec + m, next := f.next + 1, got := f.got.filter (· != g) }
                  else { f with nrec := f.nrec + m, got := updFirst (· == g) (fun g => (g.1, dropWires m g.2)) f.got }
                drainRecords n (stageRows d k i f.nrec m rs.flatten) k i

/-- Writes the chunks of a RESHARD's flow from member `i` whose places have been vacated (R107). -/
def drainMoves : Nat → Dev → Coll → Nat → Dev
  | 0, d, _, _ => d
  | n + 1, d, k, i =>
    match findColl d (collId k.words) (collEpoch k.words) k.me with
    | none => d
    | some k =>
      let at_ := fun (g : Nat × List Byte) => match movePlace (flowMoves d k i k.me) g.1 with
        | some (j, off, _, _) => (match k.table[j]? with | some e => if vacated d k e.2.2.2 then some (e.2.2.2 * wordAt k.words 6 + off) else none | none => none)
        | none => none
      match (getIn k i).got.find? fun g => (at_ g).isSome with
      | none => d
      | some g =>
        let d' := modIn d k i fun f => { flowAdd f g.1 false with got := f.got.filter fun x => x.1 != g.1 }
        drainMoves n (collWrite d' k ((at_ g).getD 0) g.2) k i

/-- Steps that suffice for what is kept of the flow from member `i`: each stages what its halves take of a chunk. -/
def drainFuel (k : Coll) (i : Nat) : Nat := 2 + (getIn k i).got.foldl (fun n g => n + 2 + g.2.length / 4) 0

/-- What is kept of the flow from member `i` goes where it belongs, as far as it may. -/
def drainIn (d : Dev) (k : Coll) (i : Nat) : Dev :=
  let n := drainFuel ((findColl d (collId k.words) (collEpoch k.words) k.me).getD k) i
  if isNorm k.words then d
  else if collOp k.words = 0xC5 then drainMoves n d k i
  else if isReducing (collOp k.words) && k.mode != 0 then
    if isRecords k.words then drainRecords n d k i else drainRaw n d k i
  else d

/-- A chunk of plain elements: written where it belongs, or staged, or kept until its halves are free. -/
def rawChunk (d : Dev) (k : Coll) (q : Packet) : Dev :=
  let l := flowLens k q.srcIndex
  match chunkPlace l.1 l.2 q.seq with
  | none => collMismatch d k
  | some (part, off, n, last) =>
    if q.payload.length ≠ roundUp n 4 ∨ bitAt q.flags 0 ≠ last then collMismatch d k
    else
      let staged := isReducing (collOp k.words) && part == 0 && k.mode != 0
      let d := modIn d k q.srcIndex fun f => if staged then { f with got := f.got ++ [(q.seq, q.payload)], last := if last then some q.seq else f.last }
        else flowAdd f q.seq last
      if staged then drainIn d k q.srcIndex else placeBytes d k q.srcIndex part off (q.payload.take n)

/-- A chunk of a flow of records. -/
def recordChunk (d : Dev) (k : Coll) (q : Packet) : Dev :=
  let i := q.srcIndex
  let d := modIn d k i fun f => { f with got := f.got ++ [(q.seq, q.payload)], last := if bitAt q.flags 0 then some q.seq else f.last }
  let d := drainIn d k i
  match findColl d (collId k.words) (collEpoch k.words) k.me with
  | none => d
  | some k =>
    let f := getIn k i
    if collOp k.words = 0xC1 ∧ flowWhole f ∧ f.nrec ≠ partLen k i then collMismatch d k else d

/-- A chunk of a RESHARD: it waits until the chunk that stands in its place has left it. -/
def moveChunk (d : Dev) (k : Coll) (q : Packet) : Dev :=
  let ms := flowMoves d k q.srcIndex k.me
  match (if ms.isEmpty ∧ q.seq = 0 then some (0, 0, 0, true) else movePlace ms q.seq) with
  | none => collMismatch d k
  | some (_, _, n, last) =>
    if q.payload.length ≠ n ∨ bitAt q.flags 0 ≠ last then collMismatch d k
    else if ms.isEmpty then modIn d k q.srcIndex fun f => flowAdd f q.seq last
    else
      drainIn (modIn d k q.srcIndex fun f => { f with got := f.got ++ [(q.seq, q.payload)], last := if last then some q.seq else f.last }) k q.srcIndex

/-- The record packet of a NORM all-reduce (R265): one record, and rank 0's policy, threshold and update counter. -/
def normChunk (d : Dev) (k : Coll) (q : Packet) : Dev :=
  match decWire q.payload with
  | none => collMismatch d k
  | some (a, r) =>
    if r.length ≠ (if q.srcIndex = 0 then 16 else 0) ∨ q.seq ≠ 0 ∨ !bitAt q.flags 0 then collMismatch d k
    else modIn d k q.srcIndex fun f => { flowAdd f 0 true with got := [(0, r)], recs := [accBytes a] }

/-- A chunk has been received: it is written, or it is kept until it may be. -/
def haveChunk (f : FlowIn) (s : Nat) : Bool := flowHas f s || f.got.any fun g => g.1 == s

/-- A new DATA chunk of an active collective: the hash, then its place. -/
def applyChunk (d : Dev) (k : Coll) (q : Packet) : Dev :=
  if q.dhash ≠ k.hash then collMismatch d k
  else
    let d := if bitAt q.flags 2 then modColl d k fun k => { k with degraded := true } else d
    if isNorm k.words then normChunk d k q
    else if collOp k.words = 0xC5 then moveChunk d k q
    else if isRecords k.words && isReducing (collOp k.words) then recordChunk d k q
    else rawChunk d k q

/-! ### Operands on the host tier (R337) -/

/-- Bytes of the source range that the entry reads on this device, RESHARD apart. -/
def sourceBytes (k : Coll) : Nat :=
  let w := k.words
  let op := collOp w
  (if isNorm w then 1 else if op = 0xC0 then collTotal w else if op = 0xC1 ∨ op = 0xC3 then sumNat k.counts
    else if op = 0xC2 then k.counts.getD k.me 0 else if op = 0xC4 ∧ k.me = dfield w 3 16 16 then collTotal w else 0) * srcElem w

/-- The allocations that hold what an entry reads and writes on this device. -/
def collIds (k : Coll) : List Nat :=
  (if sourceBytes k > 0 then [wordAt k.words 8] else []) ++ (if dstBytes k > 0 then [wordAt k.words 10] else [])

/-- A request of the entry waits for the UCIe link (R206, R337). -/
def collWaits (d : Dev) (k : Coll) : Bool := anyWaits d (collIds k)

/-- A chunk for an issue stays where it is while the issue's own start waits for the link, and while an addition at its destination
does (R337). -/
def chunkHeld (d : Dev) (k : Coll) (q : Packet) : Bool :=
  q.type == 1 && (k.held || (isReducing (collOp k.words) && k.mode == 0 && collWaits d k))

/-- Delivers a chunk to an issue; a chunk received before is not applied again (R254). -/
def deliver (d : Dev) (k : Coll) (q : Packet) : Dev :=
  match findColl d (collId k.words) (collEpoch k.words) k.me with
  | none => d
  | some k =>
    if k.held then modFab d fun b => { b with early := b.early ++ [(16, q)] }
    else if haveChunk (getIn k q.srcIndex) q.seq then d
    else modIn (applyChunk d k q) k q.srcIndex fun f => { f with unacked := 0 }

/-- Sends the packets of a flow: by Die L DMA to this device's own ranks (R257), else by retention and a route. Chunks for
a rank whose entry has not started wait as early arrivals. -/
def sendFlow (d : Dev) (k : Coll) (r : Nat) (qs : List Packet) : Dev :=
  let d := modColl d k fun k => { k with sent := fmod 0 k.sent r (· + qs.length) }
  if k.faddrs.getD r 0 ≠ ownAddr d then sendChunks d qs
  else match findColl d (collId k.words) (collEpoch k.words) r with
    | some o => qs.foldl (fun d q => deliver d o q) d
    | none => modFab d fun b => { b with early := b.early ++ qs.map fun q => (16, q) }

end Sys2Proof.Machine
end

