-- ==== Sys2Proof/Machine/Collective.lean ====
section
/-!
DEFINITION. Collective programs and the packets of collectives (chapter 11): the entries of Table 11-10 with their checks
(R259-R266), the reductions, and what DATA, ACK, ABORT, ARRIVE, RELEASE and the timers of R254 and R255 do.
-/
namespace Sys2Proof.Machine

/-! ### Checks (R256, R259-R266, R270) -/

def collReserved : List (Nat × Nat × Nat) := [(0, 16, 16), (12, 14, 18), (13, 23, 9), (15, 20, 12)]

def listedColl (op : Nat) : Bool := (decide (0xC0 ≤ op) && decide (op ≤ 0xC6)) || op == 0xC8 || op == 0xCF

/-- What must hold before the entry waits for its semaphore: the fields, the semaphores and their tile. (Log entry 57, DESIGN CHOICE.) -/
def checkEntryFields (w : List W32) : Nat :=
  let op := collOp w
  let red := isReducing op
  let semUsed := decide (waitSemOf w < 48) || decide (signalSemOf w < 48)
  firstCode [(1, anySet w collReserved || (!red && dfield w 0 8 2 != 0) || (op != 0xC4 && dfield w 3 16 16 != 0)
      || (isBalanced w && wordAt w 5 != 0) || (!isNorm w && wordAt w 14 != 0)
      || (!red && dfield w 12 6 7 != 0)),
    (4, semUsed && (semTile w).isNone), (5, badSem w)]

/-- Little-endian numbers of `n` bytes in a byte list. -/
def numbers (n : Nat) (b : List Byte) : List Nat := (chunksOf n b.length b).map leNat

/-- Bytes of the program's allocation that an entry lists: a code and the bytes. -/
def readList (d : Dev) (id off n : Nat) : Nat × List Byte :=
  match getAlloc d id with
  | none => (0x40, [])
  | some a =>
    if off + n > a.size then (4, [])
    else
      let c := checkAllocRead d id off n
      if c.1 ≠ 0 then (c.1, []) else (0, allocRead d id off n)

/-- The ranks at which this device stands in the table (R309). -/
def ownRanks (d : Dev) : List Nat :=
  match d.fab.ranks with
  | none => []
  | some t => ((t.zipIdx).filter fun e => e.1.2 && e.1.1 == ownAddr d).map fun e => e.2

/-- The rank as which engine `p` acts: MY_RANK on P00-P14, the other rank of a device that holds two on P15. -/
def engineRank (d : Dev) (p : Nat) : Option Nat :=
  if d.fab.ranks.isNone then none
  else if p < 15 then some d.fab.myRank
  else if (ownRanks d).length = 2 then (ownRanks d).find? fun r => r != d.fab.myRank
  else none

/-- R262: the top 24 bits of the descriptor hash. -/
def dhash (w : List W32) (group counts : List Nat) (table : List Byte) : Nat :=
  let m := fun (h : W64) (v : Nat) => mix (h ^^^ BitVec.ofNat 64 v)
  let h := [collOp w, dfield w 0 8 2, dfield w 0 10 1, dfield w 0 11 1, dfield w 0 13 2, dfield w 0 15 1, collId w, collEpoch w,
    dfield w 3 0 16, dfield w 3 16 16, collTotal w].foldl m (mix 0x5E1CA0D7)
  let h := group.foldl m h
  let h := counts.foldl m h
  let h := (numbers 8 table).foldl m h
  h.toNat / 2 ^ 40

/-- Whether this device's old and new slots of a RESHARD are each listed once and are the same, inside its allocation. -/
def reshardBad (d : Dev) (w : List W32) (n me : Nat) (t : List (Nat × Nat × Nat × Nat)) : Bool :=
  let old : List Nat := (t.filter fun e => e.1 == me).map fun e => e.2.1
  let new : List Nat := (t.filter fun e => e.2.2.1 == me).map fun e => e.2.2.2
  t.any (fun e => decide (e.1 ≥ n) || decide (e.2.2.1 ≥ n)) || !decide old.Nodup || !decide new.Nodup
    || old.any (fun s => !decide (s ∈ new)) || new.any (fun s => !decide (s ∈ old)) || old.any (fun s => slotLen d w s == 0)
    || t.any (fun e => e.1 == me && e.2.2.1 == me && slotLen d w e.2.1 != slotLen d w e.2.2.2)

/-- The checks of an entry after its semaphore (R261), in ascending order of code where they do not rest on one another:
the code, and the collective that starts when it is 0. (Log entry 60, DESIGN CHOICE.) -/
def prepareColl (d : Dev) (p : Nat) (g : CProg) (w : List W32) : Nat × Option Coll :=
  let op := collOp w
  let red := isReducing op
  let n := nranks w
  let total := collTotal w
  let rec_ := isRecords w
  let src := getAlloc d (wordAt w 8)
  let dst := getAlloc d (wordAt w 10)
  let moves := op != 0xC6
  let raised := raisedMode (dfield w 0 8 2) (match dst with | some a => hasExact a | none => false)
  let mode := if red then raised.1 else 0
  let c1 := if red && mode == 0 && dfield w 12 6 7 != 0 then 1 else 0
  if c1 ≠ 0 then (1, none)
  else if red && dfield w 0 13 2 != 2 then (2, none)
  else if rec_ && !(red && mode == 2) then (2, none)
  else if collId w == 0 || (red && dfield w 0 8 2 == 3) || (red && mode != 0 && decide (n > (if rec_ then 1023 else 2047)))
      || (op == 0xC4 && decide (dfield w 3 16 16 ≥ n))
      || (red && mode != 0 && (dfield w 12 6 7 == 0 || decide (dfield w 12 6 7 > 64)))
      || (isNorm w && !(op == 0xC0 && mode == 2 && rec_ && total == 1 && (match dst with | some a => tierOf a == 0 | none => true)))
      || (op == 0xC5 && (wordAt w 8 != wordAt w 10 || wordAt w 9 != wordAt w 11 || wordAt w 6 == 0 || wordAt w 6 % 64 != 0
        || decide (wordAt w 6 > 2 ^ 20))) then (3, none)
  else if wordAt w 4 % 64 != 0 || wordAt w 5 % 64 != 0
      || (red && mode == 0 && (match dst with | some a => a.kind != 1 | none => false))
      || (red && mode != 0 && !isNorm w && (dfield w 13 0 23 % 64 != 0 || decide (dfield w 13 0 23 + 0x40000 > 0x200000)))
      || (op == 0xC5 && (match dst with | some a => tierOf a != 1 | none => false)) then (4, none)
  else if red && mode != 0 && decide (dfield w 12 0 6 + dfield w 12 6 7 > 64) then (6, none)
  else
    let v := asBefore d g.launch.ent.id
    let gl := readList v g.alloc (wordAt w 4) (2 * n)
    let group := numbers 2 gl.2
    let nc := if op = 0xC3 then 2 * n else n
    let useList := !isBalanced w && (red || op == 0xC2 || op == 0xC3)
    let cl := if useList then readList v g.alloc (wordAt w 5) (8 * nc)
      else if op = 0xC5 then readList v g.alloc (wordAt w 5) (16 * wordAt w 7) else (0, [])
    let counts := if op = 0xC5 ∨ op = 0xC6 then [] else if useList then (numbers 8 cl.2).take n else balanced total n
    let table := if op = 0xC5 then (chunksOf 16 cl.2.length cl.2).map fun e => (recf e 0 2, recf e 2 6, recf e 8 2, recf e 10 6) else []
    if gl.1 ≠ 0 then (gl.1, none)
    else if cl.1 ≠ 0 then (cl.1, none)
    else match d.fab.ranks, engineRank d p with
      | some tab, some mine =>
        let known := group.all fun r => match tab[r]? with | some e => e.2 | none => false
        let me := (group.zipIdx.find? fun e => e.1 == mine).map fun e => e.2
        let i := me.getD 0
        let own := counts.getD i 0
        let recvs := if op = 0xC3 then (if useList then (numbers 8 cl.2).drop n else List.replicate n own) else []
        let sN := if isNorm w then 1 else if op = 0xC0 then total else if op = 0xC1 ∨ op = 0xC3 then sumNat counts
          else if op = 0xC2 then own else if op = 0xC4 then (if i = dfield w 3 16 16 then total else 0) else 0
        let dB := if isNorm w then 64 else if op = 0xC0 ∨ op = 0xC4 then total * esize w else if op = 0xC1 then own * 4
          else if op = 0xC2 then sumNat counts * esize w else if op = 0xC3 then sumNat recvs * esize w else 0
        let sB := sN * srcElem w
        let srcUsed := op == 0xC5 || (moves && decide (sN > 0))
        let past := fun (a : Option Alloc) (off nb : Nat) => match a with | some a => decide (off + nb > a.size) | none => false
        let busyOf := fun (a : Option Alloc) => match a with | some a => a.busy | none => false
        let goneOf := fun (a : Option Alloc) => match a with | some a => a.freeing | none => true
        let flash := fun (a : Option Alloc) (o : Bool) => match a with | some a => tierOf a == 3 && a.flashOpen == o | none => false
        let overlap := op != 0xC0 && op != 0xC5 && moves && wordAt w 8 == wordAt w 10 && decide (sB > 0) && decide (dB > 0)
          && decide (srcOff w < dstOff w + dB) && decide (dstOff w < srcOff w + sB)
        let code := firstCode [
          (3, (known && (!decide group.Nodup || me.isNone)) || ((red || op == 0xC2) && !isBalanced w && sumNat counts != total)
            || (op == 0xC5 && known && me.isSome && reshardBad d w n i table)),
          (4, (srcUsed && past src (srcOff w) sB) || (moves && past dst (dstOff w) dB) || overlap),
          (0x15, moves && (busyOf src || busyOf dst || (isNorm w && busyOf (getAlloc d (wordAt w 14))))),
          (0x17, d.mem.offlineNoted && ((srcUsed && anyTier d [wordAt w 8] 2) || (moves && anyTier d [wordAt w 10] 2))),
          (0x40, (srcUsed && goneOf src) || (moves && goneOf dst) || (isNorm w && i == 0 && goneOf (getAlloc d (wordAt w 14)))),
          (0x42, (srcUsed && rangeInvalid d (wordAt w 8) (srcOff w) (max sB 1)) || (red && isAccum w && decide (dB > 0) && rangeInvalid d (wordAt w 10) (dstOff w) dB)),
          (0x43, (srcUsed && flash src true) || (moves && flash dst false)),
          (0x52, !known),
          (0x53, d.fab.colls.any fun k => collId k.words == collId w && (k.port == 15) == (p == 15))]
        if code ≠ 0 then (code, none)
        else (0, some {
          port := p, words := w, group := group, faddrs := group.map fun r => match tab[r]? with | some e => e.1 | none => 0
          counts := counts, recvCounts := recvs, me := i, mode := mode, status := if red then raised.2 else 0
          hash := dhash w group (if useList && op != 0xC3 then counts else []) (if op = 0xC5 then cl.2 else [])
          table := table })
      | _, _ => (0x52, none)

/-! ### The start of an entry -/

def poisonAt (d : Dev) (id off n : Nat) : Bool := (allocPoisonAt d id off n).isSome

/-- Source bytes of elements `[lo, lo + n)` of an entry. -/
def srcBytes (d : Dev) (k : Coll) (lo n : Nat) : List Byte :=
  allocRead d (wordAt k.words 8) (srcOff k.words + lo * srcElem k.words) (n * srcElem k.words)

/-- Payload chunks of source elements: as they are, or as wire records. -/
def srcChunks (d : Dev) (k : Coll) (lo n : Nat) : List (List Byte) :=
  let b := srcBytes d k lo n
  if isRecords k.words then packWires [] ((chunksOf 128 b.length b).map fun r => encWire (accOfBytes r)) else rawChunks b

/-- Sends a part of the flow to every member. -/
def sendAll (d : Dev) (k : Coll) (chunks : Nat → List (List Byte)) (final : Bool) (fl : Nat) (skipSelf : Bool) : Dev :=
  (List.range k.group.length).foldl (fun d r =>
    match findColl d (collId k.words) (collEpoch k.words) k.me with
    | none => d
    | some k => if skipSelf && r == k.me then d else sendFlow d k r (flowPackets d k r (chunks r) final fl)) d

/-- The payload of a NORM participant (R265). -/
def normPayload (d : Dev) (k : Coll) : List Byte :=
  encWire (accOfBytes (srcBytes d k 0 1)) ++
    (if k.me = 0 then natLe 4 (dget d 0x9010 1) ++ natLe 4 (dget d 0x9010 2)
      ++ natLe 8 (match getAlloc d (wordAt k.words 14) with | some a => a.counter | none => 0) else [])

/-- A unit of the source that the entry reads on this device is poisoned. -/
def srcRead (d : Dev) (k : Coll) : Bool :=
  let w := k.words
  let id := wordAt w 8
  let op := collOp w
  if op = 0xC5 then k.table.any fun t => t.1 == k.me && poisonAt d id (srcOff w + t.2.1 * wordAt w 6) (slotLen d w t.2.1)
  else
    decide (sourceBytes k > 0) && poisonAt d id (srcOff w) (sourceBytes k)

/-- The first data that an entry moves (Table 11-10). A rank whose own count is zero adds nothing to a reduction: its flows carry no
elements (R105; log entry 112, DEDUCED). The source of a reduction is read before the destination is cleared, for the two may be one range.
The moves of a RESHARD follow by RESHARD's own commands. -/
def startMoves (d : Dev) (k : Coll) : Dev :=
  let w := k.words
  let op := collOp w
  let d := countRead d (wordAt w 8) (srcOff w) (sourceBytes k)
  if isNorm w then
    let q := normPayload d k
    let d := modIn d k k.me fun f => { flowAdd f 0 true with
      unacked := 0, got := [(0, q.drop (encWire (accOfBytes (srcBytes d k 0 1))).length)], recs := [accBytes (accOfBytes (srcBytes d k 0 1))] }
    sendAll d k (fun _ => [q]) true 10 true
  else if isReducing op then
    let clear := if k.mode = 0 ∧ !isAccum w then collWrite d k (4 * shardBase k) (zbytes (4 * k.counts.getD k.me 0)) else d
    sendAll clear k (fun r => if addsNone k k.me then [] else srcChunks d k (prefixSum k.counts r) (k.counts.getD r 0)) (op == 0xC1) (if isRecords w then 2 else 0) false
  else if op = 0xC2 then sendAll d k (fun _ => srcChunks d k 0 (k.counts.getD k.me 0)) true 0 false
  else if op = 0xC3 then sendAll d k (fun r => srcChunks d k (prefixSum k.counts r) (k.counts.getD r 0)) true 0 false
  else if op = 0xC4 then
    if k.me = dfield w 3 16 16 then
      let d' := sendAll d k (fun r => srcChunks d k (prefixSum k.counts r) (k.counts.getD r 0)) false 0 true
      match findColl d' (collId w) (collEpoch w) k.me with
      | some k => collWrite d' k (esize w * prefixSum k.counts k.me) (srcBytes d k (prefixSum k.counts k.me) (k.counts.getD k.me 0))
      | none => d'
    else d
  else if op = 0xC5 then
    ((List.range k.group.length).filter fun r => r != k.me && (flowMoves d k k.me r).isEmpty).foldl (fun d r =>
      sendFlow d k r (flowPackets d k r [] true 0)) d
  else if op = 0xC6 then
    if k.me = 0 then modColl d k fun k => { k with arrived := [0] }
    else if k.faddrs.getD 0 0 = ownAddr d then
      (match findColl d (collId w) (collEpoch w) 0 with
       | some o => if o.hash = k.hash then modColl d o fun o => { o with arrived := o.arrived ++ [k.me] } else collMismatch d o
       | none => modFab d fun b => { b with early := b.early ++ [(16, arrivePkt d k)] })
    else sendLoose d (arrivePkt d k)
  else d
where
  /-- ARRIVE to group index 0. -/
  arrivePkt (d : Dev) (k : Coll) : Packet :=
    { type := 4, flags := 0, dst := k.faddrs.getD 0 0, src := ownAddr d, srcIndex := k.me, dstIndex := 0, collId := collId k.words
      epoch := collEpoch k.words, seq := 0, hops := 0, dhash := k.hash, payload := [] }

/-! ### Progress -/

/-- Index 0 of a BARRIER sends RELEASE to every member once all arrivals are in (R267). -/
def barrierRelease (d : Dev) (k : Coll) : Dev :=
  let d := modColl d k fun k => { k with released := true }
  (k.faddrs.zipIdx.filter fun e => e.2 != 0).foldl (fun d e =>
    if e.1 = ownAddr d then
      (match findColl d (collId k.words) (collEpoch k.words) e.2 with
       | some o => if o.hash = k.hash then modColl d o fun o => { o with released := true } else collMismatch d o
       | none => d)
    else sendLoose d { type := 5, flags := 0, dst := e.1, src := ownAddr d, srcIndex := 0, dstIndex := e.2, collId := collId k.words
                       epoch := collEpoch k.words, seq := 0, hops := 0, dhash := k.hash, payload := [] }) d

/-- The norm record of Table 8-3 and the decision of R171, when every record is in. SCALE is a free value where the decision
states none (SKIP, HALT). (Log entry 65, DESIGN CHOICE.) -/
def normFinish (d : Dev) (k : Coll) : Dev :=
  let acc := (List.range k.group.length).foldl (fun a i =>
    match (getIn k i).recs with | r :: _ => accMerge a (accOfBytes r) | [] => a) accEmpty
  let tail := match (getIn k 0).got with | g :: _ => g.2 | [] => []
  let pol := recf tail 0 4
  let thr := BitVec.ofNat 32 (recf tail 4 4)
  let step := recf tail 8 8
  let ss := accRound acc
  let nm := fsqrt ss
  let bad := acc.pinf || acc.ninf || acc.nan || isNan32 ss || isInf32 ss
  let above := flt thr nm
  let dec := if bad then (if pol = 2 then 3 else 1) else if above then (if pol = 0 then 1 else if pol = 1 then 2 else 3) else 0
  let (fv, d) := if dec = 1 ∨ dec = 3 then freeNat d else (0, d)
  let scale := if dec = 0 then 0x3F800000 else if dec = 2 then (fdiv thr nm).toNat else fv % 2 ^ 32
  let gen := (dget d 0x9010 8 + 1) % 2 ^ 64
  let fl := b2n acc.pinf + 2 * b2n acc.ninf + 4 * b2n acc.nan
  let rec_ := natLe 4 ss.toNat ++ natLe 4 nm.toNat ++ natLe 4 scale ++ natLe 1 dec ++ natLe 1 pol ++ natLe 1 fl ++ zbytes 1
    ++ natLe 4 thr.toNat ++ zbytes 4 ++ natLe 8 step ++ natLe 8 gen ++ zbytes 24
  match allocPartial d (wordAt k.words 10) (dstOff k.words) 64 with
  | some _ => failColl d k 0x11
  | none =>
    let d := allocWriteOther d (wordAt k.words 10) (dstOff k.words) rec_
    let d := dset (dset d 0x9010 8 gen) 0x9010 6 nm.toNat
    let ev := natLe 4 nm.toNat ++ zbytes 4 ++ natLe 8 step
    let d := if dec = 1 then post (dbump d 0x9010 4 1 32) 0x0038 1 srcDevice ev
      else if dec = 2 then dbump d 0x9010 5 1 32
      else if dec = 3 then post (dset d 0x9010 3 1) 0x0039 2 srcDevice ev else d
    modColl d k fun k => { k with part := 1, status := k.status ||| seen ss }

/-- Whether every chunk of the first part of the flow from `i` is here. -/
def firstPartIn (k : Coll) (i : Nat) : Bool :=
  (List.range (cdiv (4 * partLen k i) 4096)).all fun s => flowHas (getIn k i) s

/-- Whether the reduced shard of this device stands at DST. -/
def shardDone (k : Coll) : Bool :=
  let n := k.counts.getD k.me 0
  if k.mode = 0 then (List.range k.group.length).all fun i => firstPartIn k i
  else decide (k.done.length = cdiv n (chunkElems k.words))

/-- Sends the own block of the second part, read from DST. -/
def sendOwnBlock (d : Dev) (k : Coll) : Dev :=
  let es := esize k.words
  let off := dstOff k.words + es * prefixSum k.counts k.me
  let n := es * k.counts.getD k.me 0
  if poisonAt d (wordAt k.words 10) off n then failColl d k 0x11
  else
    let b := allocRead d (wordAt k.words 10) off n
    sendAll (modColl (countRead d (wordAt k.words 10) off n) k fun k => { k with part := 1 }) k (fun _ => rawChunks b) true 0 true

/-- Goes on to the second part of ALLREDUCE and BROADCAST, to the norm record, or to RELEASE, when it is time. -/
def advanceColl (d : Dev) (k : Coll) : Dev :=
  let op := collOp k.words
  if k.part ≠ 0 ∨ k.code ≠ 0 ∨ k.held ∨ collWaits d k then d
  else if isNorm k.words then
    if (List.range k.group.length).all fun i => !(getIn k i).recs.isEmpty then normFinish d k else d
  else if op = 0xC0 then (if shardDone k then sendOwnBlock d k else d)
  else if op = 0xC4 then
    let root := dfield k.words 3 16 16
    let n0 := cdiv (esize k.words * k.counts.getD k.me 0) 4096
    if k.me = root ∨ (List.range n0).all fun s => flowHas (getIn k root) s then sendOwnBlock d k else d
  else if op = 0xC6 then
    if k.me = 0 ∧ k.arrived.length ≥ k.group.length then barrierRelease (modColl d k fun k => { k with part := 1 }) k else d
  else d

def advanceAll (d : Dev) : Dev :=
  d.fab.colls.foldl (fun d k =>
    match findColl d (collId k.words) (collEpoch k.words) k.me with
    | some k => advanceColl d k
    | none => d) d

/-- R268: whether a collective has completed on this device; what it writes to the host tier is there by then (R206, R337). -/
def collDone (d : Dev) (k : Coll) : Bool :=
  let op := collOp k.words
  let others := (List.range k.group.length).filter fun i => i != k.me
  let acked := !d.fab.retained.any fun r => r.pkt.type == 1 && r.pkt.collId == collId k.words && r.pkt.epoch == collEpoch k.words
    && r.pkt.srcIndex == k.me
  let insWhole := others.all fun i => flowWhole (getIn k i) && (getIn k i).unacked == 0
  if op = 0xC6 then k.released
  else !k.held && !collWaits d k && acked && insWhole
    && (op != 0xC5 || k.table.zipIdx.all fun t => t.1.1 != k.me || decide (t.2 ∈ k.moved))
    && (!isReducing op || isNorm k.words || shardDone k) && (k.part == 1 || !(op == 0xC0 || op == 0xC4))

/-! ### Early arrivals (R255) -/

/-- An epoch older than another (R255). -/
def olderEpoch (e f : Nat) : Bool :=
  let x := (f + 2 ^ 32 - e % 2 ^ 32) % 2 ^ 32
  decide (1 ≤ x) && decide (x < 2 ^ 31)

def earlyBytes (d : Dev) : Nat := sumNat (d.fab.early.map fun e => pktBytes e.2)
/-- The area of 16 MiB in HBM4. -/
def earlyRoom (d : Dev) (q : Packet) : Bool := decide (earlyBytes d + pktBytes q ≤ 16 * 2 ^ 20)

/-- The ACK of a flow of an issue. -/
def collAck (d : Dev) (q : Packet) (pay : List Byte) (seq : Nat) : Dev :=
  sendLoose d (ackPacket d q.src q.dstIndex q.srcIndex q.collId q.epoch seq q.dhash pay)

/-- The ACK of the flow from member `i`. -/
def flowAck (d : Dev) (k : Coll) (i : Nat) : Dev :=
  sendLoose (modIn d k i fun f => { f with unacked := 0 })
    (ackPacket d (k.faddrs.getD i 0) k.me i (collId k.words) (collEpoch k.words) 0 k.hash (ackPayload (getIn k i)))

/-- The LAST chunk of a flow has been written since `f`. -/
def lastWritten (f g : FlowIn) : Bool := match g.last with | some s => flowHas g s && !flowHas f s | none => false

/-- Acknowledges at once for LAST, for a flow that is whole and at eight chunks (R254); `k` is the collective before what may have been
written. -/
def ackIfDue (d : Dev) (k : Coll) (i : Nat) : Dev :=
  let f0 := getIn k i
  match findColl d (collId k.words) (collEpoch k.words) k.me with
  | none => d
  | some k =>
    let f := getIn k i
    if f.unacked > 0 ∧ (lastWritten f0 f ∨ flowWhole f ∨ f.unacked ≥ 8) then flowAck d k i else d

/-- What a collective keeps of its flows goes on, as far as it may, with the acknowledgements due. -/
def drainColl (d : Dev) (k : Coll) : Dev :=
  (List.range k.group.length).foldl (fun d i =>
    match findColl d (collId k.words) (collEpoch k.words) k.me with
    | some k => if (getIn k i).got.isEmpty then d else ackIfDue (drainIn d k i) k i
    | none => d) d

/-- A packet of an issue that is active: a chunk with its acknowledgement, ARRIVE, RELEASE or ABORT. -/
def activePacket (d : Dev) (k : Coll) (p : Nat) (q : Packet) : Dev :=
  if q.type = 1 then
    if haveChunk (getIn k q.srcIndex) q.seq then staleDrop (collAck d q (ackPayload (getIn k q.srcIndex)) 0) p
    else
      let d := ackIfDue (applyChunk d k q) k q.srcIndex
      match findColl d (collId k.words) (collEpoch k.words) k.me with
      | some k => advanceColl d k
      | none => d
  else if q.type = 3 then abortColl d k (recf q.payload 0 4) (if recf q.payload 0 4 = 2 then 0x51 else 0x50) [q.srcIndex]
  else if q.dhash ≠ k.hash then collMismatch d k
  else if q.type = 4 then
    (if collOp k.words = 0xC6 ∧ k.me = 0 ∧ q.srcIndex ∉ k.arrived then
      let k' := { k with arrived := k.arrived ++ [q.srcIndex] }
      advanceColl (modColl d k fun k => { k with arrived := k.arrived ++ [q.srcIndex] }) k'
     else d)
  else if collOp k.words = 0xC6 then modColl d k fun k => { k with released := true }
  else d

/-- Packets held of older issues of a COLL_ID are discarded when a newer one starts. -/
def dropOlder (d : Dev) (id ep : Nat) : Dev :=
  let old := d.fab.early.filter fun e => e.2.collId == id && olderEpoch e.2.epoch ep
  old.foldl (fun d e => staleDrop d e.1) (modFab d fun b => { b with early := b.early.filter fun e => !(e.2.collId == id && olderEpoch e.2.epoch ep) })

/-- The packets held for an issue: the device without them, and they. -/
def takeHeld (d : Dev) (k : Coll) : Dev × List (Nat × Packet) :=
  let mine := fun (e : Nat × Packet) => e.2.collId == collId k.words && e.2.epoch == collEpoch k.words && e.2.dstIndex == k.me
  (modFab d fun b => { b with early := b.early.filter fun e => !mine e }, d.fab.early.filter mine)

/-- The packets held for an issue that has ended at its start are discarded. -/
def dropHeld (d : Dev) (k : Coll) : Dev :=
  let r := takeHeld d k
  r.2.foldl (fun d e => staleDrop d e.1) r.1

/-- The packets held for an issue take effect; those left when one of them has ended it are discarded. -/
def takeEarly (d : Dev) (k : Coll) : Dev :=
  let r := takeHeld d k
  r.2.foldl (fun d e => match findColl d (collId k.words) (collEpoch k.words) k.me with | some k => activePacket d k e.1 e.2 | none => staleDrop d e.1) r.1

/-- The first data of an entry moves, and what has been held for it follows. -/
def startData (d : Dev) (k : Coll) : Dev :=
  if srcRead d k then dropHeld (failColl d k 0x11) k
  else
    let d := startMoves d k
    match findColl d (collId k.words) (collEpoch k.words) k.me with
    | none => dropHeld d k
    | some k =>
      let d := takeEarly d k
      match findColl d (collId k.words) (collEpoch k.words) k.me with
      | some k => advanceColl d k
      | none => d

/-- The start of an entry's data waits for the UCIe link: for its own operands, or those of the other rank of this device (R337). -/
def startWaits (d : Dev) (k : Coll) : Bool :=
  collWaits d k || match otherSelf d k with | some o => collWaits d o | none => false

/-- An entry whose data waited for the link goes on (R337). -/
def resumeColl (d : Dev) (k : Coll) : Dev :=
  if !k.held || startWaits d k then d
  else startData (modColl d k fun k => { k with held := false }) { k with held := false }

/-- Starts an entry: the partner that is lost, a member without a route and an ABORT held for it end it at once (R286, R287,
R307). Its older issues' packets are dropped (R255). -/
def startColl (d : Dev) (k : Coll) : Dev :=
  let d := modFab d fun b => { b with colls := b.colls ++ [k] }
  let d := if collOp k.words = 0xC5 then modAlloc d (wordAt k.words 10) fun a => { a with busy := true } else d
  let d := dropOlder d (collId k.words) (collEpoch k.words)
  if d.safety.pairState = 2 ∧ partnerAddr d ∈ k.faddrs then dropHeld (abortColl d k 3 0x50 []) k
  else if !k.faddrs.all (hasRoute d) then dropHeld (abortColl d k 1 0x50 []) k
  else match d.fab.early.find? fun e => e.2.type == 3 && e.2.collId == collId k.words && e.2.epoch == collEpoch k.words && e.2.dstIndex == k.me with
    | some e =>
      dropHeld (activePacket (modFab d fun b => { b with early := dropFirst (· == e) b.early }) k e.1 e.2) k
    | none => if startWaits d k then modColl d k fun k => { k with held := true } else startData d k

/-! ### The moves of a RESHARD (R107) -/

/-- The engine whose buffer stages a cycle's first chunk: that of the port which carries the cycle's first move, as R257 chooses it for
that move's first chunk; P00 where that move uses no port (R107; log entry 25, DESIGN CHOICE). -/
def stagePort (d : Dev) (k : Coll) (j : Nat) : Nat :=
  match k.table[j]? with
  | none => 0
  | some e =>
    match (moveTo k.table e.1 e.2.1).bind fun i => (k.table[i]?).map fun x => (i, x) with
    | some (i, x) =>
      let a := k.faddrs.getD x.1 0
      if a = ownAddr d then 0
      else match pickRoute d a (moveBase (flowMoves d k x.1 k.me) i) [] with | some (p, _) => p | none => 0
    | none => 0

/-- The stages that still hold a chunk: it has not been written to its new place yet. -/
def liveStages (d : Dev) (k : Coll) : List (Nat × Nat × List Byte) := k.stages.filter fun s => !moveDone d k s.2.1

/-- The staging buffer of port `p` is taken by some cycle of the device. -/
def stageTaken (d : Dev) (p : Nat) : Bool := d.fab.colls.any fun k => (liveStages d k).any fun s => s.1 == p

/-- Makes move `j` of a RESHARD with its bytes: inside the device at once, or as packets to its new device. -/
def sendMove (d : Dev) (k : Coll) (j : Nat) (e : RMove) (b : List Byte) : Dev :=
  let d := modColl d k fun k => { k with moved := k.moved ++ [j] }
  if e.2.2.1 = k.me then collWrite d k (e.2.2.2 * wordAt k.words 6) b
  else
    let ms := flowMoves d k k.me e.2.2.1
    let n := sumNat (ms.map fun m => cdiv m.2 4096)
    sendFlow d k e.2.2.1 ((rawChunks b).zipIdx.map fun c =>
      let s := moveBase ms j + c.2
      { type := 1, flags := if s + 1 = n then lastFlag else 0, dst := k.faddrs.getD e.2.2.1 0, src := ownAddr d, srcIndex := k.me
        dstIndex := e.2.2.1, collId := collId k.words, epoch := collEpoch k.words, seq := s, hops := 0, dhash := k.hash, payload := c.1 })

/-- The moves of its cycle that come before move `j` (R107): each takes the chunk out of the place that the next one fills; the head's
chunk stands in the staging buffer meanwhile. -/
def movesBefore (t : List RMove) (j : Nat) : List Nat := ((cycleFrom t j t.length j).drop 1).takeWhile (· != cycleHead t j)

/-- Move `x` has been made and acknowledged, as far as this device takes part in it. -/
def moveSeen (d : Dev) (k : Coll) (x : Nat) : Bool :=
  match k.table[x]? with
  | some e => if e.1 = k.me then moveDone d k x else e.2.2.1 != k.me || moveHere d k x
  | none => true

/-- The turn of move `j` has come: the moves before it have been made, and a cycle that this device leads has been led. Of moves between
other devices the device knows nothing: there the commands' order decides (log entry 25, DESIGN CHOICE). -/
def moveTurn (d : Dev) (k : Coll) (j : Nat) : Bool :=
  let h := cycleHead k.table j
  (movesBefore k.table j).all (moveSeen d k)
    && (h == j || decide (h ∈ k.staged) || match k.table[h]? with | some e => e.1 != k.me | none => true)

/-- Takes the chunk of move `j` out of its place: the first chunk of a cycle goes into the staging buffer, and from there to its new
place once the place it left has been filled and every other move of the cycle made; another chunk goes to its new place in its turn,
once that has been vacated when it is on this device. -/
def reshardStep (d : Dev) (k : Coll) (j : Nat) (e : RMove) : Dev :=
  let w := k.words
  let off := srcOff w + e.2.1 * wordAt w 6
  let n := slotLen d w e.2.1
  let free := moveTurn d k j && (e.2.2.1 != k.me || vacated d k e.2.2.2)
  if fixedMove e then modColl d k fun k => { k with moved := k.moved ++ [j] }
  else if cycleHead k.table j ≠ j then
    if !free then d
    else if poisonAt d (wordAt w 8) off n then failColl d k 0x11
    else sendMove (countRead d (wordAt w 8) off n) k j e (allocRead d (wordAt w 8) off n)
  else if decide (j ∈ k.staged) then
    let filled := match moveTo k.table k.me e.2.1 with | some x => moveHere d k x | none => true
    if !free || !filled then d
    else sendMove d k j e (match k.stages.find? fun s => s.2.1 == j with | some s => s.2.2 | none => [])
  else
    let q := stagePort d k j
    if stageTaken d q then d
    else if poisonAt d (wordAt w 8) off n then failColl d k 0x11
    else modColl (countRead d (wordAt w 8) off n) k fun k => { k with staged := k.staged ++ [j], stages := liveStages d k ++ [(q, j, allocRead d (wordAt w 8) off n)] }

/-- RESHARD's step for entry `j` of the permutation table, on the engine of port `p`; chunks that waited for a place it vacates are
written. The order of the steps is the commands' (log entry 25, DESIGN CHOICE). -/
def reshardMove (d : Dev) (p j : Nat) : Dev :=
  match collOn d p with
  | none => d
  | some k =>
    match k.table[j]? with
    | none => d
    | some e =>
      if collOp k.words ≠ 0xC5 ∨ e.1 ≠ k.me ∨ j ∈ k.moved ∨ k.held then d
      else
        let d := reshardStep d k j e
        match findColl d (collId k.words) (collEpoch k.words) k.me with
        | some k => drainColl d k
        | none => d

/-- SETRANKS (R256, R309): code, and the device with the table loaded. The table lies in HBM. -/
def setRanks (d : Dev) (p : Nat) (w : List W32) : Nat × Dev :=
  let n := collTotal w
  if n = 0 ∨ n > 65536 then (3, d)
  else if (getAlloc d (wordAt w 8)).any fun a => tierOf a != 1 then (4, d)
  else
    let r := readList d (wordAt w 8) (srcOff w) (8 * n)
    if r.1 ≠ 0 then (r.1, d)
    else
      let es := numbers 8 r.2
      let mine := es.getD (dfield w 3 0 16) 0
      let code := firstCode [(1, es.any fun v => decide (v ≥ 2 ^ 33)),
        (0x52, mine / 2 ^ 32 != 1 || mine % 2 ^ 32 != ownAddr d || (p == 15 && (engineRank d p).isNone)), (0x53, !d.fab.colls.isEmpty)]
      if code ≠ 0 then (code, d)
      else (0, modFab (countRead d (wordAt w 8) (srcOff w) (8 * n)) fun b => { b with ranks := some (es.map fun v => (v % 2 ^ 32, v / 2 ^ 32 == 1)), myRank := dfield w 3 0 16 })

/-! ### The engine reads an entry (R258) -/

/-- The entry reached: a code where it cannot be read, and its words. -/
def readEntry (d : Dev) (g : CProg) : Nat × List W32 :=
  let r := readList (asBefore d g.launch.ent.id) g.alloc (g.off + 64 * g.idx) 64
  (r.1, toWords 16 r.2)

/-- The entry names reducing tiles that the device does not have (R7): tiles of its staging beyond 63 of their die. -/
def collMember (d : Dev) (w : List W32) : Bool :=
  let exact := match getAlloc d (wordAt w 10) with | some a => hasExact a | none => false
  isReducing (collOp w) && (raisedMode (dfield w 0 8 2) exact).1 != 0 && decide (dfield w 12 0 6 + dfield w 12 6 7 > 64)

/-- Counts the read of an entry that has not been read yet (R258). -/
def countEntry (d : Dev) (g : CProg) : Dev := if g.words.isEmpty then countRead d g.alloc (g.off + 64 * g.idx) 64 else d

/-- Counts the reads of the lists that an entry names: its ranks, and its counts or its table (R261). -/
def countLists (d : Dev) (g : CProg) (w : List W32) : Dev :=
  let op := collOp w
  let n := nranks w
  let listed := !isBalanced w && (isReducing op || op == 0xC2 || op == 0xC3)
  countRead (countRead d g.alloc (wordAt w 4) (2 * n)) g.alloc (wordAt w 5)
    (if op = 0xC5 then 16 * wordAt w 7 else if listed then (if op = 0xC3 then 16 * n else 8 * n) else 0)

/-- ISSUE_SEQ of the thread that launched a program. -/
def launchSeq (g : CProg) : Nat := match g.launch.ent.org with | .thread _ q _ => q.toNat | _ => 0

/-- Refuses an entry; one that names tiles the device does not have records the event, whatever the code (R7, Table 17-8). -/
def refuseEntry (d : Dev) (p : Nat) (g : CProg) (w : List W32) (code : Nat) : Dev :=
  endEntry (if collMember d w then post d 0x0010 2 (portSource p) (natLe 4 (collOp w) ++ natLe 4 (launchSeq g)) else d) p w code 0 0

/-- The program of an engine waits for the UCIe link with what it reads of its allocation: an entry or an entry's lists (R337). -/
def progWaits (d : Dev) (g : CProg) : Bool := anyWaits d [g.alloc]

/-- The entry after its semaphore. -/
def beginEntry (d : Dev) (p : Nat) (g : CProg) (w : List W32) : Dev :=
  if collOp w = 0xC8 then
    let r := setRanks d p w
    endEntry r.2 p w r.1 0 0
  else if progWaits d g then d
  else
    match prepareColl d p g w with
    | (0, some k) => if d.fab.colls.length ≥ 64 then d else startColl (countLists d g w) k
    | (c, _) => refuseEntry d p g w c

/-- The entry that the program of an engine has reached: read once, when it is reached. -/
def entryOf (d : Dev) (g : CProg) : Nat × List W32 := if g.words.isEmpty then readEntry d g else (0, g.words)

/-- An entry of engine `p` that has been read: it takes its WAIT_SEM count, joining the queue for it, and `f` runs when it has it. -/
def withCount (d : Dev) (p : Port) (g : CProg) (w : List W32) (f : Dev → CProg → Dev) : Dev :=
  match semOfNat (waitSemOf w), semTile w with
  | some s, some t =>
    if g.passed then f d g
    else
      let d := modFab d fun b => { b with engines := fput none b.engines p.val (some { g with waiting := true, words := w }) }
      let d := joinSem d t s (.coll p)
      (match fget none d.fab.engines p.val with
       | some g => if g.passed then f d g else d
       | none => d)
  | _, _ => f (modFab d fun b => { b with engines := fput none b.engines p.val (some { g with words := w }) }) g

/-- A command that names opcode `op`: engine `p` has reached such an entry. It first takes its WAIT_SEM count. For an entry whose data waits
for the UCIe link the command is the attempt to go on. -/
def collCmd (d : Dev) (p : Port) (op : Nat) : Dev :=
  match fget none d.fab.engines p.val with
  | none => d
  | some g =>
    let r := entryOf d g
    if (collOn d p.val).isSome then
      (match collOn d p.val with | some k => if collOp k.words = op then resumeColl d k else d | none => d)
    else if g.waiting || (g.words.isEmpty && progWaits d g) || r.1 != 0 || collOp r.2 != op then d
    else
      let w := r.2
      let c := checkEntryFields w
      let d := countEntry d g
      if c ≠ 0 then refuseEntry d p.val g w c else withCount d p g w fun d g => beginEntry d p.val g w

def execAllreduce (p : Port) (s : State) : Host.Outcome State Fault Refusal := run s fun d => if alive d then collCmd d p 0xC0 else d
def execReducescatter (p : Port) (s : State) : Host.Outcome State Fault Refusal := run s fun d => if alive d then collCmd d p 0xC1 else d
def execAllgather (p : Port) (s : State) : Host.Outcome State Fault Refusal := run s fun d => if alive d then collCmd d p 0xC2 else d
def execAlltoall (p : Port) (s : State) : Host.Outcome State Fault Refusal := run s fun d => if alive d then collCmd d p 0xC3 else d
def execBroadcast (p : Port) (s : State) : Host.Outcome State Fault Refusal := run s fun d => if alive d then collCmd d p 0xC4 else d
/-- RESHARD: the entry's start, or the step of a move. -/
def execReshard (r : ReshardStep) (s : State) : Host.Outcome State Fault Refusal :=
  run s fun d => if alive d then (match r.move with | some j => reshardMove d r.port.val j | none => collCmd d r.port 0xC5) else d
def execBarrier (p : Port) (s : State) : Host.Outcome State Fault Refusal := run s fun d => if alive d then collCmd d p 0xC6 else d
def execSetranks (p : Port) (s : State) : Host.Outcome State Fault Refusal := run s fun d => if alive d then collCmd d p 0xC8 else d

/-- COLL_END (R269): the program's END entry, once it has its count, an entry that cannot be read, or one with an opcode not listed, ends
it. (Log entry 58, DEDUCED.) -/
def collEndCmd (d : Dev) (p : Port) : Dev :=
  match fget none d.fab.engines p.val with
  | none => d
  | some g =>
    let r := entryOf d g
    let c := checkEntryFields r.2
    if g.waiting || (collOn d p.val).isSome || (g.words.isEmpty && progWaits d g) then d
    else if r.1 ≠ 0 then endEntry d p.val [] r.1 0 0
    else if !listedColl (collOp r.2) then endEntry (countEntry d g) p.val r.2 8 0 0
    else if collOp r.2 ≠ 0xCF then d
    else if c ≠ 0 then endEntry (countEntry d g) p.val r.2 c 0 0
    else withCount (countEntry d g) p g r.2 fun d _ => endEntry d p.val r.2 0 0 0

def execCollEnd (p : Port) (s : State) : Host.Outcome State Fault Refusal := run s fun d => if alive d then collEndCmd d p else d

/-- The result of an engine's entry waits for the UCIe link (R337). -/
def resultWaits (d : Dev) (p : Port) : Bool := match fget none d.fab.engines p.val with | some g => progWaits d g | none => false

/-- COLL_ENTRY_COMPLETE (R268, R269): the entry of engine `p` has completed, or its reduction has failed (R263). -/
def collComplete (d : Dev) (p : Port) : Dev :=
  match collOn d p.val with
  | none => d
  | some k =>
    if k.code ≠ 0 then failColl d k k.code
    else
      let d := drainColl d k
      match collOn d p.val with
      | none => d
      | some k =>
        let d := advanceColl d k
        match collOn d p.val with
        | some k => if collDone d k && !resultWaits d p then endColl d k 0 else d
        | none => d

def execCollEntryComplete (p : Port) (s : State) : Host.Outcome State Fault Refusal :=
  run s fun d => if alive d then collComplete d p else d

/-! ### Reduction chunks (R263) -/

/-- Whether the partial of member `i` for elements `[lo, lo + n)` has been staged: whole packets, or a packet as far as it is wanted. -/
def rowHere (k : Coll) (i lo n : Nat) : Bool :=
  let f := getIn k i
  if addsNone k i then true
  else if isRecords k.words then decide (f.nrec ≥ lo + n)
  else ((List.range (cdiv (4 * (lo + n)) 4096)).drop (4 * lo / 4096)).all fun s =>
    flowHas f s || f.got.any fun g => g.1 == s && decide ((leftOf k g).1 ≥ min (lo + n) (1024 * (s + 1)))

/-- The VREDUCE descriptor of a chunk (Table 4-1). (Log entry 62, DESIGN CHOICE.) -/
def stageWords (k : Coll) (c : Nat) : List W32 :=
  let w := k.words
  let n := k.group.length
  let pitch := chunkElems w * stageElem w
  let fx := if isRecords w then 10 else 8
  [BitVec.ofNat 32 (0x58 + 256 * k.mode + 4096 * b2n (isAccum w)), BitVec.ofNat 32 (fx + 256 * 8), BitVec.ofNat 32 (chunkLen k c),
   BitVec.ofNat 32 n, BitVec.ofNat 32 (stageAddr w c), BitVec.ofNat 32 pitch, 0, 0, BitVec.ofNat 32 (stageRow w c n),
   BitVec.ofNat 32 pitch, 0, 0, 0, 0, 0, BitVec.ofNat 32 (63 + 64 * 63)]

/-- The row of a member that adds nothing (R105): −0, or the empty record, in every place, which leave any sum as it is. -/
def noneRow (k : Coll) (n : Nat) : List Byte :=
  (List.replicate n (if isRecords k.words then accBytes accEmpty else natLe 4 0x80000000)).flatten

/-- The rows of the members that add nothing are filled in for chunk `c`. -/
def fillNone (d : Dev) (k : Coll) (c : Nat) : Dev :=
  ((List.range k.group.length).filter (addsNone k)).foldl (fun d i =>
    stageRows d k i (c * chunkElems k.words) (chunkLen k c) (noneRow k (chunkLen k c))) d

/-- Issues the VREDUCE of chunk `c`, whose rows stand in the window, with the destination's value beside them under ACCUM. -/
def issueChunk (d : Dev) (k : Coll) (c : Nat) : Dev :=
  let w := k.words
  let n := chunkLen k c
  let t := stageTile w c
  let a := stageRow w c k.group.length
  let old := checkAllocRead (unfreed d) (wordAt w 10) (chunkDst k c) (4 * n)
  let d := fillNone d k c
  if (findColl d (collId w) (collEpoch w) k.me).isNone then d
  else if isAccum w ∧ old.1 ≠ 0 then failColl d k old.1
  else if isAccum w ∧ (spPartial d t a (4 * n)).isSome then failColl d k 0x11
  else
    let d := if isAccum w then spWrite (countRead d (wordAt w 10) (chunkDst k c) (4 * n)) t a (allocRead d (wordAt w 10) (chunkDst k c) (4 * n)) else d
    let d := modColl d k fun k => { k with issued := k.issued ++ [c] }
    pushEnt d t { id := 0, unit := 1, words := stageWords k c, org := .coll (portOf k.port) (collEpoch w * 2 ^ 32 + c) }
where
  portOf (p : Nat) : Port := ⟨p % 16, by omega⟩

/-- Whether chunk `c` may go to its tile: every row is in its window, and the tile's vector queue has a free entry. -/
def chunkReady (d : Dev) (k : Coll) (c : Nat) : Bool :=
  isReducing (collOp k.words) && k.mode != 0 && !isNorm k.words && decide (c < cdiv (k.counts.getD k.me 0) (chunkElems k.words))
    && !decide (c ∈ k.issued) && !decide (c ∈ k.done) && halfFree k c && !(isAccum k.words && collWaits d k)
    && decide ((getQueue d (stageTile k.words c) 1).length < 8) && k.code == 0
    && (List.range k.group.length).all fun i => rowHere k i (c * chunkElems k.words) (chunkLen k c)

/-- CHUNK_STAGED_COMPLETE (R263): what waits for free halves is staged; then, with every row present, the half free and an entry free
in the tile's vector queue, the engine issues the VREDUCE. -/
def chunkStaged (d : Dev) (p : Port) (c : Nat) : Dev :=
  match collOn d p.val with
  | none => d
  | some k =>
    let d := drainColl d k
    match collOn d p.val with
    | none => d
    | some k => if chunkReady d k c then issueChunk d k c else d

def execChunkStagedComplete (p : Port) (k : Nat) (s : State) : Host.Outcome State Fault Refusal :=
  run s fun d => if alive d then chunkStaged d p k else d

/-! ### Packets that have arrived -/

/-- The oldest packet of a channel in a port's receive buffer. -/
def headPkt (d : Dev) (p vc : Nat) : Option Packet := ((getPort d p).rxq.find? fun e => e.1 == vc).map fun e => e.2

/-- The packet is taken from the buffer; the space of the flits that it frees returns as credit (R249). -/
def takePkt (d : Dev) (p vc : Nat) : Dev :=
  let n := (fget [] (getPort d p).rxFlits vc).headD 0
  let d := modPort d p fun k => { k with
    rxq := dropFirst (fun e => e.1 == vc) k.rxq
    rxFlits := fmod [] k.rxFlits vc (List.drop 1)
    owed := fmod 0 k.owed vc (· + n) }
  if portUp d p && n != 0 then sendPlain d p 0 [] else d

/-- DATA, ARRIVE, RELEASE and ABORT by the state of their issue (R255, R287). A chunk whose issue waits for the UCIe link stays in its port's
buffer (R337). A full early-arrival area holds back DATA alone (log entry
120, DEDUCED). -/
def issuePacket (d : Dev) (p vc : Nat) (q : Packet) : Dev :=
  match findColl d q.collId q.epoch q.dstIndex with
  | some k => if chunkHeld d k q then d else activePacket (takePkt d p vc) k p q
  | none =>
    if d.fab.colls.any fun k => collId k.words == q.collId && olderEpoch q.epoch (collEpoch k.words) then staleDrop (takePkt d p vc) p
    else if (fget [] d.fab.doneIds q.collId).contains (q.epoch, true) then
      (if q.type = 1 then staleDrop (collAck (takePkt d p vc) q (natLe 4 (q.seq + 1) ++ natLe 4 0) 0) p
       else if q.type = 3 then
        post (dbump (takePkt d p vc) 0x6029 1 1 32) 0x0042 1 srcDevice (natLe 4 q.collId ++ natLe 4 q.epoch)
       else takePkt d p vc)
    else if q.type != 1 || earlyRoom d q then
      dieLCtr (modFab (takePkt d p vc) fun b => { b with early := b.early ++ [(p, q)] }) 4 1
    else d

def execDataPacket (p : Port) (s : State) : Host.Outcome State Fault Refusal :=
  run s fun d => if alive d then
    (match headPkt d p.val 0 with | some q => issuePacket d p.val 0 q | none => d) else d

/-- SIGNAL flows that have ended take every port again (R285). -/
def endAvoid (d : Dev) : Dev :=
  modFab d fun b => { b with sigAvoid := b.sigAvoid.filter fun x => b.retained.any fun r => r.pkt.type == 6 && r.pkt.dst == x.2 }

/-- ACK (R254): the chunks it covers leave retention; chunks that waited for space go, and those that waited for a place that an
acknowledged move has vacated are written (R107). -/
def ackArrived (d : Dev) (q : Packet) : Dev :=
  let covers := fun (r : Retained) =>
    r.pkt.dst == q.src && r.pkt.collId == q.collId && r.pkt.epoch == q.epoch && r.pkt.srcIndex == q.dstIndex && r.pkt.dstIndex == q.srcIndex
      && ((r.pkt.type == 3) == (q.seq == 1)) && ackCovers q.payload r.pkt.seq && decide (r.port < 16)
  let d := launchWaiting (endAvoid (modFab d fun b => { b with retained := b.retained.filter fun r => !covers r }))
  match findColl d q.collId q.epoch q.dstIndex with
  | some k => drainColl d k
  | none => d

def execAckPacket (p : Port) (s : State) : Host.Outcome State Fault Refusal :=
  run s fun d => if alive d then
    (match headPkt d p.val 1 with
     | some q => if q.type = 2 then ackArrived (takePkt d p.val 1) q else d
     | none => d) else d

/-- ABORT: acknowledged at once, applied once (R254, R286, R287). (Log entry 64, DESIGN CHOICE.) -/
def abortArrived (d : Dev) (p : Nat) (q : Packet) : Dev :=
  let key := (q.collId, q.epoch, q.src * 65536 + q.dstIndex)
  let d := collAck d q (natLe 4 1 ++ natLe 4 0) 1
  if key ∈ d.fab.abortsIn then staleDrop (takePkt d p 1) p
  else issuePacket (modFab d fun b => { b with
      abortsIn := (b.abortsIn.filter fun x => !(x.1 == q.collId && olderEpoch x.2.1 q.epoch)) ++ [key] }) p 1 q

def execAbortPacket (p : Port) (s : State) : Host.Outcome State Fault Refusal :=
  run s fun d => if alive d then
    (match headPkt d p.val 1 with
     | some q => if q.type = 3 then abortArrived d p.val q else d
     | none => d) else d

def execArrive (p : Port) (s : State) : Host.Outcome State Fault Refusal :=
  run s fun d => if alive d then
    (match headPkt d p.val 1 with | some q => if q.type = 4 then issuePacket d p.val 1 q else d | none => d) else d

def execRelease (p : Port) (s : State) : Host.Outcome State Fault Refusal :=
  run s fun d => if alive d then
    (match headPkt d p.val 1 with | some q => if q.type = 5 then issuePacket d p.val 1 q else d | none => d) else d

/-! ### SIGNAL packets (R267) -/

/-- The flow of SIGNAL chunks from a device. -/
def sigFlow (d : Dev) (src : Nat) : FlowIn := fget {} d.fab.sigIn src

def sendSigAck (d : Dev) (src : Nat) : Dev :=
  let f := sigFlow d src
  sendLoose (modFab d fun b => { b with sigIn := fput {} b.sigIn src { f with unacked := 0 } })
    (ackPacket d src 0 0 0 0 0 0 (ackPayload f))

/-- Takes the SIGNAL packet at the head of a port's VC1: a duplicate is acknowledged again and dropped, and `f` is the effect
of a new one. -/
def takeSignal (d : Dev) (p : Nat) (q : Packet) (f : Dev → Dev) : Dev :=
  let d := takePkt d p 1
  if flowHas (sigFlow d q.src) q.seq then staleDrop (sendSigAck d q.src) p
  else
    let d := modFab d fun b => { b with sigIn := fmod {} b.sigIn q.src fun f => flowAdd f q.seq (bitAt q.flags 0) }
    let d := f d
    if (sigFlow d q.src).unacked ≥ 8 ∨ bitAt q.flags 0 then sendSigAck d q.src else d

def sigSem (q : Packet) : Nat := recf q.payload 1 1
def sigN (q : Packet) : Nat := recf q.payload 2 2
/-- A heartbeat or a fence of R303; another n with semaphore 63 is discarded. -/
def isPairControl (q : Packet) (n : Nat) : Bool := q.type == 6 && sigSem q == 63 && sigN q == n

def signalArrived (d : Dev) (p : Nat) (q : Packet) : Dev :=
  takeSignal d p q fun d =>
    match semOfNat (sigSem q), remoteTile (recf q.payload 0 1) with
    | some s, some t => makeSig d ⟨t, s, sigN q, .program, none, none⟩
    | _, _ => staleDrop d p

def execSignalPacket (p : Port) (s : State) : Host.Outcome State Fault Refusal :=
  run s fun d => if alive d then
    (match headPkt d p.val 1 with
     | some q => if q.type == 6 && !isPairControl q 0 && !isPairControl q 0xFFFF then signalArrived d p.val q else d
     | none => d) else d

/-! ### Timers of R254 and R255 -/

/-- CHUNK_RETRANSMIT_TIMEOUT: retained chunk `n` is resent from retention, at most eight times. -/
def resendChunk (d : Dev) (n : Nat) : Dev :=
  match d.fab.retained[n]? with
  | none => d
  | some r =>
    if r.port ≥ 16 ∨ r.resends ≥ 8 ∨ !portUp d r.port then d
    else
      let d := modFab d fun b => { b with retained := b.retained.set n { r with resends := r.resends + 1 } }
      let d := portCtr (dbump d 0x6017 (r.port + 1) 1 32) r.port 6 1
      wirePush d r.port ((typeVc r.pkt.type).getD 0) r.pkt

def execChunkRetransmitTimeout (n : Nat) (s : State) : Host.Outcome State Fault Refusal :=
  run s fun d => if alive d then resendChunk d n else d

/-- CHUNK_RESEND_EXHAUSTED (R286): no route to that member is left; the active collectives that include it end. -/
def resendExhausted (d : Dev) (n : Nat) : Dev :=
  match d.fab.retained[n]? with
  | none => d
  | some r =>
    if r.resends < 8 then d
    else
      let d := modFab d fun b => { b with retained := b.retained.filter fun x => x != r }
      d.fab.colls.foldl (fun d k =>
        match findColl d (collId k.words) (collEpoch k.words) k.me with
        | some k =>
          let gone := (k.faddrs.zipIdx.filter fun e => e.1 == r.pkt.dst).map (·.2)
          if gone.isEmpty then d else abortColl d k 1 0x50 gone
        | none => d) d

def execChunkResendExhausted (n : Nat) (s : State) : Host.Outcome State Fault Refusal :=
  run s fun d => if alive d then resendExhausted d n else d

/-- Flows that owe an ACK: of the collectives, with their source, then of SIGNAL chunks. -/
def owingFlows (d : Dev) : List (Option Coll × Nat) :=
  (d.fab.colls.flatMap fun k => (k.ins.filter fun f => decide (f.2.unacked > 0)).map fun f => (some k, f.1))
    ++ (d.fab.sigIn.filter fun f => decide (f.2.unacked > 0)).map fun f => (none, f.1)

/-- ACK_SEND_TIMER: flow `n` of those that owe an ACK sends it. -/
def ackTimer (d : Dev) (n : Nat) : Dev :=
  match (owingFlows d)[n]? with
  | none => d
  | some (none, src) => sendSigAck d src
  | some (some k, i) =>
    flowAck d k i

def execAckSendTimer (n : Nat) (s : State) : Host.Outcome State Fault Refusal :=
  run s fun d => if alive d then ackTimer d n else d

/-- EARLY_ARRIVAL_EXPIRY: early arrival `n` has been held for 1 s. -/
def earlyExpiry (d : Dev) (n : Nat) : Dev :=
  match d.fab.early[n]? with
  | none => d
  | some e => staleDrop (modFab d fun b => { b with early := b.early.eraseIdx n }) e.1

def execEarlyArrivalExpiry (n : Nat) (s : State) : Host.Outcome State Fault Refusal :=
  run s fun d => if alive d then earlyExpiry d n else d

end Sys2Proof.Machine
end

