-- ==== Sys2Proof/Machine/Link.lean ====
section
/-!
DEFINITION. Ports (chapters 11 and 12): training and its checks, flits with their replay and credits, relays, the failure of
a port and what is sent again, and the calibration of lanes and HBM4 channels (R317).
-/
namespace Sys2Proof.Machine

/-! ### Training records (R275) -/

/-- FW_VERSION of the running image (0x1000:08). -/
def lanesMask (k : PortSt) : Nat := sumNat ((List.range 9).map fun i => if i ∈ k.badLanes then 0 else 2 ^ i)

/-- A training record of the device: KIND, REASON, NEG_REV, UPMASK and ECHO_SERIAL as the kind uses them. -/
def trainRec (d : Dev) (p kind reason neg mask : Nat) (echo : Nat) : List Byte :=
  padTo 304 (natLe 1 kind ++ natLe 1 p ++ natLe 1 0 ++ natLe 1 (portMode d p) ++ natLe 4 (ownAddr d) ++ natLe 8 Config.serial.toNat
    ++ natLe 4 (fwVersion d) ++ natLe 2 7 ++ natLe 2 5 ++ natLe 2 (lanesMask (getPort d p)) ++ natLe 1 reason ++ zbytes 1
    ++ natLe 2 neg ++ natLe 2 mask ++ natLe 8 echo)

/-- Sends a TRAINING flit: VC 0, not sequenced. -/
def sendTrain (d : Dev) (p : Nat) (rec_ : List Byte) : Dev := sendPlain d p 3 rec_

/-- DOWN goes out eight times (R277). (Log entry 54, DESIGN CHOICE.) -/
def sendDown (d : Dev) (p reason : Nat) : Dev :=
  (List.range 8).foldl (fun d _ => sendTrain d p (trainRec d p 3 reason 0 0 0)) d

/-- A record is discarded when its KIND is another, a reserved or unused field is not zero, or it is not the DATA area of a flit. -/
def recOk (r : List Byte) (kind : Nat) : Bool :=
  let n := recf r 0x28 2
  r.length == 304 && recf r 0 1 == kind && zeros r 0x1B 1 && zeros r 0x2A 22 && (kind == 3 || zeros r 0x1A 1)
    && (kind == 2 || (zeros r 0x1C 2 && zeros r 0x20 8)) && (kind == 6 || zeros r 0x1E 2)
    && (if kind == 4 || kind == 5 then decide (1 ≤ n) && decide (n ≤ 60) && zeros r (0x40 + 4 * n) (304 - 0x40 - 4 * n)
        else n == 0 && zeros r 0x40 240)

/-- Addresses that UNREACH and REACH list. -/
def recAddrs (r : List Byte) : List Nat := (List.range (recf r 0x28 2)).map fun i => recf r (0x40 + 4 * i) 4

/-! ### Port states -/

/-- Bit i set when Pi is up. -/
def upPorts (d : Dev) : Nat := sumNat ((List.range 16).map fun p => if portUp d p then 2 ^ p else 0)

/-- PORTMAP on every mesh port at revision 7, when the state of an own port has changed (R282). -/
def sendPortmaps (d : Dev) : Dev :=
  (List.range 7).foldl (fun d p =>
    if portUp d p && (getPort d p).negRev == 7 then sendTrain d p (trainRec d p 6 0 0 (upPorts d) 0) else d) d

/-- P15 is lost while JOINED (R299): the pair is UNJOINED, what waits for P15 is dropped, and the acknowledgement of a region counts as
given (R200). A COMMIT_BEGIN without its COMMIT_END stands, for a failover to count (R307). -/
def losePair (d : Dev) : Dev :=
  let d := modSafety (dropCopies d fun _ => true) fun s => { s with mirrorTx := [], joinWait := false, joinAcks := [], partnerDone := false, regionRx := [] }
  let d := modMem d fun m => { m with slow := m.slow.map fun e => { e with ackWait := false } }
  if d.safety.pairState = 1 then
    post (modSafety d fun s => { s with pairState := 0 }) 0x0050 1 (portSource 15) []
  else d

/-- Chunks sent by port `p`, to `dst` when one is given, go by new routes with REROUTED set, ahead of new ones (R285); those without a
route wait. The flows to those addresses that have begun keep off that port. (Log entry 52, DEDUCED.) -/
def reroute (d : Dev) (p : Nat) (dst : Option (List Nat)) : Dev :=
  let hit := fun (a : Nat) => match dst with | some l => decide (a ∈ l) | none => true
  let d := modFab d fun b => { b with
    retained := b.retained.map fun r => if r.port == p && hit r.pkt.dst then { r with port := 32 + p, pkt := withFlag r.pkt reroutedFlag, again := true } else r
    colls := b.colls.map fun k => { k with
      avoid := k.avoid ++ ((k.faddrs.zipIdx.filter fun a =>
        hit a.1 && decide (fget 0 k.sent a.2 > 0) && !decide ((p, a.1) ∈ k.avoid)).map fun a => (p, a.1))
      degraded := k.degraded || b.retained.any fun r => r.port == p && hit r.pkt.dst && r.pkt.type == 1 && r.pkt.collId == collId k.words
        && r.pkt.epoch == collEpoch k.words && r.pkt.srcIndex == k.me }
    sigAvoid := (b.retained.filter fun r => r.pkt.type == 6 && hit r.pkt.dst).foldl (fun l r =>
      if (p, r.pkt.dst) ∈ l then l else l ++ [(p, r.pkt.dst)]) b.sigAvoid }
  launchWaiting d

/-- Empties what a port holds for its link; packets that it has received stay. Lanes are found anew by the next training (R250; log
entry 121, DEDUCED). -/
def clearLink (k : PortSt) : PortSt :=
  { k with trained := false, ackSent := false, ackRecv := false, negRev := 0, txSeq := 0, rxSeq := 0, rxHigh := 0, replay := [], ooo := []
           awaiting := false, credit := [], owed := [], held := [], rxStream := [], txq := [], l8For := none, recal := none
           badLanes := [], codeword := none, rxAsked := 0, rxFlits := k.rxq.foldl (fun m e => fmod [] m e.1 (· ++ [0])) [] }

/-- A port leaves the states in which it carries traffic: new state and reason, its link emptied, chunks by new routes, and the
members that no route reaches any more (R281, R283, R285, R286). -/
def dropPort (d : Dev) (p state reason : Nat) : Dev :=
  let was := portUp d p
  let old := (getPort d p).state
  let d := modPort d p fun k => { clearLink k with state := state, reason := reason }
  if !was then (if old = state then d else sendPortmaps d)
  else
    let d := reroute d p none
    let d := if p = 15 then losePair d else d
    checkRoutes (sendPortmaps d)

/-- The eighth failure within 60 s makes FLAPPING due: times of failures, in ms of powered time. (Log entry 12, DESIGN CHOICE.) -/
def recentDowns (d : Dev) (k : PortSt) : List Nat := k.downs.filter fun m => decide (nowMs d < m + 60000)

/-- A port that is up fails (R281). -/
def failPort (d : Dev) (p reason : Nat) : Dev :=
  if !portUp d p then d
  else
    let d := if 16 ≤ reason ∧ reason ≤ 19 then sendDown d p reason else d
    let d := modPort d p fun k => { k with downs := recentDowns d k ++ [nowMs d], retrainMs := 10 }
    let d := post (dbump d 0x6027 (p + 1) 1 32) 0x0041 1 (portSource p) (natLe 1 reason)
    dropPort d p 0 reason

/-- Quarantine (R277, R280). -/
def quarantine (d : Dev) (p reason : Nat) : Dev :=
  let k := getPort d p
  dropPort (post d 0x0040 2 (portSource p) (natLe 1 reason ++ zbytes 3 ++ natLe 4 k.peerFaddr ++ natLe 8 k.peerSerial)) p 4 reason

/-- A port that is not up changes its state: PORTMAP follows (R282). -/
def setPort (d : Dev) (p : Nat) (f : PortSt → PortSt) : Dev :=
  let old := (getPort d p).state
  let d := modPort d p f
  if (getPort d p).state = old then d else sendPortmaps d

/-- Training begins, in the mode that the entry names (R243); a DISABLED port stays down. -/
def beginTraining (d : Dev) (p : Nat) : Dev :=
  let m := dget d 0x6010 (p + 1)
  setPort d p fun k => if m = 3 then { clearLink k with state := 0, reason := 21, mode := some m } else { clearLink k with state := 1, mode := some m }

/-- The port stops carrying traffic and trains anew (R280, R289). -/
def retrainPort (d : Dev) (p : Nat) : Dev :=
  beginTraining (modPort (dropPort d p 0 (getPort d p).reason) p fun k => { k with retrainMs := 0 }) p

/-- Every port stops carrying traffic at once, and then each trains anew (R289, for 0x6001:01). -/
def retrainAll (d : Dev) : Dev :=
  let ps := List.range 16
  let up := ps.filter fun p => portUp d p
  let d := ps.foldl (fun d p => modPort d p fun k => { clearLink k with state := 0, retrainMs := 0 }) d
  let d := up.foldl (fun d p => reroute d p none) d
  let d := if up.contains 15 then losePair d else d
  ps.foldl beginTraining (if up.isEmpty then d else checkRoutes d)

/-- An attempt at training fails: 10 ms to the next, and twice the last wait after each further failure, at most 1,024 ms (R280). -/
def trainFail (d : Dev) (p reason : Nat) : Dev :=
  setPort d p fun k => { clearLink k with state := 0, reason := reason, retrainMs := if k.retrainMs = 0 then 10 else min 1024 (2 * k.retrainMs) }

/-- The port comes up (R276): revision, credits for the peer's buffers, and what waited for it. -/
def bringUp (d : Dev) (p : Nat) : Dev :=
  let d := modPort d p fun k => { k with
      state := if k.l8For.isSome then 3 else 2, reason := 0, trained := true, retrainMs := 0, negRev := min 7 (k.peerInfo % 65536) }
  let d := modPort d p fun k => { k with credit := fput 0 (fput 0 (fput 0 [] 0 (vcBuffer d p 0)) 1 (vcBuffer d p 1)) 2 (vcBuffer d p 2) }
  let d := sendPortmaps d
  let d := launchWaiting d
  if p = 15 then flushMirror d else d

/-! ### The identity exchange (R276-R279) -/

/-- Table 12-4 and Table 12-3: whether the peer is the one expected. -/
def wiringOk (d : Dev) (p faddr port : Nat) : Bool :=
  let m := dget d 0x6020 (p + 1)
  let own := ownAddr d
  let pos := own % 256
  let b := own / 256 % 256
  let chk := bitf m 40 2
  if chk = 2 then true
  else if chk = 1 then faddr == bitf m 0 32 && port == bitf m 32 8
  else if portMode d p = 2 then false
  else if p < 7 then faddr == own / 256 * 256 + (pos + p + 1) % 8 && port == 6 - p
  else if p < 15 then decide (b < 8) && faddr == own / 65536 * 65536 + (0xF0 + (p - 7)) * 256 && port == 8 * b + pos
  else faddr == partnerAddr d && port == 15

/-- The first check that fails (Table 12-5, codes 1 to 5); 0 when all pass. -/
def identCheck (d : Dev) (p : Nat) (r : List Byte) : Nat :=
  let plane := decide (7 ≤ p) && decide (p ≤ 14)
  firstCode [(1, ownAddr d == 0), (2, recf r 2 1 != b2n plane), (3, recf r 3 1 != portMode d p),
    (4, decide (min 7 (recf r 0x14 2) < max 5 (recf r 0x16 2))), (5, !wiringOk d p (recf r 4 4) (recf r 1 1))]

def listening (d : Dev) (p : Nat) : Bool := decide (1 ≤ (getPort d p).state) && decide ((getPort d p).state ≤ 3)

/-- IDENT: kept in 0x6022 to 0x6024, checked, and answered with IDENT_ACK or DOWN. -/
def identArrived (d : Dev) (p : Nat) (r : List Byte) : Dev :=
  if !listening d p || !recOk r 1 then d
  else
    let d := modPort d p fun k => { k with
      peerFaddr := recf r 4 4
      peerSerial := recf r 8 8
      peerInfo := recf r 0x14 2 + 65536 * recf r 1 1 + 2 ^ 24 * (recf r 2 1 % 2) + 2 ^ 32 * recf r 0x10 4 }
    let c := identCheck d p r
    if c ≠ 0 then quarantine (sendDown d p c) p c
    else
      let d := sendTrain d p (trainRec d p 2 0 (min 7 (recf r 0x14 2)) 0 (recf r 8 8))
      let d := modPort d p fun k => { k with ackSent := true }
      if (getPort d p).state = 1 ∧ (getPort d p).ackRecv then bringUp d p else d

/-- A TRAINING flit on a port that listens has its place in a codeword, and is lost with one that failed (R243, R247). Its command stands for
a flit that arrives whole: as the first of its codeword it brings the verdict that it decodes. (Log entry 124, DESIGN CHOICE.) -/
def trainingFlit (d : Dev) (p : Nat) (f : Dev → Dev) : Dev :=
  if !listening d p then f d
  else
    let put := fun (v : Option Bool) => modPort d p fun k => { k with codeword := v }
    match (getPort d p).codeword with
    | some v => if v then f (put none) else put none
    | none => if flitsPerCodeword d p = 2 then f (put (some true)) else f d

def execIdent (p : Port) (rec : List Byte) (s : State) : Host.Outcome State Fault Refusal :=
  run s fun d => if alive d then trainingFlit d p (fun d => identArrived d p rec) else d

/-- IDENT_ACK: one that echoes the own serial counts. -/
def identAckArrived (d : Dev) (p : Nat) (r : List Byte) : Dev :=
  if (getPort d p).state ≠ 1 ∨ !recOk r 2 ∨ recf r 0x20 8 ≠ Config.serial.toNat then d
  else
    let d := modPort d p fun k => { k with ackRecv := true }
    if (getPort d p).ackSent then bringUp d p else d

def execIdentAck (p : Port) (rec : List Byte) (s : State) : Host.Outcome State Fault Refusal :=
  run s fun d => if alive d then trainingFlit d p (fun d => identAckArrived d p rec) else d

/-- DOWN: a quarantine reason quarantines this port too, any other takes it down (R277). -/
def downArrived (d : Dev) (p : Nat) (r : List Byte) : Dev :=
  if !listening d p || !recOk r 3 then d
  else
    let c := recf r 0x1A 1
    if 1 ≤ c ∧ c ≤ 7 then quarantine d p 6
    else if portUp d p then failPort d p 20
    else trainFail d p 20

def execDown (p : Port) (rec : List Byte) (s : State) : Host.Outcome State Fault Refusal :=
  run s fun d => if alive d then trainingFlit d p (fun d => downArrived d p rec) else d

/-- UNREACH on a plane (R282): up to 4,096 addresses; a full list fails the plane for new chunks; chunks sent that way go
again by other routes. -/
def unreachArrived (d : Dev) (p : Nat) (r : List Byte) : Dev :=
  if p < 7 ∨ p > 14 ∨ !portUp d p ∨ !recOk r 4 then d
  else
    let as := recAddrs r
    let d := modPort d p fun k =>
      let l := (as.foldl (fun l a => if a ∈ l then l else l ++ [a]) k.unreach).take 4096
      { k with unreach := l, planeFull := decide (l.length ≥ 4096) }
    checkRoutes (reroute d p (some as))

def execUnreach (p : Port) (rec : List Byte) (s : State) : Host.Outcome State Fault Refusal :=
  run s fun d => if alive d then trainingFlit d p (fun d => unreachArrived d p rec) else d

def reachArrived (d : Dev) (p : Nat) (r : List Byte) : Dev :=
  if p < 7 ∨ p > 14 ∨ !portUp d p ∨ !recOk r 5 then d
  else
    let as := recAddrs r
    launchWaiting (modPort d p fun k =>
      let l := k.unreach.filter fun a => a ∉ as
      { k with unreach := l, planeFull := decide (l.length ≥ 4096) })

def execReach (p : Port) (rec : List Byte) (s : State) : Host.Outcome State Fault Refusal :=
  run s fun d => if alive d then trainingFlit d p (fun d => reachArrived d p rec) else d

/-- PORTMAP from a board peer (R282, R283). -/
def portmapArrived (d : Dev) (p : Nat) (r : List Byte) : Dev :=
  if p > 6 ∨ !portUp d p ∨ (getPort d p).negRev ≠ 7 ∨ !recOk r 6 then d
  else checkRoutes (launchWaiting (modPort d p fun k => { k with upMask := recf r 0x1E 2 }))

def execPortmap (p : Port) (rec : List Byte) (s : State) : Host.Outcome State Fault Refusal :=
  run s fun d => if alive d then trainingFlit d p (fun d => portmapArrived d p rec) else d

def execIdentSendTimer (p : Port) (s : State) : Host.Outcome State Fault Refusal :=
  run s fun d => if alive d && (getPort d p).state == 1 then sendTrain d p (trainRec d p 1 0 0 0 0) else d

/-- IDENT_TIMEOUT: the attempt fails (R276, R280). -/
def execIdentTimeout (p : Port) (s : State) : Host.Outcome State Fault Refusal :=
  run s fun d => if alive d && (getPort d p).state == 1 then
    trainFail (sendDown d p 16) p 16 else d

/-- RETRAIN_TIMER: a port that is down trains again, a DISABLED one apart. -/
def execRetrainTimer (p : Port) (s : State) : Host.Outcome State Fault Refusal :=
  run s fun d => if alive d && (getPort d p).state == 0 then beginTraining d p else d

/-- FLAPPING: eight failures within 60 s (R280). -/
def execFlapping (p : Port) (s : State) : Host.Outcome State Fault Refusal :=
  run s fun d => if alive d && decide ((recentDowns d (getPort d p)).length ≥ 8) && (getPort d p).state != 4 then quarantine d p 7 else d

def execPortSilent (p : Port) (s : State) : Host.Outcome State Fault Refusal :=
  run s fun d => if alive d then failPort d p 17 else d

def execPortRetrain (p : Port) (s : State) : Host.Outcome State Fault Refusal :=
  run s fun d => if alive d then retrainPort d p else d

/-! ### Flits in (R247-R249) -/

def fseqOf (b : List Byte) : Nat := recf b 0 3
def ftypeOf (b : List Byte) : Nat := recf b 3 1 % 16
def fvcOf (b : List Byte) : Nat := bitf (recf b 3 1) 4 2
def flitGood (decodes : Bool) (b : List Byte) : Bool := decodes && b.length == 320 && recf b 0x13C 4 == (crc32c (b.take 0x13C)).toNat

/-- ACK_SEQ and CREDIT_RET of an accepted flit. -/
def flitAcks (d : Dev) (p : Nat) (b : List Byte) : Dev :=
  let a := recf b 4 3
  let c := recf b 8 2
  pumpPort (modPort d p fun k =>
    let n := match k.replay with | (s, _, _) :: _ => (a + seqMod - s + 1) % seqMod | [] => 0
    { k with
      replay := if n ≤ k.replay.length then k.replay.drop n else k.replay
      credit := fmod 0 k.credit (bitf c 14 2) (· + c % 16384) }) p

/-- Sends REPLAY_REQ with a list of FSEQs and counts, at most 38 entries. -/
def askReplay (d : Dev) (p : Nat) (l : List (Nat × Nat)) : Dev :=
  sendPlain (modPort (dbump d 0x6014 (p + 1) 1 32) p fun k => { k with awaiting := true }) p 2
    ((l.take 38).flatMap fun e => natLe 3 (e.1 % seqMod) ++ natLe 1 e.2 ++ zbytes 4)

/-- Runs of at most 255 that name `n` flits from `f` on. -/
def seqRuns (f n : Nat) : List (Nat × Nat) := (List.range (cdiv n 255)).map fun i => (f + 255 * i, min 255 (n - 255 * i))

/-- A list of FSEQs as runs of at most 255. -/
def missingRuns : List Nat → List (Nat × Nat)
  | [] => []
  | a :: as => match missingRuns as with
    | (x, n) :: r => if (a + 1) % seqMod = x ∧ n < 255 then (a, n + 1) :: r else (a, 1) :: (x, n) :: r
    | [] => [(a, 1)]

/-- FSEQs below the highest seen that have not arrived whole (LONG). -/
def missing (k : PortSt) : List Nat :=
  ((List.range ((k.rxHigh + seqMod - k.rxSeq) % seqMod)).map fun i => (k.rxSeq + i) % seqMod).filter fun s => !k.ooo.any fun e => e.1 == s

/-- Asks for what is bad: in LONG mode for the flits still missing, those beyond the highest seen that have been asked for, and `n` places
more; else for the flit expected (R248; log entry 122, DESIGN CHOICE). -/
def askBad (d : Dev) (p n : Nat) : Dev :=
  let k := getPort d p
  let a := k.rxAsked + n
  if selective d p then
    askReplay (modPort d p fun k => { k with rxAsked := a }) p (missingRuns (missing k ++ (List.range a).map fun i => (k.rxHigh + i) % seqMod))
  else askReplay d p [(k.rxSeq, 1)]

/-- A relay (R284): onward by the own primary route with HOPS and REROUTED; none takes a third hop. -/
def relayPacket (d : Dev) (p : Nat) (q : Packet) : Dev :=
  let r := (primaryRoute d q.dst).filter fun x => (getPort d x).negRev == 7
  match r[q.seq % r.length]? with
  | some x => if q.hops ≥ 2 then staleDrop d p
    else wirePush d x ((typeVc q.type).getD 0) (withFlag { q with hops := q.hops + 1 } reroutedFlag)
  | none => staleDrop d p

/-- A packet whose trailer holds: to its channel's queue, onward, or discarded and counted (R253, R279, R284); a mirror
packet with another SUBTYPE is discarded (Table 13-3). -/
def acceptPacket (d : Dev) (p vc : Nat) (q : Packet) : Dev :=
  if typeVc q.type ≠ some vc ∨ (p = 15 ∧ vc ≠ 2) ∨ (p ≠ 15 ∧ vc = 2) then staleDrop d p
  else if vc = 2 ∧ (recf q.payload 0 1 = 0 ∨ recf q.payload 0 1 > 11) then d
  else if q.hops > 0 ∧ (getPort d p).negRev < 7 then staleDrop d p
  else if q.dst ≠ ownAddr d ∧ vc ≠ 2 then relayPacket (portCtr d p 3 (cdiv q.payload.length 64)) p q
  else portCtr (modPort d p fun k => { k with rxq := k.rxq ++ [(vc, q)], rxFlits := fmod [] k.rxFlits vc (· ++ [0]) }) p 3 (cdiv q.payload.length 64)

/-- Cuts a channel's stream into packets; what is left of one stays for the next flit. A zero byte where TYPE would stand
pads the rest of the DATA area. A packet whose length no packet has, or whose trailer fails, is discarded. -/
def cutPackets : Nat → Dev → Nat → Nat → List Byte → Dev
  | 0, d, _, _, _ => d
  | n + 1, d, p, vc, b =>
    match b with
    | [] => modPort d p fun k => { k with rxStream := fput [] k.rxStream vc [] }
    | t :: _ =>
      let len := recf b 2 2
      if t = 0 then modPort d p fun k => { k with rxStream := fput [] k.rxStream vc [] }
      else if b.length < 32 ∨ b.length < 36 + len then modPort d p fun k => { k with rxStream := fput [] k.rxStream vc b }
      else
        let q := decPacket b
        let good := decide (len ≤ 4096) && len % 4 == 0 && (b.drop (32 + len)).take 4 == pktCrc q
        cutPackets n (if good then acceptPacket d p vc q else d) p vc (b.drop (36 + len))

/-- The DATA area of an accepted flit. The space of a flit is free once the packets with bytes in it have been taken; one that ends in
an incomplete packet stays with that packet (R249). -/
def deliverArea (d : Dev) (p vc : Nat) (area : List Byte) : Dev :=
  let b := fget [] (getPort d p).rxStream vc ++ area
  let d := cutPackets (b.length + 1) d p vc b
  modPort d p fun k =>
    let rest := (fget [] k.rxStream vc).length
    let h := fget 0 k.held vc + 1
    let keep := if rest = 0 then 0 else if rest = b.length then h else 1
    let l := fget [] k.rxFlits vc
    { k with
      held := fput 0 k.held vc keep
      rxFlits := if l.isEmpty then k.rxFlits else fput [] k.rxFlits vc (l.set (l.length - 1) (l.getLastD 0 + (h - keep)))
      owed := if l.isEmpty then fmod 0 k.owed vc (· + (h - keep)) else k.owed }

/-- A DATA flit in order. -/
def takeFlit (d : Dev) (p vc : Nat) (area : List Byte) : Dev :=
  deliverArea (modPort d p fun k => { k with rxSeq := (k.rxSeq + 1) % seqMod, awaiting := false }) p vc area

/-- Delivers the flits kept behind the ones that were missing (LONG). -/
def drainOoo : Nat → Dev → Nat → Dev
  | 0, d, _ => d
  | n + 1, d, p =>
    let k := getPort d p
    match k.ooo.find? fun e => e.1 == k.rxSeq with
    | some e => drainOoo n (takeFlit (modPort d p fun k => { k with ooo := dropFirst (fun x => x.1 == e.1) k.ooo }) p e.2.1 e.2.2) p
    | none => d

/-- A good DATA flit: taken in order; go-back-N discards every other flit and asks once for the one expected; LONG keeps later
flits and asks for those between, unless a bad codeword has asked for them already. -/
def dataFlit (d : Dev) (p : Nat) (b : List Byte) : Dev :=
  let k := getPort d p
  let f := fseqOf b
  let ahead := (f + seqMod - k.rxSeq) % seqMod
  let area := (b.drop 12).take 304
  if ahead ≥ seqMod / 2 then sendPlain d p 0 []
  else if selective d p then
    if k.ooo.any fun e => e.1 == f then d
    else
      let d := portCtr (flitAcks d p b) p 1 1
      let high := (k.rxHigh + seqMod - k.rxSeq) % seqMod
      let n := ahead - high - k.rxAsked
      let d := modPort d p fun k => { k with
        ooo := k.ooo ++ [(f, fvcOf b, area)]
        rxHigh := if ahead ≥ high then (f + 1) % seqMod else k.rxHigh
        rxAsked := k.rxAsked - (ahead + 1 - high) }
      let d := if n > 0 then askReplay d p (seqRuns (k.rxHigh + k.rxAsked) n) else d
      sendPlain (drainOoo ((getPort d p).ooo.length) d p) p 0 []
  else if ahead = 0 then
    sendPlain (takeFlit (portCtr (flitAcks d p b) p 1 1) p (fvcOf b) area) p 0 []
  else if k.awaiting then d
  else askReplay d p [(k.rxSeq, 1)]

/-- The codeword of an arriving flit (R243, R247): whether it decodes, the flits of it that a request for a failed one must name (none
when the first of the two has named them), and the device. The first flit of a codeword carries its verdict. -/
def codewordOf (d : Dev) (p : Nat) (fec : Fec) : Bool × Nat × Dev :=
  match (getPort d p).codeword with
  | some v => (v, if v then 1 else 0, modPort d p fun k => { k with codeword := none })
  | none =>
    let n := flitsPerCodeword d p
    let v := match fec with | .decoded _ => true | .failed => false
    let d := modPort d p fun k => { k with codeword := if n = 2 then some v else none }
    match fec with
    | .decoded c => (true, 1, dbump d 0x6015 (p + 1) (min c (fecCap d p)) 64)
    | .failed => (false, n, dbump d 0x6016 (p + 1) 1 32)

/-- What every row of an arriving flit shares: on a port that is not up a flit takes its place in the codeword and no more, a bad flit asks
for a replay, and one of another FTYPE is discarded in its place. -/
def flitCmd (d : Dev) (p : Nat) (fec : Fec) (b : List Byte) (type : Nat) (f : Dev → Dev) : Dev :=
  let c := codewordOf d p fec
  if !portUp d p then (if listening d p then modPort d p fun k => { k with codeword := (getPort c.2.2 p).codeword } else d)
  else if !flitGood c.1 b then (if c.2.1 = 0 then c.2.2 else askBad c.2.2 p c.2.1)
  else if ftypeOf b ≠ type then c.2.2
  else f c.2.2

def execIdleFlit (p : Port) (fec : Fec) (bytes : List Byte) (s : State) : Host.Outcome State Fault Refusal :=
  run s fun d => if alive d then flitCmd d p fec bytes 0 (fun d => flitAcks d p bytes) else d

def execDataFlit (p : Port) (fec : Fec) (bytes : List Byte) (s : State) : Host.Outcome State Fault Refusal :=
  run s fun d => if alive d then flitCmd d p fec bytes 1 (fun d => dataFlit d p bytes) else d

/-- Resends a flit of the replay buffer. -/
def resendFlit (d : Dev) (p s : Nat) : Dev :=
  match (getPort d p).replay.find? fun e => e.1 == s with
  | some e => portCtr (modPort d p fun k => { k with
      tx := k.tx ++ [e.2.2], replay := updFirst (fun x => x.1 == s) (fun x => (x.1, x.2.1 + 1, x.2.2)) k.replay }) p 5 1
  | none => d

/-- REPLAY_REQ (R248): every flit from the FSEQ named on, or in LONG mode only those named; ahead of new flits. -/
def replayAsked (d : Dev) (p : Nat) (b : List Byte) : Dev :=
  let d := dbump d 0x6014 (p + 1) 1 32
  let d :=
    if selective d p then
      (List.range 38).foldl (fun d i =>
        (List.range (recf b (12 + 8 * i + 3) 1)).foldl (fun d j => resendFlit d p ((recf b (12 + 8 * i) 3 + j) % seqMod)) d) d
    else
      let from_ := recf b 12 3
      if (getPort d p).replay.any fun e => e.1 == from_ then
        (((getPort d p).replay.map fun e => e.1).dropWhile fun s => s != from_).foldl (fun d s => resendFlit d p s) d
      else d
  flitAcks d p b

def execReplayReq (p : Port) (fec : Fec) (bytes : List Byte) (s : State) : Host.Outcome State Fault Refusal :=
  run s fun d => if alive d then flitCmd d p fec bytes 2 (fun d => replayAsked d p bytes) else d

/-- FLIT_REPLAY_EXHAUSTED: a flit replayed eight times without acknowledgement fails the port. -/
def execFlitReplayExhausted (p : Port) (s : State) : Host.Outcome State Fault Refusal :=
  run s fun d => if alive d && (getPort d p).replay.any (fun e => decide (e.2.1 ≥ 8)) then failPort d p 18 else d

/-! ### Lanes (R250, R317) and HBM4 channels -/

/-- A lane fails: its data moves onto L8, from a lane under recalibration if need be; with L8 standing in already, or lost, the
port fails, and so does an attempt at training. -/
def laneFailed (d : Dev) (p lane : Nat) : Dev :=
  let k := getPort d p
  let d := modPort d p fun k => { k with badLanes := if lane ∈ k.badLanes then k.badLanes else k.badLanes ++ [lane] }
  if lane ∈ k.badLanes then d
  else if k.l8For.isSome ∨ (lane < 8 ∧ 8 ∈ k.badLanes) then (if portUp d p then failPort d p 19 else trainFail (sendDown d p 19) p 19)
  else if lane = 8 then modPort d p fun k => { k with recal := none }
  else setPort d p fun k => { k with recal := none, l8For := some lane, state := if k.state = 2 then 3 else k.state }

def execLaneFailure (p : Port) (lane : Fin 9) (s : State) : Host.Outcome State Fault Refusal :=
  run s fun d => if alive d && listening d p then laneFailed d p lane else d

/-- LANE_RECALIBRATION: lane 8 stands in while a lane is recalibrated; recalibration begins at READY (R317, R415). -/
def execLaneRecalibration (p : Port) (lane : Fin 8) (s : State) : Host.Outcome State Fault Refusal :=
  run s fun d =>
    let k := getPort d p
    if alive d && d.power.devState == 1 && portUp d p && k.l8For.isNone && k.recal.isNone && !decide (8 ∈ k.badLanes) then
      modPort d p fun k => { k with recal := some lane.val } else d

def execLaneRecalibrationEnd (p : Port) (s : State) : Host.Outcome State Fault Refusal :=
  run s fun d => if alive d then modPort d p fun k => { k with recal := none } else d

/-- HBM_CHANNEL_RECALIBRATION: the channel pauses, and the controller counts the pause (Table 17-3); recalibration begins at READY
(R415). -/
def execHbmChannelRecalibration (stack : Fin 8) (ch : Nat) (s : State) : Host.Outcome State Fault Refusal :=
  run s fun d => if alive d && d.power.devState == 1 then
    bump (modSafety d fun x => { x with hbmRecal := fput false x.hbmRecal (stack.val * 64 + ch % 64) true }) (174 + stack.val) 6 1 else d

def execHbmChannelRecalibrationEnd (stack : Fin 8) (ch : Nat) (s : State) : Host.Outcome State Fault Refusal :=
  run s fun d => if alive d then modSafety d fun x => { x with hbmRecal := fput false x.hbmRecal (stack.val * 64 + ch % 64) false } else d

end Sys2Proof.Machine
end

