-- ==== Sys2Proof/Machine/Blocks.lean ====
section
/-!
DEFINITION. Block maps and block images (R115, R121, R141): a symmetric matrix held as its upper triangle of 64 × 64
tiles behind a 64-byte header; its rows as pairs; and the products that R146 forms.
-/
namespace Sys2Proof.Machine

abbrev Mat := List (List Pair)

/-! ### Block maps (R115) -/

/-- Whether a map holds reserved bits. -/
def mapReserved (m : List W32) : Bool := m.any fun w => decide (w.toNat ≥ 8192)

def mapSizes (m : List W32) : List Nat := m.map fun w => bitf w.toNat 0 13

/-- Whether block sizes follow R115 for a dimension. -/
def mapOk (dim : Nat) (s : List Nat) : Bool :=
  decide (s.foldl (· + ·) 0 = dim) &&
    (s.all (fun b => decide (256 ≤ b) && decide (b ≤ 4096)) || (s.length == 1 && decide (dim < 256) && decide (1 ≤ dim)))

/-! ### Images (R121) -/

def tileRows (b : Nat) : Nat := cdiv b 64
/-- Tiles of the upper triangle. -/
def triTiles (b : Nat) : Nat := tileRows b * (tileRows b + 1) / 2
def triIndex (i j : Nat) : Nat := j * (j + 1) / 2 + i
def triTileBytes (f : Nat) : Nat := if f = 9 then 32768 else 16384
/-- Bytes of a block's image: header and tiles. -/
def imgBytes (f b : Nat) : Nat := 64 + triTiles b * triTileBytes f
/-- Bytes of the images of blocks in map order. -/
def imgsBytes (f : Nat) (s : List Nat) : Nat := s.foldl (fun n b => n + imgBytes f b) 0
/-- Offset of block `j`'s image behind that of block 0. -/
def imgOff (f : Nat) (s : List Nat) (j : Nat) : Nat := imgsBytes f (s.take j)

/-- One stored tile as rows of pairs. -/
def readTile (d : Dev) (id off f : Nat) : Mat :=
  (List.range 64).map fun r => rowPairs f (allocRead d id (off + r * 64 * fmtBits f / 8) (64 * fmtBits f / 8)) 64

/-- The rows of the symmetric matrix that stored tiles spell: tiles below the diagonal are transposes. -/
def symRows (b : Nat) (tiles : List Mat) : Mat :=
  let t := tileRows b
  (List.range b).map fun r => ((List.range t).flatMap fun j =>
    if r / 64 ≤ j then (tiles.getD (triIndex (r / 64) j) []).getD (r % 64) []
    else (tiles.getD (triIndex j (r / 64)) []).map fun x => x.getD (r % 64) (0, 0)).take b

/-- The matrix of the image at an offset. -/
def readSym (d : Dev) (id off f b : Nat) : Mat :=
  symRows b ((List.range (triTiles b)).map fun i => readTile d id (off + 64 + i * triTileBytes f) f)

/-- The bytes of a matrix's tiles, elements beyond b zero. -/
def symBytes (f b : Nat) (m : Mat) : List Byte :=
  let t := tileRows b
  (List.range t).flatMap fun j => (List.range (j + 1)).flatMap fun i => (List.range 64).flatMap fun r =>
    pairsOut f ((List.range 64).map fun c => (m.getD (i * 64 + r) []).getD (j * 64 + c) (0, 0))

/-- Stored elements in image index order, row-major in each tile, with weight 1 in diagonal tiles and 2 elsewhere. -/
def triElems (b : Nat) (m : Mat) : List (Bool × Pair) :=
  let t := tileRows b
  (List.range t).flatMap fun j => (List.range (j + 1)).flatMap fun i => (List.range 64).flatMap fun r =>
    if b ≤ i * 64 + r then []
    else (((m.getD (i * 64 + r) []).drop (j * 64)).take 64).map fun x => (i == j, x)

/-! ### Products (R146) -/

/-- One element: lane sums over chunks of 16, added to a running pair in ascending order. (Log entry 46, DESIGN CHOICE.) -/
def pdot (a b : List Pair) : Pair :=
  (List.zipWith plane (chunksOf 16 a.length a) (chunksOf 16 b.length b)).foldl padd (0, 0)

/-- Columns of a matrix of rows. -/
def cols (n : Nat) (m : Mat) : Mat := (List.range n).map fun j => m.map fun r => r.getD j (0, 0)

/-- A product with every element computed. -/
def mulFull (n : Nat) (a b : Mat) : Mat :=
  let cb := cols n b
  a.map fun r => cb.map fun c => pdot r c

/-- A product whose tiles on and above the diagonal are computed and read as symmetric. -/
def mulSym (b : Nat) (x y : Mat) : Mat :=
  let m := mulFull b x y
  (List.range b).map fun r => (List.range b).map fun c =>
    if r / 64 ≤ c / 64 then (m.getD r []).getD c (0, 0) else (m.getD c []).getD r (0, 0)

/-- Whether every element is finite. -/
def matFin (m : Mat) : Bool := m.all fun r => r.all pfin

/-! ### Ranges of an allocation -/

/-- Completion code for the use of an allocation's range: 0x40 absent, 0x15 busy, 0x42 invalid when it is read, 0x11 with
the offset of a poisoned unit read, or of one written in part. -/
def rangeRead (d : Dev) (id off n : Nat) : Nat × Nat × Nat :=
  let c := checkAllocRead d id off n
  (c.1, if c.1 = 0x11 then id else 0, c.2)
def rangeWrite (d : Dev) (id off n : Nat) : Nat × Nat × Nat :=
  let c := checkAllocWrite d id off n
  (c.1, if c.1 = 0x11 then id else 0, c.2)

/-- The first non-zero answer. -/
def firstUse : List (Nat × Nat × Nat) → Nat × Nat × Nat
  | [] => (0, 0, 0)
  | c :: cs => if c.1 = 0 then firstUse cs else c

end Sys2Proof.Machine
end

