-- ==== Sys2Proof/Machine/Update.lean ====
section
/-!
DEFINITION. Parameters, gradients and the update (chapter 8): the split master (R165, R166), stochastic rounding
(R42, R43), updates on a tile's vector engine and on the slow-tier engine of Die L, and preconditioning.
-/
namespace Sys2Proof.Machine

/-! ### The split master (R165, R166) -/

/-- q(HIGH) in units of 2^-149. -/
def masterQ (h : Nat) : Nat := 2 ^ (max (bitf h 7 8) 1 - 1)

/-- A BF16 code as an integer of 2^-149 steps. -/
def bf16Int (h : Nat) : Int := let m : Int := (codeMag fmtBf16 (h % 2 ^ 15) <<< 16 : Nat); if bitAt h 15 then -m else m

/-- Lowest and highest CORR of a well-formed element with this HIGH. -/
def corrLimits (h : Nat) : Int × Int :=
  let edge := h % 128 == 0 && bitf h 7 8 != 0
  if edge then (if bitAt h 15 then (-32767, 16383) else (-16383, 32767)) else (-32767, 32767)

def masterFin (h : Nat) : Bool := decide (h % 2 ^ 15 ≤ 0x7F7F)

/-- CORR as two's complement. -/
def corrInt (c : Nat) : Int := if c < 32768 then (c : Int) else (c : Int) - 65536

/-- R165: well formed. -/
def masterOk (h : Nat) (c : Int) : Bool := masterFin h && decide ((corrLimits h).1 ≤ c) && decide (c ≤ (corrLimits h).2)

/-- HIGH + CORR × q in units of 2^-149. -/
def masterInt (h : Nat) (c : Int) : Int := bf16Int h + c * (masterQ h : Int)

/-- An integer of 2^-149 steps as an exact value; a zero takes the sign `z`. -/
def xint (v : Int) (z : Bool) : XVal := .fin (if v = 0 then z else decide (v < 0)) v.natAbs 0

/-- The binary32 value of a master element. -/
def master32 (h : Nat) (c : Int) : W32 := rne32 (xint (masterInt h c) (bitAt h 15))

/-- v / den rounded to an integer, ties to even. -/
def rheInt (v : Int) (den : Nat) : Int := if v < 0 then -(rhe v.natAbs den : Int) else rhe v.natAbs den

def clampInt (lo hi v : Int) : Int := if v < lo then lo else if hi < v then hi else v

/-- Master rounding (R166): HIGH and CORR; none when the result is not finite. -/
def masterRound (x : XVal) : Option (Nat × Int) :=
  match x with
  | .fin n num sh =>
    let h := narrow fmtBf16 x
    if !masterFin h then none
    else
      let xv : Int := if n then -(num : Int) else num
      let c := rheInt (xv - bf16Int h * 2 ^ sh) (masterQ h * 2 ^ sh)
      some (h, clampInt (corrLimits h).1 (corrLimits h).2 c)
  | _ => none

/-- The BF16 code next above, and next below, in real order. -/
def bf16Above (h : Nat) : Nat :=
  if bitAt h 15 then (if h % 2 ^ 15 = 0 then 1 else h - 1) else h + 1
def bf16Below (h : Nat) : Nat :=
  if bitAt h 15 then h + 1 else if h = 0 then 0x8001 else h - 1

/-- The point of G next above one of its points; none at the end. -/
def gridAbove (h : Nat) (c : Int) : Option (Nat × Int) :=
  if c < (corrLimits h).2 then some (h, c + 1)
  else if masterFin (bf16Above h) then some (bf16Above h, (corrLimits (bf16Above h)).1) else none
def gridBelow (h : Nat) (c : Int) : Option (Nat × Int) :=
  if (corrLimits h).1 < c then some (h, c - 1)
  else if masterFin (bf16Below h) then some (bf16Below h, (corrLimits (bf16Below h)).2) else none

/-- round_stochastic of R43 between two neighbours given as integers on one scale. -/
def roundStoch (x lo hi : Int) (r : Nat) : Bool :=
  decide (x ≠ lo) && decide ((r : Int) < (x - lo) * 65536 / (hi - lo))

/-- Stochastic master rounding (R42, R43, R166): the choice between the neighbours of x in G. Beyond the last point of G
the nearest point stands (log entry 16, DEDUCED). -/
def masterStoch (x : XVal) (r : Nat) : Option (Nat × Int) :=
  match x, masterRound x with
  | .fin n num sh, some g =>
    let xv : Int := if n then -(num : Int) else num
    let gv := masterInt g.1 g.2 * 2 ^ sh
    if gv = xv then some g
    else
      let p := if gv < xv then (some g, gridAbove g.1 g.2) else (gridBelow g.1 g.2, some g)
      match p with
      | (some lo, some hi) =>
        if roundStoch xv (masterInt lo.1 lo.2 * 2 ^ sh) (masterInt hi.1 hi.2 * 2 ^ sh) r then some hi else some lo
      | _ => some g
  | _, g => g

/-! ### Working copies (R167) -/

/-- Largest code whose magnitude does not exceed the value. -/
def floorCode (f : FFmt) (num sh : Nat) : Nat :=
  let m := num / 2 ^ (sh + f.t)
  let k := Nat.log2 m - f.mb
  (k <<< f.mb) + (m >>> k)

/-- A finite value rounded stochastically onto a short format; beyond its largest code by R32 or R33 (log entry 16, DEDUCED). A
negative value that goes up to zero keeps its sign (log entry 151, DEDUCED). -/
def narrowStoch (f : FFmt) (clamp : Bool) (x : XVal) (r : Nat) : Nat :=
  let det := if clamp then narrowClamp f x else narrow f x
  match x with
  | .fin n num sh =>
    let c := floorCode f num sh
    if c ≥ f.maxCode then det
    else
      let at_ := fun (k : Nat) => ((codeMag f k * 2 ^ (f.t + sh) : Nat) : Int)
      let k := if (num : Int) = at_ c then c
        else if n then (if roundStoch (-(num : Int)) (-(at_ (c + 1))) (-(at_ c)) r then c else c + 1)
        else (if roundStoch num (at_ c) (at_ (c + 1)) r then c + 1 else c)
      k + b2n n * 2 ^ f.bits
  | _ => det

/-- Element codes of one MX block with its quotients rounded stochastically. -/
def mxCodesStoch (code : Nat) (elem : Bool) (l : List W32) (thr : Nat → Nat) : List Nat :=
  let sc := mxScale code elem l
  l.zipIdx.map fun e =>
    if sc = 255 then mxOpenCode code elem l e.2
    else match x32 e.1 with
    | .fin n num sh => narrowStoch (mxFmt code elem) true
        (if sc ≥ 127 then .fin n num (sh + (sc - 127)) else .fin n (num <<< (127 - sc)) sh) (thr e.2)
    | x => narrowClamp (mxFmt code elem) x

/-- Element and scale bytes of a working copy of master values from element `start` on. ROUND_WC means an FP8 or MX copy, as Table 8-7 says:
a FP16 or BF16 one is rounded to nearest (log entry 150, DEDUCED). -/
def wcOut (f : Nat) (elem stoch : Bool) (id : W32) (ctr start : Nat) (l : List W32) : List Byte × List Byte :=
  let thr := fun (i : Nat) => roundThreshold id (start + i) ctr
  if !stoch || f = 1 then rowOut f elem l
  else if isMx f then
    let bs := (chunksOf 32 l.length l).zipIdx
    (packCodes (fmtBits f) (bs.flatMap fun b => mxCodesStoch f elem b.1 fun i => thr (b.2 * 32 + i)),
      bs.map fun b => BitVec.ofNat 8 (mxScale f elem b.1))
  else (packCodes 8 (l.zipIdx.map fun e => narrowStoch (if f = 2 then fmtE4m3 else fmtE5m2) false (x32 e.1) (thr e.2)), [])

/-! ### One element (R178) -/

/-- Hyperparameters (Table 8-8) with BC1 and BC2. -/
structure Hyper where
  lr : W32
  b1 : W32
  omb1 : W32
  b2 : W32
  omb2 : W32
  eps : W32
  wd : W32
  bc1 : W32
  bc2 : W32
  deriving DecidableEq, Repr

def hyperOf (b : List Byte) : Hyper :=
  let f := fun (i : Nat) => (BitVec.ofNat 32 (recf b (4 * i) 4) : W32)
  ⟨f 0, f 1, f 2, f 3, f 4, f 5, f 6, f 8, f 9⟩

/-- A non-zero reserved field of the block: the BC word, and the fields that SGDM leaves at 0 (R188). -/
def hyperReserved (b : List Byte) (sgd : Bool) : Bool :=
  !zeros b 0x1C 4 || (sgd && (!zeros b 0x0C 12))

/-- update_element: new m, v and the unrounded x. -/
def updateElement (sgd : Bool) (h : Hyper) (scale g m v w : W32) : Pair × Pair × Pair :=
  let p := pair32
  let g := pmul (p g) (p scale)
  let m := pfma (p h.b1) (p m) (pmul (p h.omb1) g)
  let v := if sgd then (0, 0) else pfma (p h.b2) (p v) (pmul (p h.omb2) (pmul g g))
  let dd := if sgd then m else pdiv (pdiv m (p h.bc1)) (padd (psqrt (pdiv v (p h.bc2))) (p h.eps))
  let w := p w
  (m, v, padd w (pmul (p (fneg h.lr)) (padd dd (pmul (p h.wd) w))))

/-! ### Chunks (R179) -/

/-- What an update works on: its descriptor, the element count N, the counters read at its start (R181), the norm scale,
the gradient region and, for a replay of the partner's, that region's bytes. -/
structure UpdRun where
  words : List W32
  hyper : Hyper
  scale : W32
  n : Nat
  ctr : Nat
  wcCtr : Nat
  region : Nat
  data : List Byte
  deriving DecidableEq, Repr

def updSgd (w : List W32) : Bool := dfield w 0 8 2 == 0
def updWcf (w : List W32) : Nat := dfield w 0 12 4

/-- Byte ranges that elements `[s, s+c)` read: allocation, first byte, bytes per element. -/
def updReads (d : Dev) (u : UpdRun) (s : Nat) : List (Nat × Nat × Nat) :=
  let w := u.words
  let half := match getAlloc d (wordAt w 7) with | some g => g.size / 2 | none => 0
  [(wordAt w 1, 2 * s, 2), (wordAt w 1, roundUp (2 * u.n) 64 + 2 * s, 2), (wordAt w 2, 4 * s, 4)]
    ++ (if updSgd w then [] else [(wordAt w 2, roundUp (4 * u.n) 64 + 4 * s, 4)])
    ++ (if u.data.isEmpty then [(wordAt w 7, u.region * half + 4 * s, 4)] else [])

/-- Byte ranges of the working copy that they write. -/
def updWc (u : UpdRun) (s c : Nat) : List (Nat × Nat) :=
  let f := updWcf u.words
  if f = 0 then [] else
    [(s * fmtBits f / 8, rowBytes f c)] ++ (if isMx f then [(roundUp (rowBytes f u.n) 64 + s / 32, cdiv c 32)] else [])

/-- A poisoned unit met by a chunk: the allocation, its offset, and the first element concerned. -/
def updPoison (d : Dev) (u : UpdRun) (s c : Nat) : Option (Nat × Nat × Nat) :=
  let hits := (updReads d u s).filterMap fun e =>
    (allocPoisonAt d e.1 e.2.1 (c * e.2.2)).map fun o => (e.1, o, s + (o - e.2.1) / e.2.2)
  match hits with
  | h :: hs => some (hs.foldl (fun b x => if x.2.2 < b.2.2 then x else b) h)
  | [] => firstSome (fun (e : Nat × Nat) => (allocPartial d (wordAt u.words 3) e.1 e.2).map fun o => (wordAt u.words 3, o, s)) (updWc u s c)

/-- Binary32 values of a plane. -/
def plane32 (b : List Byte) (c : Nat) : List W32 := (elemCodes 32 b c).map fun v => BitVec.ofNat 32 v

/-- Writes bytes of slot 0, noting them for the mirror; a HOST allocation's also leave as HWRITE. -/
def updStore (d : Dev) (id off : Nat) (b : List Byte) : Dev :=
  hostUnits (noteUnits (allocWrite d id off b) id off b.length) id 0 off b.length

/-- What ends an update early: code, allocation named, and the first failing element. -/
abbrev UpdStop := Nat × Nat × Nat

/-- One chunk: operands read, every element computed and checked, and only then written (R179). -/
def updChunk (d : Dev) (u : UpdRun) (s c : Nat) : Dev ⊕ UpdStop :=
  let w := u.words
  match updPoison d u s c with
  | some (id, _, e) => .inr (0x11, id, e)
  | none =>
    let rd := fun (id off n : Nat) => allocRead d id off n
    let half := match getAlloc d (wordAt w 7) with | some g => g.size / 2 | none => 0
    let hi := elemCodes 16 (rd (wordAt w 1) (2 * s) (2 * c)) c
    let co := (elemCodes 16 (rd (wordAt w 1) (roundUp (2 * u.n) 64 + 2 * s) (2 * c)) c).map corrInt
    let ms := plane32 (rd (wordAt w 2) (4 * s) (4 * c)) c
    let vs := if updSgd w then List.replicate c 0 else plane32 (rd (wordAt w 2) (roundUp (4 * u.n) 64 + 4 * s) (4 * c)) c
    let gs := plane32 (if u.data.isEmpty then rd (wordAt w 7) (u.region * half + 4 * s) (4 * c) else (u.data.drop (4 * s)).take (4 * c)) c
    let res := ((hi.zip co).zip ((ms.zip vs).zip gs)).zipIdx.map fun e =>
      let h := e.1.1.1
      let k := e.1.1.2
      let r := updateElement (updSgd w) u.hyper u.scale e.1.2.2 e.1.2.1.1 e.1.2.1.2 (master32 h k)
      let x := xpair r.2.2
      let out := if bitAt (wordAt w 0) 10 then masterStoch x (roundThreshold (w.getD 1 0) (s + e.2) u.ctr) else masterRound x
      (masterOk h k, r.1.1, r.2.1.1, if pfin r.2.2 then out else none)
    let bad := res.zipIdx.find? fun e => !(e.1.1 && isFin32 e.1.2.1 && isFin32 e.1.2.2.1 && e.1.2.2.2.isSome)
    match bad with
    | some e => .inr (if e.1.1 then 0x30 else 0x33, wordAt w 1, s + e.2)
    | none =>
      let ma := res.filterMap fun e => e.2.2.2
      let d := (reads u s c half).foldl (fun d x => countRead d x.1 x.2.1 x.2.2) d
      let d := updStore d (wordAt w 1) (2 * s) (ma.flatMap fun p => natLe 2 p.1)
      let d := updStore d (wordAt w 1) (roundUp (2 * u.n) 64 + 2 * s) (ma.flatMap fun p => natLe 2 (p.2 % 65536).toNat)
      let d := updStore d (wordAt w 2) (4 * s) (res.flatMap fun e => natLe 4 e.2.1.toNat)
      let d := if updSgd w then d else updStore d (wordAt w 2) (roundUp (4 * u.n) 64 + 4 * s) (res.flatMap fun e => natLe 4 e.2.2.1.toNat)
      let wc := wcOut (updWcf w) (bitAt (wordAt w 0) 16) (bitAt (wordAt w 0) 11) (w.getD 3 0) u.wcCtr s (ma.map fun p => master32 p.1 p.2)
      .inl ((List.zipWith (fun (p : Nat × Nat) b => (p.1, b)) (updWc u s c) [wc.1, wc.2]).foldl (fun d p => updStore d (wordAt w 3) p.1 p.2) d)
where
  /-- What the chunk reads of allocations: both planes of the master, the moments and the gradient. -/
  reads (u : UpdRun) (s c half : Nat) : List (Nat × Nat × Nat) :=
    let w := u.words
    [(wordAt w 1, 2 * s, 2 * c), (wordAt w 1, roundUp (2 * u.n) 64 + 2 * s, 2 * c), (wordAt w 2, 4 * s, 4 * c)]
      ++ (if updSgd w then [] else [(wordAt w 2, roundUp (4 * u.n) 64 + 4 * s, 4 * c)])
      ++ (if u.data.isEmpty then [(wordAt w 7, u.region * half + 4 * s, 4 * c)] else [])

/-- Chunks of 4,096 elements in ascending order until one fails: the device, the chunks written, and the stop. -/
def updChunks (u : UpdRun) : List (Nat × Nat) → Nat → Dev → Dev × Nat × Option UpdStop
  | [], n, d => (d, n, none)
  | c :: cs, n, d =>
    match updChunk d u c.1 c.2 with
    | .inl d => updChunks u cs (n + 1) d
    | .inr x => (d, n, some x)

def updSpans (w : List W32) : List (Nat × Nat) :=
  let c := dfield w 6 0 24
  (List.range (cdiv c 4096)).map fun i => (dword w 4 + i * 4096, min 4096 (c - i * 4096))

/-- Elements of the first `n` chunks of an update, and the beats that they take on a vector engine (R182). -/
def updElems (w : List W32) (n : Nat) : Nat := (((updSpans w).take n).map (·.2)).foldl (· + ·) 0
def updBeats (w : List W32) (n : Nat) : Nat := cdiv (updElems w n) 256

/-! ### The start of an update (R180, R181, R183) -/

/-- The allocations that an update writes: master, moments, and the working copy when there is one. -/
def updNames (w : List W32) : List Nat := [wordAt w 1, wordAt w 2] ++ (if updWcf w = 0 then [] else [wordAt w 3])

/-- The allocations that an update reads: master, moments and gradient. -/
def updSources (w : List W32) : List Nat := [wordAt w 1, wordAt w 2, wordAt w 7]

/-- Whether a SET_COUNTER accepted before an update, and not yet applied, names one of its allocations, the gradient's too (R199). -/
def counterBefore (d : Dev) (w : List W32) (id0 : Nat) : Bool :=
  (allEntries d).any fun e => decide (e.id < id0) && opcodeOf e.words == 0x92 && dfield e.words 0 8 4 == 3 && (wordAt w 7 :: updNames w).contains (wordAt e.words 1)

/-- Whether the partner has yet to acknowledge the mirror copy of an earlier commit (R29); while the pair is not joined it
counts as given (R200). Working copies are not mirrored (R183). -/
def mirrorOwed (d : Dev) (w : List W32) : Bool :=
  joined d && [wordAt w 1, wordAt w 2].any fun i => match getAlloc d i with
    | some a => hasMirror a && !a.mirrorCopy && delayOf a == 0 && decide (a.mirrorAck < a.counter)
    | none => false

/-- Whether one of the allocations exists and has a property. -/
def someAlloc (d : Dev) (ids : List Nat) (p : Alloc → Bool) : Bool :=
  ids.any fun i => match getAlloc d i with | some a => p a | none => false

/-- The norm gate (R180): code, whether the update is skipped, and the device (a HALT decision sets 0x9010:03). -/
def normGate (d : Dev) (norm : List Byte) : Nat × Bool × Dev :=
  if dget d 0x9010 3 ≠ 0 then (0x31, false, d)
  else if recf norm 0x20 8 ≠ dget d 0x9010 8 then (0x35, false, d)
  else if recf norm 0x0C 1 = 3 then (0x31, false, dset d 0x9010 3 1)
  else (0, recf norm 0x0C 1 = 1, d)

def clippedBit (norm : List Byte) : Nat := if recf norm 0x0C 1 = 2 then stClipped else 0

/-- The run of an update on the allocations as they stand. -/
def updOf (d : Dev) (w : List W32) (hp norm : List Byte) (region : Nat) (data : List Byte) : UpdRun :=
  let ctr := fun (i : Nat) => match getAlloc d i with | some a => a.counter | none => 0
  let n := match getAlloc d (wordAt w 1) with | some a => a.elems | none => 0
  ⟨w, hyperOf hp, BitVec.ofNat 32 (recf norm 8 4), n, ctr (wordAt w 1), ctr (wordAt w 3), region, data⟩

/-- A SCRATCH operand of an update holds an INVALID line, or another operand is INVALID (R199; log entry 129, DEDUCED). -/
def updInvalid (d : Dev) (w : List W32) : Bool :=
  let u := updOf d w [] [] 0 []
  someAlloc d (updSources w) (·.invalid) || (updSpans w).any fun sp => (updReads d u sp.1).any fun r => rangeInvalid d r.1 r.2.1 (sp.2 * r.2.2)

/-- Marks that end an update at its start, lowest code first (R183, R188, R189, R198, R199, R201, R207). The working copy is written and
not read, so that its INVALID mark ends nothing (R205); a flash allocation is written only while it is open and read only while it is
closed; the updates of DELAY state meet TIER_OFFLINE in the slow-tier engine. Allocations that came after ISSUE are checked here. -/
def updMarks (d : Dev) (w : List W32) : Nat :=
  let all := wordAt w 7 :: updNames w
  firstCode [(updAllocs d w, updAllocs d w != 0), (0x15, someAlloc d all (·.busy)),
    (0x17, d.mem.offlineNoted && anyTier d all 2 && !someAlloc d [wordAt w 1] fun a => delayOf a != 0),
    (0x32, someAlloc d all (·.torn)), (0x34, someAlloc d all (·.mirrorCopy)),
    (0x40, all.any fun i => match getAlloc d i with | some a => a.freeing | none => true), (0x42, updInvalid d w),
    (0x43, someAlloc d (updNames w) (fun a => tierOf a == 3 && !a.flashOpen) || someAlloc d (updSources w) (fun a => tierOf a == 3 && a.flashOpen))]

/-- What a started update keeps in its entry: hyperparameters, norm record, and the counters as they were at its start (R181). -/
def updHold (u : UpdRun) (hp norm : List Byte) : List W32 :=
  toWords 10 hp ++ toWords 16 norm ++ toWords 2 (natLe 8 u.ctr) ++ toWords 2 (natLe 8 u.wcCtr)

/-- The bytes of a started update's entry. -/
def heldBytes (e : QEnt) : List Byte := e.buf.flatMap fun w => natLe 4 w.toNat
/-- The norm record of a started update. -/
def heldNorm (e : QEnt) : List Byte := ((heldBytes e).drop 40).take 64

/-- The run of a started update. -/
def heldRun (d : Dev) (e : QEnt) : UpdRun :=
  { updOf d e.words ((heldBytes e).take 40) (heldNorm e) 0 [] with ctr := recf (heldBytes e) 104 8, wcCtr := recf (heldBytes e) 112 8 }

/-- The host reads of an update: its operands in HOST allocations, chunk by chunk (R328). -/
def updHostReads (d : Dev) (u : UpdRun) : List HostPiece :=
  if anyTier d (updSources u.words) 2 then
    (updSpans u.words).flatMap fun sp => (updReads d u sp.1).flatMap fun r =>
      if anyTier d [r.1] 2 then hostPieces r.1 r.2.1 (sp.2 * r.2.2) else []
  else []

/-- The commit of an allocation's next version (R181); that of a mirror copy is the acknowledged one (R187, R307). -/
def advance (a : Alloc) : Alloc :=
  let c := (a.counter + 1) % 2 ^ 64
  { a with counter := c, mirrorAck := if a.mirrorCopy then c else a.mirrorAck }

/-- The end of an update (R181, R188, R189): torn marks and events of a failure; the counters and the mirror of a commit. -/
def updEnd (d : Dev) (w : List W32) (src code elem : Nat) (skipped : Bool) : Dev :=
  let names := updNames w
  if code = 0x11 ∨ code = 0x30 ∨ code = 0x33 then
    let d := names.foldl (fun d i => modAlloc d i fun a => { a with torn := true, tornIndex := elem }) d
    if code = 0x11 then d else post d 0x003A 2 src (natLe 8 (wordAt w 1) ++ natLe 8 elem)
  else if code = 0x31 then post d 0x003B 2 src (natLe 4 (wordAt w 1))
  else if code = 0 ∧ !skipped ∧ bitAt (wordAt w 0) 17 then
    names.foldl (fun d i => modAlloc d i advance) d
  else d

/-- Mirrors a commit of HBM4 state: the master and the moments (R183, R300), those that `p` holds of. -/
def mirrorWhere (p : Nat → Alloc → Bool) (d : Dev) (w : List W32) : Dev :=
  let n := match getAlloc d (wordAt w 1) with | some a => a.elems | none => 0
  let go := fun (d : Dev) (i : Nat) (pl : Planes) =>
    match getAlloc d i with | some a => if delayOf a = 0 && p i a then sendCommit d i pl else d | none => d
  let size := match getAlloc d (wordAt w 2) with | some a => a.size | none => 0
  go (go d (wordAt w 1) (masterPlanes n)) (wordAt w 2) (momentPlanes n size)

def mirrorUpdate (d : Dev) (w : List W32) : Dev := mirrorWhere (fun _ _ => true) d w

/-- An update that waits for the partner sends the commit that a poisoned line held back, once software has restored the line
(R210). (Log entry 98, DESIGN CHOICE.) -/
def sendHeld (d : Dev) (w : List W32) : Dev := mirrorWhere (fun i a => a.unsent && !degraded d i a) d w

def isDelay (d : Dev) (w : List W32) : Bool :=
  match getAlloc d (wordAt w 1) with | some a => delayOf a != 0 | none => false

/-! ### The slow tier (R185-R187) -/

/-- Whether an update of the gradient allocation that works on its region `r` is queued or being applied. -/
def regionBusy (d : Dev) (gid r : Nat) : Bool :=
  d.mem.slow.any fun e => e.from_.isSome && wordAt e.words 7 == gid && e.region == r

/-- Whether an update past its norm check may take an entry and close its region: an entry is free and the other region's
update has been applied. -/
def mayClose (d : Dev) (w : List W32) : Bool :=
  decide (d.mem.slow.length < 32) &&
    (match getAlloc d (wordAt w 7) with | some g => !regionBusy d (wordAt w 7) (1 - g.fillRegion) | none => false)

/-- The thread of a DELAY update that waits stays blocked, whatever else it waits for ends meanwhile (R186). -/
def slowHold (d : Dev) (t : TileId) (e : QEnt) : Dev :=
  match e.org with
  | .thread th _ _ => modThread d t th fun k =>
      if k.st = .idle then k else { k with held := true, st := if k.st = .ready then .blocked else k.st }
  | _ => d

/-- The thread that a DELAY update holds blocked goes on (R186). -/
def slowWake (d : Dev) (t : TileId) (e : QEnt) : Dev :=
  match e.org with
  | .thread th _ _ => modThread d t th fun k =>
      if k.held then { k with held := false, st := if k.st = .blocked ∧ k.wait = .none ∧ !k.busy then .ready else k.st } else k
  | _ => d

/-- The mirrored allocations that a DELAY update commits. -/
def slowMirrors (d : Dev) (w : List W32) : List Nat :=
  [wordAt w 1, wordAt w 2].filter fun i => match getAlloc d i with | some a => hasMirror a && !a.mirrorCopy | none => false

/-- The region that the update closes goes to the partner: its master is mirrored, and the partner has the copies that the region is to
be applied to (R187, R299). -/
def regionMirrored (d : Dev) (w : List W32) : Bool := (slowMirrors d w).contains (wordAt w 1) && (slowMirrors d w).all (mirroring d)

/-- In a pair that is joining, copies that miss a closed region are sent once it has been applied (log entry 123, DESIGN CHOICE). -/
def copyAgain (d : Dev) (w : List W32) : Dev :=
  if d.safety.joinWait then modSafety d fun s => { s with
    joinAcks := (slowMirrors d w).foldl (fun l i => if i ∈ l then l else l ++ [i]) s.joinAcks } else d

/-- Takes an entry of the engine's queue and swaps the regions; the new filling region starts at +0. The descriptor leaves
the tile's queue, its thread goes on, and a MIRROR allocation's region goes to the partner. -/
def slowEnter (d : Dev) (t : TileId) (e : QEnt) : Dev :=
  let w := e.words
  let gid := wordAt w 7
  match getAlloc d gid with
  | none => d
  | some g =>
    let mir := regionMirrored d w
    let hp := spRead d t (dfield w 8 0 23) (if updSgd w then 32 else 40)
    let norm := spRead d t (dfield w 9 0 23) 64
    let s : SlowEnt := { words := w, hp := hp, norm := norm, region := g.fillRegion, from_ := some (t, e), ackWait := mir, id := d.stamp }
    let d := { (if mir then sendRegion d s else copyAgain d w) with stamp := d.stamp + 1 }
    let d := noteSlowFull (modMem d fun m => { m with slow := m.slow ++ [s] })
    let d := modAlloc d gid fun a => { a with fillRegion := 1 - a.fillRegion }
    let d := allocWrite d gid ((1 - g.fillRegion) * (g.size / 2)) (zbytes (g.size / 2))
    slowWake (dropEnt d t 1 e.id) t e

/-- SLOW_TIER_QUEUE_ENTRY (R186): a waiting DELAY update takes a freed entry and closes its region, unless an allocation has been
torn meanwhile, which refuses it (R189). (Log entry 39, DESIGN CHOICE.) -/
def slowTierQueueEntry (d : Dev) (t : TileId) : Dev :=
  match (getQueue d t 1).head? with
  | some e =>
    if e.phase ≠ .running ∨ opcodeOf e.words ≠ 0x80 ∨ !e.buf.isEmpty then d
    else if someAlloc d (wordAt e.words 7 :: updNames e.words) (·.torn) then slowWake (endEnt d t { e with phase := .done, code := 0x32 } true) t e
    else if mayClose d e.words then slowEnter d t e
    else d
  | none => d

def execSlowTierQueueEntry (t : TileId) (s : State) : Host.Outcome State Fault Refusal :=
  run s fun d => if alive d then slowTierQueueEntry d t else d

/-- Writes the ring slot of a version (R185): the working copy's bytes, the HIGH plane for BF16. -/
def ringWrite (d : Dev) (w : List W32) (id : Nat) : Dev :=
  match getAlloc d id, getAlloc d (wordAt w 1) with
  | some a, some m =>
    if delayOf a = 0 then d
    else
      let slot := ringSlot a a.counter
      let b := if updWcf w = 0 then allocRead d (wordAt w 1) 0 (2 * m.elems)
        else allocRead d (wordAt w 3) 0 (wcBytes (updWcf w) m.elems)
      hostUnits (allocWriteSlot d id slot 0 b) id slot 0 b.length
  | _, _ => d

/-- The entry at the head of the engine's queue ends with what its run came to (R188): a commit writes the ring slots. The elements updated
count on Die L (Table 17-3). -/
def slowEnd (d : Dev) (s : SlowEnt) (n : Nat) (stop : Option UpdStop) : Dev :=
  let w := s.words
  let d := dieLCtr (dropReads (modMem d fun m => { m with slow := m.slow.drop 1 }) s.id) 0 (updElems w n)
  let c := stop.getD (0, 0, 0)
  let src := match s.from_ with | some (t, _) => tileSource d t 0 | none => srcDevice
  let d := updEnd d w src c.1 c.2.2 false
  let d := if d.safety.joinWait then (slowMirrors d w).foldl (fun d i =>
    if d.safety.joinAcks.contains i && mayCopy d i then sendFullCopy d i else d) d else d
  let d := if c.1 = 0 ∧ bitAt (wordAt w 0) 17 then ((wordAt w 1) :: (if updWcf w = 0 then [] else [wordAt w 3])).foldl (fun d i => ringWrite d w i) d else d
  match s.from_ with
  | some (t, e) => endThreadEnt d t { e with phase := .done, code := c.1, count := n, alloc := c.2.1, off := c.2.2, status := clippedBit s.norm } true
  | none => d

/-- SLOW_TIER_COMMIT (R184-R187): the engine begins the entry at the head, once the partner has acknowledged its region, by reading its
operands in host memory; when they have arrived, and the mainband takes its writes (R207, R337), it applies the entry, and the update
commits its version, writes the ring slots and completes. A torn allocation refuses the update (R189). (Log entry 44, DESIGN CHOICE.) -/
def slowTierCommit (d : Dev) : Dev :=
  match d.mem.slow with
  | [] => d
  | s :: rest =>
    let u := updOf d s.words s.hp s.norm s.region s.data
    let ps := updHostReads d u
    if s.ackWait then d
    else if d.mem.offlineNoted then slowEnd d s 0 (some (0x17, 0, 0))
    else if someAlloc d (wordAt s.words 7 :: updNames s.words) (·.torn) then slowEnd d s 0 (some (0x32, 0, 0))
    else if decide (s.reqs < ps.length) || readsOpen d s.id then
      let r := requestReads 512 d s.id ps s.reqs
      modMem r.1 fun m => { m with slow := { s with started := true, reqs := r.2 } :: rest }
    else if !d.host.up then d
    else
      let (d, n, stop) := updChunks u (updSpans s.words) 0 d
      slowEnd d s n stop

def execSlowTierCommit (s : State) : Host.Outcome State Fault Refusal :=
  run s fun d => if alive d then slowTierCommit d else d

/-! ### UPDATE and UPDATE_COMPLETE -/

def doneEnt (d : Dev) (t : TileId) (u : Nat) (e : QEnt) (code alloc off count status : Nat) : Dev :=
  modEnt d t u e.id fun e => { e with phase := .done, code := code, alloc := alloc, off := off, count := count, status := status }

/-- UPDATE: the start checks, the norm gate, and the reads of operands in host memory. An update of a DELAY master goes on to the
slow tier, its thread blocked while it waits (R186). (Log entry 38, DESIGN CHOICE.) -/
def update (d : Dev) (t : TileId) : Dev :=
  match vecHead d t 0x80 with
  | none => d
  | some e =>
    let w := e.words
    if mirrorOwed d w then sendHeld d w
    else if counterBefore d w e.id then d
    else
      let hpA := dfield w 8 0 23
      let hpN := if updSgd w then 32 else 40
      let hp := spRead d t hpA hpN
      let norm := spRead d t (dfield w 9 0 23) 64
      let mk := updMarks (asBefore d e.id) w
      match spansPoison d t [(hpA, hpN), (dfield w 9 0 23, 64)] with
      | some a => doneEnt d t 1 e 0x11 (poisonNames d t a).1 (dword w 4) 0 0
      | none =>
        if hyperReserved hp (updSgd w) then doneEnt d t 1 e 1 0 0 0 0
        else if mk ≠ 0 then doneEnt d t 1 e mk 0 0 0 0
        else
          let g := normGate d norm
          let d := g.2.2
          if g.1 ≠ 0 then doneEnt d t 1 e g.1 0 0 0 0
          else if g.2.1 then doneEnt d t 1 e 0 0 0 0 stSkipped
          else if isDelay d w then
            if mayClose d w then slowEnter d t e
            else
              slowHold (modEnt d t 1 e.id fun e => { e with phase := .running }) t e
          else
            let u := updOf d w hp norm 0 []
            let r := requestReads 512 d e.id (updHostReads d u) 0
            modEnt r.1 t 1 e.id fun e => { e with phase := .running, buf := updHold u hp norm, bufPos := r.2 }

def execUpdate (t : TileId) (s : State) : Host.Outcome State Fault Refusal :=
  run s fun d => if tileActs d t then update d t else d

/-- Whether a running update still waits for the host tier: for reads, or for the mainband that takes its writes. -/
def updWaits (d : Dev) (e : QEnt) : Bool :=
  readsOpen d e.id || decide (e.bufPos < (updHostReads d (heldRun d e)).length) || (anyTier d (updNames e.words) 2 && !d.host.up)

/-- The head of a vector queue as an update that runs on its tile. -/
def runningUpdate (d : Dev) (t : TileId) : Option QEnt :=
  match (getQueue d t 1).head? with
  | some e => if e.phase = .running ∧ opcodeOf e.words = 0x80 ∧ !e.buf.isEmpty then some e else none
  | none => none

/-- Runs the first `k` chunks of a running update, whose entry is then done with that outcome, or with `late`; the beats of the chunks
written count (R382). -/
def updFinish (d : Dev) (t : TileId) (e : QEnt) (k : Nat) (late : Nat) : Dev :=
  let (d, n, stop) := updChunks (heldRun d e) ((updSpans e.words).take k) 0 d
  let c := stop.getD (late, 0, 0)
  let d := tileEv d t 0x0B (updBeats e.words n)
  doneEnt (dropReads (spUndefine d t (dfield e.words 10 0 23) 0x30000) e.id) t 1 { e with buf := [] } c.1 c.2.1 c.2.2 n (clippedBit (heldNorm e))

/-- An update that is done ends (R181, R188, R189, R300): a commit advances the counters and is mirrored. -/
def updClose (d : Dev) (t : TileId) (e : QEnt) : Dev :=
  let skipped := e.status == stSkipped
  let d := updEnd d e.words (tileSource d t 0) e.code e.off skipped
  let d := if e.code = 0 ∧ !skipped ∧ bitAt (wordAt e.words 0) 17 then mirrorUpdate d e.words else d
  endEnt d t e (vecSignals e)

/-- The head of a vector queue as an update that is done. -/
def doneUpdate (d : Dev) (t : TileId) : Option QEnt :=
  match (getQueue d t 1).head? with
  | some e => if e.phase = .done ∧ opcodeOf e.words = 0x80 then some e else none
  | none => none

/-- UPDATE_COMPLETE: the chunks of a running update, once its operands are there, and its end. -/
def updateComplete (d : Dev) (t : TileId) : Dev :=
  let d := match runningUpdate d t with
    | some e =>
      if d.mem.offlineNoted && anyTier d (wordAt e.words 7 :: updNames e.words) 2 then updFinish d t e 0 0x17
      else if updWaits d e then d
      else updFinish d t e (updSpans e.words).length 0
    | none => d
  match doneUpdate d t with
  | some e => updClose d t e
  | none => d

def execUpdateComplete (t : TileId) (s : State) : Host.Outcome State Fault Refusal :=
  run s fun d => if tileActs d t then updateComplete d t else d

/-- The deadline of a running update's transfer unit, after `k` of its chunks (R206). -/
def updDeadline (d : Dev) (t : TileId) (k : Nat) : Dev :=
  match runningUpdate d t with
  | some e =>
    let ids := wordAt e.words 7 :: updNames e.words
    if k ≥ (updSpans e.words).length ∨ !(anyTier d ids 1 || anyTier d ids 2 || anyTier d ids 3) then d
    else
      let (c, d) := lateCode d (anyTier d ids 2)
      let d := updFinish d t e k c
      match doneUpdate d t with
      | some e => updClose d t e
      | none => d
  | none => d

/-- The deadline of a transfer unit of the slow-tier engine's work, after `k` chunks of the entry at the head (R206, R207). -/
def slowDeadline (d : Dev) (k : Nat) : Dev :=
  match d.mem.slow with
  | [] => d
  | s :: _ =>
    if !s.started ∨ k ≥ (updSpans s.words).length then d
    else
      let (c, d) := lateCode d true
      let (d, n, stop) := updChunks (updOf d s.words s.hp s.norm s.region s.data) ((updSpans s.words).take k) 0 d
      slowEnd d s n (some (stop.getD (c, 0, 0)))

/-! ### Preconditioning (R173-R176) -/

/-- The bank in use for a counter value: the COMPLETE one with the largest STEP not above it, bank 0 on a tie. -/
def rootBank (h : List Byte) (ctr : Nat) : Option Nat :=
  let q := fun (b : Nat) => bitAt (recf h (0x10 + 4 * b) 4) 0 && decide (recf h (8 * b) 8 ≤ ctr)
  if q 0 && (!q 1 || decide (recf h 8 8 ≤ recf h 0 8)) then some 0 else if q 1 then some 1 else none

/-- Whether a root image's header lets it be used. -/
def rootUsable (flags : Nat) (any_ : Bool) : Bool := bitAt flags 0 && (any_ || bitAt flags 1)

/-- The part of a preconditioning run: whether each selected side's root is used, by block. -/
structure PreRun where
  dev : Dev
  status : Nat
  done : Nat
  stop : Option (Nat × Nat × Nat)

def firstRow (s : List Nat) (i : Nat) : Nat := (s.take i).foldl (· + ·) 0

/-- A binary32 product with a root: T rounded by taking hi. -/
def mulHi (n : Nat) (a b : Mat) : Mat := (mulFull n a b).map fun r => r.map fun p => pair32 p.1

/-- One block pair: P = R_A dW R_G over the gradient block, left raw when P holds a non-finite element; a gradient that may not be written
ends the run first (R201). -/
def preBlock (w : List W32) (a : Option (Nat × Nat)) (g : Option (Nat × Nat)) (r0 rn c0 cn : Nat) (d : Dev) : Dev ⊕ (Nat × Nat × Nat) :=
  let id := wordAt w 1
  let rs := wordAt w 5
  let row := fun (r : Nat) => wordAt w 2 + 4 * ((r0 + r) * roundUp (dfield w 4 0 18) 16 + c0)
  let img := fun (x : Option (Nat × Nat)) (b : Nat) => match x with
    | some (o, _) => rangeRead (unfreed d) rs o (imgBytes 8 b) | none => (0, 0, 0)
  let c := firstUse ((List.range rn).map (fun r => rangeRead (unfreed d) id (row r) (4 * cn)) ++ [img a rn, img g cn]
    ++ (List.range rn).map fun r => rangeWrite (unfreed d) id (row r) (4 * cn))
  if c.1 ≠ 0 then .inr c
  else
    let dw := (List.range rn).map fun r => rowPairs 8 (allocRead d id (row r) (4 * cn)) cn
    let t := match a with | some (o, _) => mulHi cn (readSym d rs o 8 rn) dw | none => dw
    let p := match g with | some (o, _) => mulHi cn t (readSym d rs o 8 cn) | none => t
    let n := fun (x : Option (Nat × Nat)) (b : Nat) (d : Dev) => match x with | some (o, _) => countRead d rs o (imgBytes 8 b) | none => d
    if matFin p then .inl (p.zipIdx.foldl (fun d x => allocWriteOther (countRead d id (row x.2) (4 * cn)) id (row x.2) (pairsOut 8 x.1)) (n a rn (n g cn d)))
    else .inr (0, 0, 0)

/-- The block pairs in row order until one fails. `lane` is the pair on which a lane meets a fault: one that the residue check finds ends
the run before the pair is written, one that escapes it leaves that block with free values (R297; log entry 116, DESIGN CHOICE). `late` is
the pair of which a transfer unit passes its deadline, with the code that this gives. (Log entry 45, DESIGN CHOICE.) -/
def preBlocks (w : List W32) (as gs : List (Nat × Nat × Option (Nat × Nat))) (lane : Option (Nat × LaneFault)) (late : Option (Nat × Nat)) (d : Dev) : PreRun :=
  ((as.flatMap fun a => gs.map fun g => (a, g)).zipIdx).foldl (fun r x =>
    if r.stop.isSome then r
    else if hits (fun f => faultFound f) x.2 then { r with stop := some (0x36, 0, 0) }
    else if late.any fun l => l.1 == x.2 then { r with stop := some ((late.getD (0, 0)).2, 0, 0) }
    else match preBlock w x.1.1.2.2 x.1.2.2.2 x.1.1.1 x.1.1.2.1 x.1.2.1 x.1.2.2.1 r.dev with
    | .inl d => { r with dev := if hits (fun f => !faultFound f) x.2 then blurBlock d x.1.1.1 x.1.1.2.1 x.1.2.1 x.1.2.2.1 else d, done := r.done + 1 }
    | .inr (0, _, _) => { r with status := r.status ||| stFallback, done := r.done + 1 }
    | .inr s => { r with stop := some s }) ⟨d, 0, 0, none⟩
where
  /-- Whether the fault is on this pair and has a property. -/
  hits (p : LaneFault → Bool) (i : Nat) : Bool := match lane with | some (j, f) => j == i && p f | none => false
  /-- A block whose values are free. -/
  blurBlock (d : Dev) (r0 rn c0 cn : Nat) : Dev :=
    (List.range rn).foldl (fun d r => allocUndefine d (wordAt w 1) (wordAt w 2 + 4 * ((r0 + r) * roundUp (dfield w 4 0 18) 16 + c0)) (4 * cn)) d

/-- PRECONDITION: the head of the Dot-Product Unit queue runs and ends, once the host tier takes its transfers (R337); `late` is the number
of block pairs done when a transfer unit passes its deadline (R206). Its record's COUNT is not given: a free value. -/
def precondition (d : Dev) (t : TileId) (lane : Option (Nat × LaneFault)) (late : Option Nat) : Dev :=
  match (getQueue d t 3).head? with
  | none => d
  | some e =>
    if e.phase ≠ .ready ∨ opcodeOf e.words ≠ 0x72 ∨ (late.isNone ∧ anyWaits d [wordAt e.words 1, wordAt e.words 5]) then d
    else
      let w := e.words
      let fin := fun (d : Dev) (c alloc off st : Nat) =>
        let (v, d) := freeNat d
        let e := { e with phase := Phase.done, code := c, alloc := alloc, off := off, status := st, count := v % 2 ^ 32 }
        endEnt d t e (vecSignals { e with words := w })
      let mapA := toWords (dfield w 6 23 6 + 1) (spRead d t (dfield w 6 0 23) (4 * (dfield w 6 23 6 + 1)))
      let mapG := toWords (dfield w 7 23 6 + 1) (spRead d t (dfield w 7 0 23) (4 * (dfield w 7 23 6 + 1)))
      let rs := wordAt w 5
      let h := allocRead d rs 0 64
      let sA := mapSizes mapA
      let sG := mapSizes mapG
      let bank := recf h 0x1C 4
      let k := dfield w 3 0 18
      let n := dfield w 4 0 18
      match spansPoison d t [(dfield w 6 0 23, 4 * (dfield w 6 23 6 + 1)), (dfield w 7 0 23, 4 * (dfield w 7 23 6 + 1))] with
      | some a => fin d 0x11 (poisonNames d t a).1 (poisonNames d t a).2 0
      | none =>
        let v := asBefore d e.id
        let use := firstUse [rangeRead v (wordAt w 1) 0 0, rangeRead v rs 0 64]
        let c := firstCode [(1, mapReserved mapA || mapReserved mapG), (3, !mapOk k sA || !mapOk n sG),
          (4, preSmall d w || (match getAlloc d rs with | some r => decide (r.size < 64 + 2 * bank) | none => false)
            || decide (imgsBytes 8 sA + imgsBytes 8 sG > bank))]
        if c ≠ 0 then fin d c 0 0 0
        else if use.1 ≠ 0 then fin d use.1 use.2.1 use.2.2 0
        else
          match getAlloc d (recf h 0x18 4) with
          | none => fin d 0x40 0 0 0
          | some ca =>
            let any_ := bitAt (wordAt w 0) 8
            let b := rootBank h ca.counter
            let off := fun (i : Nat) => match b with | some x => some (64 + x * bank + imgOff 8 (sA ++ sG) i) | none => none
            let usable := fun (i : Nat) => match off i with
              | some o => if rootUsable (recf (allocRead d rs o 64) 0x18 4) any_ then some (o, i) else none
              | none => none
            let side := fun (on_ : Bool) (s : List Nat) (base : Nat) => s.zipIdx.map fun x =>
              (firstRow s x.2, x.1, if on_ then usable (base + x.2) else none)
            let as := side (dfield w 0 9 1 == 1) sA 0
            let gs := side (dfield w 0 10 1 == 1) sG sA.length
            let miss := (if dfield w 0 9 1 = 1 then (as.filter fun x => x.2.2.isNone).length else 0)
              + (if dfield w 0 10 1 = 1 then (gs.filter fun x => x.2.2.isNone).length else 0)
            let ids := [wordAt w 1, rs]
            let over_ := late.any fun k => decide (k < as.length * gs.length) && (anyTier d ids 1 || anyTier d ids 2 || anyTier d ids 3)
            if late.isSome && !over_ then d else
            let d := countRead (dbump d 0x9010 7 miss 32) rs 0 64
            let (c, d) := if over_ then lateCode d (anyTier d ids 2) else (0, d)
            let r := preBlocks w as gs lane (if over_ then late.map fun k => (k, c) else none) d
            let st := r.status ||| (if miss = 0 then 0 else stFallback)
            let x := r.stop.getD (0, 0, 0)
            let r := { r with dev := spUndefine r.dev t (dfield w 8 0 23) 0x300000 }
            let d := if x.1 = 0x36 then
              let (u, d) := freeNat r.dev
              let (l, d) := freeNat d
              checkerFlag (post d 0x0021 2 (tileSource d t (u % 16)) (natLe 1 l ++ natLe 1 2)) t
            else r.dev
            fin d x.1 x.2.1 x.2.2 st

def execPrecondition (t : TileId) (lane : Option (Nat × LaneFault)) (s : State) : Host.Outcome State Fault Refusal :=
  run s fun d => if tileActs d t then precondition d t lane none else d

end Sys2Proof.Machine
end

