-- ==== Sys2Proof/Machine/Pair.lean ====
section
/-!
DEFINITION. The pair (R299-R312): mirror packets received on P15, heartbeats, fences, failover and joining; and fatal
faults (R304).
-/
namespace Sys2Proof.Machine

/-! ### Mirror packets received -/

/-- A command that names a SUBTYPE: the packet at the head of P15's VC2 is taken when it has it. A SURVIVOR accepts no mirror
data (R307). -/
def mirrorCmd (d : Dev) (sub : Nat) (f : Dev → MirrorPkt → Dev) : Dev :=
  match headPkt d 15 2 with
  | none => d
  | some q =>
    let m := mirrorOfPacket q
    if m.sub ≠ sub then d
    else f (dieLCtr (takePkt d 15 2) 8 (cdiv m.data.length 64)) m

def acceptsData (d : Dev) : Bool := d.safety.pairState != 2

/-- The mirror copy that a packet names. -/
def copyOf (d : Dev) (id : Nat) : Option Alloc :=
  match getAlloc d id with
  | some a => if a.mirrorCopy then some a else none
  | none => none

/-- Data clipped to the allocation. -/
def clip (a : Alloc) (off : Nat) (b : List Byte) : List Byte := b.take (a.size - off)

/-- ACK of a version to the owner. -/
def sendAck (d : Dev) (id ver : Nat) : Dev := sendMirror d ⟨4, 0, 0, ver, id, ver % 2 ^ 32, 0, []⟩

/-- MIRROR_DATA: a piece of the open commit, into the receiving slot. -/
def mirrorData (d : Dev) (m : MirrorPkt) : Dev :=
  match copyOf d m.alloc with
  | some a =>
    match a.begun with
    | some c => if acceptsData d && c % 2 ^ 32 == m.epoch then allocWriteSlot d m.alloc recvSlot m.value (clip a m.value m.data) else d
    | none => d
  | none => d

def execMirrorData (s : State) : Host.Outcome State Fault Refusal := run s fun d => if alive d then mirrorCmd d 1 mirrorData else d

def commitBegin (d : Dev) (m : MirrorPkt) : Dev :=
  match copyOf d m.alloc with
  | some _ => if acceptsData d then modAlloc d m.alloc fun a => { a with begun := some m.value } else d
  | none => d

def execCommitBegin (s : State) : Host.Outcome State Fault Refusal := run s fun d => if alive d then mirrorCmd d 2 commitBegin else d

/-- Exchanges the contents of a copy's two slots, with the poison marks of their units (R301). -/
def switchSlots (d : Dev) (id size : Nat) : Dev :=
  let k0 := tierKey id 0 0
  let k1 := tierKey id recvSlot 0
  let p0 := poisonKey id 0
  let p1 := poisonKey id (recvSlot * size)
  let n := cdiv size 64
  modMem d fun m =>
    let a := frange m.tier k0 (k0 + size)
    let b := frange m.tier k1 (k1 + size)
    let t := fclear (fclear m.tier k0 (k0 + size)) k1 (k1 + size)
    let t := a.foldl (fun t e => fput 0 t (e.1 - k0 + k1) e.2) t
    let q := fclear (fclear m.tierPoison p0 (p0 + n)) p1 (p1 + n)
    let q := (frange m.tierPoison p0 (p0 + n)).foldl (fun t e => fput false t (e.1 - p0 + p1) e.2) q
    { m with
      tier := b.foldl (fun t e => fput 0 t (e.1 - k1 + k0) e.2) t
      tierPoison := (frange m.tierPoison p1 (p1 + n)).foldl (fun t e => fput false t (e.1 - p1 + p0) e.2) q }

/-- COMMIT_END: the slots switch, then ACK. -/
def commitEnd (d : Dev) (m : MirrorPkt) : Dev :=
  match copyOf d m.alloc with
  | some a =>
    match a.begun with
    | some c =>
      if acceptsData d && c % 2 ^ 32 == m.epoch then
        sendAck (modAlloc (switchSlots d m.alloc a.size) m.alloc fun a => { a with begun := none, counter := c, mirrorAck := c }) m.alloc c
      else d
    | none => d
  | none => d

def execCommitEnd (s : State) : Host.Outcome State Fault Refusal := run s fun d => if alive d then mirrorCmd d 3 commitEnd else d

/-- Own MIRROR allocations. -/
def ownMirrors (d : Dev) : List Nat := (allocList d).filterMap fun e => if hasMirror e.2 && !e.2.mirrorCopy && !e.2.freeing then some e.1 else none

/-- The full copies of the allocations that the partner has not acknowledged. -/
def sendCopies (d : Dev) : Dev := d.safety.joinAcks.foldl (fun d id => if mayCopy d id then sendFullCopy d id else d) d

/-- The partner's copies are complete. -/
def partnerReady (d : Dev) : Dev :=
  let d := modSafety d fun s => { s with partnerDone := true }
  if d.safety.joinWait && d.safety.joinAcks.isEmpty then becomeJoined d else d

/-- The acknowledgement of a full copy during a join (R200, R312): one that is behind its allocation is sent again, at once or when the
engine has applied the regions that it misses. Other writes since it was sent leave UNMIRRORED set (R300). -/
def copyAcked (d : Dev) (id : Nat) (a : Alloc) (ver : Nat) : Dev :=
  if d.mem.slow.any fun e => e.from_.isSome && (updNames e.words).contains id then d
  else if a.counter ≠ ver then (if mayCopy d id then sendFullCopy d id else d)
  else
    let d := modAlloc d id fun a => { a with mirrorAck := ver, unmirrored := a.dirty, unsent := false, fullBefore := false }
    joinReady (modSafety d fun s => { s with joinAcks := s.joinAcks.filter (· != id) })

/-- MIRROR_ACK: of a full copy during a join, of a closed region (R187), of a commit, or of a new allocation (R200). -/
def mirrorAckArrived (d : Dev) (m : MirrorPkt) : Dev :=
  match getAlloc d m.alloc with
  | none => d
  | some a =>
    if a.mirrorCopy then d
    else if d.safety.joinWait ∧ m.alloc ∈ d.safety.joinAcks then copyAcked d m.alloc a m.value
    else if !mirroring d m.alloc ∨ (delayOf a = 0 ∧ a.counter < m.value) then d
    else
      let d := if a.filling then modAlloc d m.alloc fun a => { a with confirmed := true } else d
      let d := if m.value ≤ a.mirrorAck then d else dbump (modAlloc d m.alloc fun a => { a with mirrorAck := m.value }) 0x7001 3 1 64
      if delayOf a = 0 then d
      else modMem d fun x => { x with slow := updFirst (fun e => e.ackWait && wordAt e.words 1 == m.alloc) (fun e => { e with ackWait := false }) x.slow }

def execMirrorAck (s : State) : Host.Outcome State Fault Refusal := run s fun d => if alive d then mirrorCmd d 4 mirrorAckArrived else d

/-- A HEARTBEAT keeps the partner alive: its silence, HEARTBEAT_SILENCE, is what acts. -/
def execMirrorHeartbeat (s : State) : Host.Outcome State Fault Refusal :=
  run s fun d => if alive d then mirrorCmd d 5 (fun d _ => d) else d

/-- Whether this device's bytes of an allocation are those of the version that EPOCH names (R210). -/
def versionHere (d : Dev) (a : Alloc) (epoch : Nat) : Bool :=
  joined d && !a.unmirrored && !a.unsent && a.counter % 2 ^ 32 == epoch % 2 ^ 32

/-- REPAIR_REQ (R210): the line of the version asked for goes back, unless it is poisoned here too, or an update has torn the allocation
(Table 9-7; log entry 123, DESIGN CHOICE). -/
def repairReq (d : Dev) (m : MirrorPkt) : Dev :=
  match getAlloc d m.alloc with
  | some a =>
    let n := min 64 (a.size - m.value)
    if n = 0 ∨ a.torn ∨ !versionHere d a m.epoch ∨ (allocPoisonAt d m.alloc m.value n).isSome then d
    else sendMirror (countRead d m.alloc m.value n) ⟨9, 4, 0, m.value, m.alloc, a.counter % 2 ^ 32, 0, allocRead d m.alloc m.value n⟩
  | none => d

def execRepairReq (s : State) : Host.Outcome State Fault Refusal := run s fun d => if alive d then mirrorCmd d 8 repairReq else d

/-- REPAIR_DATA (R210): the line of the version held is rewritten with new check bits, in host memory too, and counted. -/
def repairData (d : Dev) (m : MirrorPkt) : Dev :=
  match getAlloc d m.alloc with
  | some a =>
    let b := clip a m.value m.data
    if b.isEmpty ∨ (allocPoisonAt d m.alloc m.value b.length).isNone ∨ !versionHere d a m.epoch ∨ a.counter ≠ a.mirrorAck then d
    else
      let d := hostUnits (allocWrite d m.alloc m.value b) m.alloc 0 m.value b.length
      dbump (modMem d fun x => { x with tierPoison := fput false x.tierPoison (poisonKey m.alloc m.value) false }) 0xA003 5 1 32
  | none => d

def execRepairData (s : State) : Host.Outcome State Fault Refusal := run s fun d => if alive d then mirrorCmd d 9 repairData else d

/-- REGION (R187): collected until whole; then acknowledged and queued for this device's own engine. The last packet waits in
the buffer while the engine's queue is full. -/
def region (d : Dev) (m : MirrorPkt) : Dev :=
  match copyOf d m.alloc with
  | some a =>
    if !acceptsData d then d
    else
      let b := (if m.seq = 0 then [] else fget [] d.safety.regionRx m.alloc) ++ m.data
      if b.length < regionHead + 4 * a.elems then modSafety d fun s => { s with regionRx := fput [] s.regionRx m.alloc b }
      else
        let e : SlowEnt := { words := toWords 16 b, hp := (b.drop 64).take 40, norm := (b.drop 104).take 64, region := 0, from_ := none
                             ackWait := false, data := (b.drop regionHead).take (4 * a.elems), id := d.stamp }
        let d := modSafety d fun s => { s with regionRx := fput [] s.regionRx m.alloc [] }
        sendAck (noteSlowFull { modMem d fun x => { x with slow := x.slow ++ [e] } with stamp := d.stamp + 1 }) m.alloc (regionVer d false e.words)
  | none => d

def execRegion (s : State) : Host.Outcome State Fault Refusal :=
  run s fun d => if alive d && decide (d.mem.slow.length < 32) then mirrorCmd d 10 region else d

/-- JOIN_COPY (R200, R312): for pair control, the partner's copies are complete; otherwise its first packet makes the copy, zero-filled,
frees it, or sets its counter alone (R199); the others fill both slots, or of a DELAY allocation the ring slot of its version too; the last
is acknowledged. A HOST copy's bytes also leave as HWRITE (R328). An identifier that this device owns, or a copy without space, is left as
it is. (Log entry 68, DESIGN CHOICE.) -/
def joinCopy (d : Dev) (m : MirrorPkt) : Dev :=
  if m.alloc = 0 then (if m.seq = 0 ∧ recf m.data 6 2 = 3 then partnerReady d else d)
  else if !acceptsData d then d
  else if m.seq = 0 ∧ recf m.data 6 2 = 2 then
    match copyOf d m.alloc with
    | some _ => modAlloc d m.alloc fun a => { a with counter := recf m.data 24 8, mirrorAck := recf m.data 24 8 }
    | none => d
  else if m.seq = 0 then
    let a : Alloc := { flags := recf m.data 0 4, kind := recf m.data 4 2, size := recf m.data 8 8, elems := recf m.data 16 8
                       counter := recf m.data 24 8, mirrorAck := recf m.data 24 8, mirrorCopy := true }
    match getAlloc d m.alloc with
    | some x => if !x.mirrorCopy then d else place (removeAlloc d m.alloc) a
    | none => place d a
  else match copyOf d m.alloc with
    | none => d
    | some a =>
      let b := clip a m.value m.data
      let slot := if delayOf a = 0 then recvSlot else ringSlot a a.counter
      let d := allocWriteSlot (allocWriteSlot d m.alloc 0 m.value b) m.alloc slot m.value b
      let d := if tierOf a = 2 then hostUnits (hostUnits d m.alloc 0 m.value b.length) m.alloc slot m.value b.length else d
      if m.value + b.length ≥ a.size then sendAck d m.alloc a.counter else d
where
  /-- Makes the copy that the first packet describes. -/
  place (d : Dev) (a : Alloc) : Dev :=
    if a.size = 0 ∨ (allocList d).length ≥ 16384 then d
    else
      let fits := if tierOf a = 2 then (hostPlace d (footprint a)).isSome else decide (tierUsed d 1 + footprint a ≤ hbmCapacity d)
      if !fits then d
      else
        let a := { a with hostAddr := if tierOf a = 2 then (hostPlace d (footprint a)).getD 0 else 0 }
        let d := hostFill (zeroFill (putAlloc d m.alloc (some a)) m.alloc a) a
        if recf m.data 6 2 = 1 then sendAck d m.alloc a.counter else d

/-- Whether the packet waits: one that carries a counter, behind the regions that this device's engine has yet to apply. -/
def copyWaits (d : Dev) : Bool :=
  match headPkt d 15 2 with
  | some q => let m := mirrorOfPacket q
    m.sub == 11 && m.seq == 0 && recf m.data 6 2 == 2 && d.mem.slow.any fun e => e.from_.isNone && wordAt e.words 1 == m.alloc
  | none => false

def execJoinCopy (s : State) : Host.Outcome State Fault Refusal :=
  run s fun d => if alive d && !copyWaits d then mirrorCmd d 11 joinCopy else d

/-! ### Joining (R299, R312, R416) -/

/-- PAIR_JOIN: with P15 up and start-up at step 9 or past it, the partner being as far; MIRROR allocations held are copied in
full first, those again that the partner has not acknowledged when the command comes again. -/
def pairJoin (d : Dev) : Dev :=
  if !portUp d 15 || decide (d.power.step < 9) || d.safety.pairState == 1 || d.safety.pairState == 3 then d
  else joinReady (sendCopies (if d.safety.joinWait then d else modSafety d fun s => { s with joinWait := true, joinAcks := ownMirrors d }))

def execPairJoin (s : State) : Host.Outcome State Fault Refusal := run s fun d => if alive d then pairJoin d else d

/-! ### Failover (R306-R307) -/

/-- The failover record of Table 13-5. -/
def failoverRecord (d : Dev) (how fault promoted rolled aborted lo hi : Nat) : List Byte :=
  natLe 1 how ++ natLe 1 fault ++ zbytes 2 ++ natLe 4 (partnerAddr d) ++ natLe 8 (getPort d 15).peerSerial ++ natLe 4 promoted
    ++ natLe 4 rolled ++ natLe 4 aborted ++ natLe 4 (opSeconds d) ++ natLe 8 lo ++ natLe 8 hi ++ zbytes 16

/-- A mirror copy becomes owned: its acknowledged version, its counter, UNMIRRORED. -/
def promote (a : Alloc) : Alloc :=
  { a with counter := a.mirrorAck, mirrorCopy := false, unmirrored := true, begun := none }

/-- The partner is lost: fence, by P15 only while that is up, promotion, ABORT and report, in this order (R307). -/
def declareLost (d : Dev) (how fault : Nat) : Dev :=
  if d.safety.pairState ≥ 2 then d
  else
    let d := if portUp d 15 then sendMirror d ⟨7, 0, 9, partnerAddr d, 0, 0, 0, []⟩ else d
    let d := sendPairControl d 0xFFFF 1
    let copies := (allocList d).filter fun e => e.2.mirrorCopy
    let rolled := (copies.filter fun e => match e.2.begun with | some c => decide (c > e.2.mirrorAck) | none => false).length
    let ctrs := copies.map fun e => e.2.mirrorAck
    let d := copies.foldl (fun d e =>
      let p1 := poisonKey e.1 (recvSlot * e.2.size)
      let d := modMem d fun m => { m with
        tier := fclear m.tier (tierKey e.1 recvSlot 0) (tierKey e.1 recvSlot 0 + e.2.size)
        tierPoison := fclear m.tierPoison p1 (p1 + cdiv e.2.size 64) }
      modAlloc d e.1 promote) d
    let d := modMem d fun m => { m with slow := m.slow.map fun e => { e with ackWait := false } }
    let hit := d.fab.colls.filter fun k => decide (partnerAddr d ∈ k.faddrs)
    let d := hit.foldl (fun d k => match findColl d (collId k.words) (collEpoch k.words) k.me with
      | some k => abortColl d k 3 0x50 []
      | none => d) d
    let r := failoverRecord d how fault copies.length rolled hit.length (ctrs.foldl min (ctrs.headD 0)) (ctrs.foldl max 0)
    let d := modSafety (dropCopies d fun _ => true) fun s => { s with pairState := 2, failRecord := r, regionRx := [], joinWait := false, partnerDone := false }
    let d := dbump d 0x7002 2 1 32
    let d := match semOfNat (bitf (dget d 0x7002 1) 8 6), remoteTile (dget d 0x7002 1 % 256) with
      | some s, some t => makeSig d ⟨t, s, 1, .program, none, none⟩
      | _, _ => d
    post d 0x0052 2 srcDevice (r.take 32)

/-- A fence names this device (R305): it fail-stops with code 9, except that of two devices that declare each other lost the
one at the even position takes over. -/
def fencedBy (d : Dev) : Dev :=
  if d.safety.pairState = 2 ∧ ownAddr d % 2 = 0 then d else failStop d 9

/-- FAILSTOP from the partner. -/
def execFailstop (s : State) : Host.Outcome State Fault Refusal :=
  run s fun d => if alive d then mirrorCmd d 6 (fun d m => declareLost d 1 m.reason) else d

/-- FENCE on P15: VALUE names the fenced device. -/
def fenceArrived (d : Dev) (m : MirrorPkt) : Dev :=
  if m.value = ownAddr d then fencedBy d else if m.value = partnerAddr d then declareLost d 2 0 else d

def execFenceSubtype (s : State) : Host.Outcome State Fault Refusal :=
  run s fun d => if alive d then mirrorCmd d 7 fenceArrived else d

/-- A heartbeat by ordinary routes (R303). -/
def heartbeatSignal (d : Dev) (p : Nat) : Dev :=
  match headPkt d p 1 with
  | some q => if isPairControl q 0 then takeSignal d p q id else d
  | none => d

def execHeartbeatSignal (p : Port) (s : State) : Host.Outcome State Fault Refusal :=
  run s fun d => if alive d then heartbeatSignal d p.val else d

/-- A fence by ordinary routes, from the partner (R303, R306): 0 names the sender, 1 the receiver; another value or sender is discarded
and counted. -/
def fenceSignal (d : Dev) (p : Nat) : Dev :=
  match headPkt d p 1 with
  | some q =>
    if isPairControl q 0xFFFF then
      takeSignal d p q fun d =>
        if q.src ≠ partnerAddr d then staleDrop d p
        else if recf q.payload 0 1 = 0 then declareLost d 2 0
        else if recf q.payload 0 1 = 1 then fencedBy d
        else staleDrop d p
    else d
  | none => d

def execFenceSignal (p : Port) (s : State) : Host.Outcome State Fault Refusal :=
  run s fun d => if alive d then fenceSignal d p.val else d

/-- HEARTBEAT_SEND_TIMER (R306). -/
def execHeartbeatSendTimer (s : State) : Host.Outcome State Fault Refusal :=
  run s fun d => if alive d && d.safety.hbOn then
    sendPairControl (if portUp d 15 then sendMirror d ⟨5, 0, 0, 0, 0, 0, 0, []⟩ else d) 0 0 else d

def execHeartbeatSilence (s : State) : Host.Outcome State Fault Refusal :=
  run s fun d => if alive d && d.safety.hbOn then declareLost d 3 0 else d

/-! ### Fatal faults (R304) -/

/-- FATAL_FAULT: one of the causes 1 to 7 of Table 13-4; 0 names none. -/
def execFatalFault (code : Fin 8) (s : State) : Host.Outcome State Fault Refusal :=
  run s fun d => if alive d && code.val != 0 then failStop d code.val else d

def execFailStopRequest (s : State) : Host.Outcome State Fault Refusal :=
  run s fun d => if alive d then failStop d 8 else d

end Sys2Proof.Machine
end

