-- ==== Sys2Proof/Machine/SelfTest.lean ====
section
/-!
DEFINITION. Self-test during work (R313-R316): the rotating spare of each compute die, requested tests, retirement, and
the tests of curvature tiles in place. A slot of a die is the number of a usual compute tile (0 to 63), 64 the rotating
spare, 65 the repair spare, and 128 + n curvature tile n.
-/
namespace Sys2Proof.Machine

/-- The slot of a physical compute tile. -/
def slotOfPhys (die phys : Nat) : Nat :=
  ((List.range 66).find? fun s => physOfSlot die s == phys).getD 65

/-- R218: threads IDLE, FAULTED or BLOCKED in SWAIT, queues empty, and no array taken by a quad gang of another tile (R67). The entry
of a Percolator whose next block job waits for the tile's test counts with its script (R159). -/
def atBoundary (d : Dev) (t : TileId) : Bool :=
  let k := getTile d t
  (k.threads.all fun e => e.2.st == .idle || e.2.st == .faulted ||
    (e.2.st == .blocked && (match e.2.wait with | .swait _ _ => true | _ => false)))
    && (k.queues.all fun q => q.2.all fun e => e.org == .solver)
    && (isCurv t || (List.range 4).all fun a => arrayLoad d t a == 0)

/-- The compute tile that has its turn on a die, and whether a request asks for it: the oldest requested compute tile, else
the next in ascending order. -/
def nextTurn (d : Dev) (die : Nat) : Nat × Bool :=
  match (fget [] d.safety.testQ die).find? fun e => decide (e.1 < 128) with
  | some e => (e.1, true)
  | none => (fget 0 d.safety.nextTile die, false)

/-- A turn is used up: the request leaves the queue, or the order goes on. -/
def endTurn (d : Dev) (die : Nat) (n : Nat × Bool) : Dev :=
  modSafety d fun s =>
    if n.2 then { s with testQ := fput [] s.testQ die (dropFirst (fun e => e.1 == n.1) (fget [] s.testQ die)) }
    else { s with nextTile := fput 0 s.nextTile die ((n.1 + 1) % 64) }

def logicalTile (die n : Nat) : TileId := tileOfNat (die * 64 + n)

/-- The spare may take a turn: no test runs on the die and its rotation has not stopped. (Log entry 69, DESIGN CHOICE.) -/
def mayTurn (d : Dev) (die : Nat) : Bool :=
  (fget none d.safety.testNow die).isNone && (fget none d.safety.retired die).isNone

/-- SELFTEST_TAKEOVER (R314): the state of the logical tile stands as it is, and the spare serves it. A spare has no logical
tile to take over and is tested as it stands. -/
def takeover (d : Dev) (die : Nat) : Dev :=
  let n := nextTurn d die
  if !mayTurn d die then d
  else if n.1 < 64 && !atBoundary d (logicalTile die n.1) then d
  else
    let d := settleBlk (endTurn d die n) (die * 66 + n.1)
    let d := modSafety d fun s => { s with
      testNow := fput none s.testNow die (some n.1)
      spareFor := if n.1 < 64 then fput none s.spareFor die (some n.1) else s.spareFor }
    if n.1 < 64 then remark d (logicalTile die n.1) else d

def execSelftestTakeover (die : Fin 2) (s : State) : Host.Outcome State Fault Refusal :=
  run s fun d => if alive d then takeover d die.val else d

/-- SELFTEST_END (R315): a tile that passes waits to move back; one that fails is retired and rotation on the die stops. -/
def testEnd (d : Dev) (die : Nat) (pass : Bool) : Dev :=
  match fget none d.safety.testNow die, fget none d.safety.testDone die with
  | some n, none =>
    let d := dbump d 0x7010 1 1 32
    let d := modSafety d fun s => { s with sinceCurv := fmod 0 s.sinceCurv die (· + 1) }
    if pass then
      modSafety d fun s =>
        if n < 64 then { s with testDone := fput none s.testDone die (some true) }
        else { s with testNow := fput none s.testNow die none }
    else
      let phys := physOfSlot die n
      let d := post (dbump d 0x7010 2 1 32) 0x0023 2 (source 1 die phys 0) []
      let d := dbump d 0x7010 5 (fget [] d.safety.testQ die).length 32
      modSafety d fun s => { s with
        retired := fput none s.retired die (some phys), tilesRetired := (s.tilesRetired + 1) % 256
        testNow := fput none s.testNow die none
        testQ := fput [] s.testQ die [] }
  | _, _ => d

def execSelftestEnd (die : Fin 2) (pass : Bool) (s : State) : Host.Outcome State Fault Refusal :=
  run s fun d => if alive d then testEnd d die.val pass else d

/-- SELFTEST_MOVE_BACK (R313): the tested tile takes its logical tile back at a program boundary. -/
def moveBack (d : Dev) (die : Nat) : Dev :=
  match fget none d.safety.testNow die, fget none d.safety.testDone die with
  | some n, some _ =>
    if atBoundary d (logicalTile die n) then
      remark (modSafety (settleBlk d (die * 66 + 64)) fun s => { s with
        testNow := fput none s.testNow die none, testDone := fput none s.testDone die none, spareFor := fput none s.spareFor die none })
        (logicalTile die n)
    else d
  | _, _ => d

def execSelftestMoveBack (die : Fin 2) (s : State) : Host.Outcome State Fault Refusal :=
  run s fun d => if alive d then moveBack d die.val else d

/-- SELFTEST_TURN_PASSED (R313): a turn without a program boundary for 10 s is passed over and counted. -/
def execSelftestTurnPassed (die : Fin 2) (s : State) : Host.Outcome State Fault Refusal :=
  run s fun d =>
    let n := nextTurn d die.val
    if alive d && mayTurn d die.val && decide (n.1 < 64) && !atBoundary d (logicalTile die.val n.1) then
      dbump (endTurn d die.val n) 0x7010 5 1 32 else d

/-! ### Requests through 0x7011:01 (R315) -/

/-- The slot that a written request names. -/
def requestSlot (v : Nat) : Nat := if bitAt v 9 then 128 + bitf v 0 8 else slotOfPhys (bitf v 8 1) (bitf v 0 8)
/-- Whether the value names a tile. -/
def requestOk (v : Nat) : Bool := decide (v < 1024) && decide (bitf v 0 8 < if bitAt v 9 then 4 else 66)
/-- A full queue refuses a write, unless the tile is queued already. -/
def requestFits (d : Dev) (v : Nat) : Bool :=
  let q := fget [] d.safety.testQ (bitf v 8 1)
  decide (q.length < 16) || q.any fun e => e.1 == requestSlot v

/-- A write to 0x7011:01; recovery serves none (R364). -/
def selftestRequest (d : Dev) (v : Nat) : Dev :=
  if d.sec.recovery then d
  else if requestOk v && requestFits d v then requestTest d (bitf v 8 1) (requestSlot v) false else d

def execSelftestRequest (v : W16) (s : State) : Host.Outcome State Fault Refusal :=
  run s fun d => if alive d then selftestRequest d v.toNat else d

/-! ### Curvature tiles (R316) -/

def curvRequested (d : Dev) (die : Nat) : Option Nat :=
  ((fget [] d.safety.testQ die).find? fun e => decide (e.1 ≥ 128)).map fun e => e.1 - 128

/-- The curvature tile whose test is due on a die: a requested one, or the next after 16 compute-tile tests. -/
def curvTurn (d : Dev) (die : Nat) : Option Nat :=
  match curvRequested d die with
  | some n => some n
  | none => if fget 0 d.safety.sinceCurv die ≥ 16 then some (fget 0 d.safety.nextCurv die) else none

def curvOf (die n : Nat) : Nat := die * 4 + n % 4
def curvTesting (d : Dev) (die : Nat) : Option Nat := (List.range 4).find? fun n => (getCurv d (curvOf die n)).testing

/-- CURVATURE_SELFTEST_START: at a program boundary, with no Grinder program, sweep or Percolator script; a script whose next
block job waits for this test does not keep it from starting (R159; log entry 115, DEDUCED). -/
def curvStart (d : Dev) (die : Nat) : Dev :=
  match curvTurn d die with
  | none => d
  | some n =>
    let c := curvOf die n
    let k := getCurv d c
    if (curvTesting d die).isSome || !atBoundary d (tileOfNat (128 + c)) || k.grind.isSome
        || (k.script.isSome && !jobHeld d c) || !k.sweep.isEmpty then d
    else
      let d := modCurv (settleBlk d (132 + c)) c fun k => { k with testing := true }
      modSafety d fun s =>
        match curvRequested d die with
        | some m => { s with testQ := fput [] s.testQ die (dropFirst (fun e => e.1 == 128 + m) (fget [] s.testQ die)) }
        | none => { s with sinceCurv := fmod 0 s.sinceCurv die (· - 16), nextCurv := fput 0 s.nextCurv die ((n + 1) % 4) }

def execCurvatureSelftestStart (die : Fin 2) (s : State) : Host.Outcome State Fault Refusal :=
  run s fun d => if alive d then curvStart d die.val else d

/-- CURVATURE_SELFTEST_END: taps held back go on; a failure is counted (the spec retires compute tiles only). -/
def curvEnd (d : Dev) (die : Nat) (pass : Bool) : Dev :=
  match curvTesting d die with
  | none => d
  | some n =>
    let d := remark (modCurv d (curvOf die n) fun k => { k with testing := false }) (tileOfNat (128 + curvOf die n))
    let d := dbump d 0x7010 1 1 32
    if pass then d else dbump d 0x7010 2 1 32

def execCurvatureSelftestEnd (die : Fin 2) (pass : Bool) (s : State) : Host.Outcome State Fault Refusal :=
  run s fun d => if alive d then curvEnd d die.val pass else d

end Sys2Proof.Machine
end

