-- ==== Sys2Proof/Machine/Ucie.lean ====
section
/-!
DEFINITION. The host die attachment (chapter 14): link-up, message order with NAK and replay, host reads, submission and
completion queues, interrupts, thread doorbells. Messages that leave are listed in `host.sent`, and `sentBytes` are their units; each
names the bytes it carries, so a 32-byte record is an HWRITE of its 32 bytes.
-/
namespace Sys2Proof.Machine

/-! ### The message layer (R322-R327) -/

/-- A message that is discarded (0x2100:04). -/
def discardMsg (d : Dev) : Dev := dbump d 0x2100 4 1 32

/-- How many modules a mask names. -/
def modulesIn (mods : Nat) : Nat := ((List.range 4).filter fun i => bitAt mods i).length

/-- Modules that were up in `old` and are not in `mods` are dropped, with an event each (R321). -/
def dropModules (d : Dev) (old mods : Nat) : Dev :=
  (List.range 4).foldl (fun d i => if bitAt old i && !bitAt mods i then post d 0x0060 1 (source 6 2 0 i) [] else d) d

/-- The header of a message (Table 14-3). -/
def hostHeader (typ len seq ack ret tag addr arg arg2 crc : Nat) : List Byte :=
  natLe 1 typ ++ natLe 1 len ++ zbytes 2 ++ natLe 4 seq ++ natLe 4 ack ++ natLe 2 ret ++ natLe 2 tag ++ natLe 8 addr
    ++ natLe 4 arg ++ zbytes 4 ++ natLe 8 arg2 ++ zbytes 20 ++ natLe 4 crc

/-- The header of a message that arrives, with its CRC field as `crc`. -/
def msgHeader (m : HostMsg) (crc : Nat) : List Byte :=
  hostHeader m.typ.toNat (m.data.length / 64) m.seq.toNat m.ackSeq.toNat m.credit.toNat m.tag.toNat m.addr.toNat m.arg.toNat m.arg2.toNat crc

/-- CRC-32C over the header, its CRC field taken as zero, and the data units (R323). -/
def msgCrc (m : HostMsg) : W32 := crc32c (msgHeader m 0 ++ m.data)

/-- The message is whole: data units of 64 bytes, and its CRC matches. -/
def msgWhole (m : HostMsg) : Bool := m.data.length % 64 == 0 && m.crc == msgCrc m

/-- A type that the host may send, with a LEN that Table 14-4 allows it. -/
def msgTaken (typ : Nat) (m : HostMsg) : Bool :=
  m.typ.toNat == typ && (if typ = 0x11 then !m.data.isEmpty && decide (m.data.length ≤ 4096) else m.data.isEmpty)

/-- TYPE, TAG, ADDR, ARG and data of a message that the device sends (Table 14-4). -/
def outFields (m : HostOut) : Nat × Nat × Nat × Nat × List Byte :=
  match m with
  | .nop => (0x01, 0, 0, 0, [])
  | .nak => (0x02, 0, 0, 0, [])
  | .hello serial rev => (0x40, 0, serial, rev, [])
  | .hread tag addr n => (0x10, tag, addr, n, [])
  | .hwrite addr b => (0x12, 0, addr, 0, padTo 64 b)
  | .interrupt v => (0x30, 0, 0, v, [])
where
  /-- `b` with zeros up to a whole number of `n`-byte units. -/
  padTo (n : Nat) (b : List Byte) : List Byte := b ++ zbytes (roundUp b.length n - b.length)

/-- The units of a message as it leaves: header with its CRC, and data (R323). `e` is an entry of `host.sent`. -/
def sentBytes (e : Nat × Nat × Nat × HostOut) : List Byte :=
  let (typ, tag, addr, arg, data) := outFields e.2.2.2
  let h := hostHeader typ (data.length / 64) e.1 e.2.1 e.2.2.1 tag addr arg 0
  h (crc32c (h 0 ++ data)).toNat ++ data

/-- ACK_SEQ: the messages up to it leave the replay buffer (R325). -/
def ackHost (d : Dev) (a : Nat) : Dev :=
  modHost d fun h => { h with replay := h.replay.filter fun e => decide ((a + 2 ^ 32 - e.1) % 2 ^ 32 ≥ 2 ^ 31) }

/-- Returns the credits owed by a NOP once half of the receive buffer is owed and the NOP itself has a credit (log entry 40, DESIGN CHOICE).
-/
def returnCredits (d : Dev) : Dev := if decide (d.host.owed ≥ 256) && hostRoom d.host .nop then putHost d .nop else d

/-- Sends what waits, as far as credits and the replay buffer allow. -/
def pumpAll (d : Dev) : Dev := returnCredits (pumpHost d.host.waiting.length d)

/-- A message received while the link is up (R324, R325, R327): one that is in order and whole is taken, and `f` applied if its type and
LEN are those of `typ`; otherwise it is discarded, though its place in the sequence, its acknowledgement and its credits count. One that is
broken, and the first that is out of order, bring a NAK, and every later one is discarded until the expected SEQ arrives. A message received
twice is discarded. (Log entry 72, DESIGN CHOICE.) -/
def recvHost (d : Dev) (typ : Nat) (m : HostMsg) (f : Dev → Dev) : Dev :=
  let units := 1 + m.data.length / 64
  let late := decide ((d.host.rxSeq + 2 ^ 32 - 1 - m.seq.toNat) % 2 ^ 32 < 2 ^ 31)
  if !d.host.up then d
  else
    let d := ucieCtr d 1 units
    if msgWhole m && m.seq.toNat == d.host.rxSeq then
      let d := modHost d fun h => { h with
        rxSeq := (h.rxSeq + 1) % 2 ^ 32
        discarding := false
        owed := h.owed + units
        credit := h.credit + m.credit.toNat }
      let d := ackHost d m.ackSeq.toNat
      pumpAll (if msgTaken typ m then f d else discardMsg d)
    else if msgWhole m && (d.host.discarding || late) then discardMsg d
    else
      let d := modHost (discardMsg d) fun h => { h with discarding := true }
      sendFirst (ucieCtr (dbump d 0x2100 4 1 32) 4 1) .nak

/-- NAK: every message after ACK_SEQ is sent again as it was, ahead of new ones (R325). -/
def nakArrived (d : Dev) : Dev :=
  let d := ucieCtr (dbump d 0x2100 4 1 32) 4 1
  let n := (d.host.replay.map fun e => msgUnits e.2.2.2).foldl (· + ·) 0
  ucieCtr (modHost d fun h => { h with
    sent := h.sent ++ h.replay.map fun e => (e.1, (h.rxSeq + 2 ^ 32 - 1) % 2 ^ 32, e.2.2.1, e.2.2.2)
    replay := h.replay.map fun e => (e.1, e.2.1 + 1, e.2.2) }) 0 n

def execNop (m : HostMsg) (s : State) : Host.Outcome State Fault Refusal := run s fun d => recvHost d 0x01 m id

def execNak (m : HostMsg) (s : State) : Host.Outcome State Fault Refusal := run s fun d => recvHost d 0x02 m nakArrived

/-! ### Queues (R330-R333) -/

def ringS (d : Dev) (q : Nat) : Nat := 2 ^ bitf (dget d 0x2102 (q + 1)) 0 4
def ringC (d : Dev) (q : Nat) : Nat := 2 ^ bitf (dget d 0x2102 (q + 1)) 4 4
def queueOn (d : Dev) (q : Nat) : Bool := dget d 0x2105 (q + 1) == 1
/-- `a` − `b` of free-running counters. -/
def ctrDist (a b : Nat) : Nat := (a + 2 ^ 32 - b) % 2 ^ 32
/-- CQ slots not reserved. -/
def cqFree (d : Dev) (q : Nat) : Nat := ringC d q - ctrDist (getHQ d q).reserve (getHQ d q).cqHead

def freeTag (d : Dev) : Option Nat := (List.range 512).find? fun t => (fget none d.host.reads t).isNone

/-- Fetches SQ entries in ring order, up to 16 by one HREAD_REQ, each with a CQ slot reserved (R332). -/
def fetchQueue : Nat → Dev → HQueue → Dev
  | 0, d, _ => d
  | n + 1, d, q =>
    let h := getHQ d q.val
    let k := min (min (min (ctrDist h.sqTail h.fetch) 16) (cqFree d q.val)) (ringS d q.val - h.fetch % ringS d q.val)
    if !queueOn d q.val || h.error || !d.host.up || !alive d || k == 0 then d
    else match freeTag d with
    | none => d
    | some tag =>
      let d := modHost d fun x => { x with reads := fput none x.reads tag (some { what := .sq q h.fetch k, bytes := 64 * k }) }
      let d := modHQ d q.val fun x => { x with fetch := (x.fetch + k) % 2 ^ 32, reserve := (x.reserve + k) % 2 ^ 32 }
      fetchQueue n (sendHost d (.hread tag (dget d 0x2101 (q.val + 1) + 64 * (h.fetch % ringS d q.val)) (64 * k))) q

def hqs : List HQueue := List.finRange 64

def fetchAll (d : Dev) : Dev := hqs.foldl (fun d q => fetchQueue 260 d q) d

/-- Accepts one SQ entry (R331): refused, ended by its poison (R329), or among the device's memory requests. -/
def acceptSq (d : Dev) (q : HQueue) (seq : Nat) (words : List W32) (bad : Bool) : Dev :=
  let code := if bad then 0x11 else checkMemory d none words
  let e : QEnt := { id := d.stamp, unit := 2, words := words, org := .host q (BitVec.ofNat 32 seq), phase := .ready, code := code }
  if code ≠ 0 then hostComplete d q (hostRec e)
  else { modHost d fun h => { h with entries := h.entries ++ [e] } with stamp := d.stamp + 1 }

/-- Accepts the entries of fetches that are complete, in ring order. (Log entry 49, DESIGN CHOICE.) -/
def acceptFetched : Nat → Dev → HQueue → Dev
  | 0, d, _ => d
  | n + 1, d, q =>
    let sq := d.host.reads.filterMap fun e => match e.2 with
      | some r => (match r.what with | .sq p first k => if p = q then some (e.1, first, k, r) else none | _ => none)
      | none => none
    let oldest := sq.foldl (fun b e => max b (ctrDist (getHQ d q.val).fetch e.2.1)) 0
    match sq.find? fun e => ctrDist (getHQ d q.val).fetch e.2.1 == oldest with
    | some (tag, first, k, r) =>
      if r.seen.length * 64 < r.bytes then d
      else
        let d := modHost d fun h => { h with reads := fput none h.reads tag none }
        acceptFetched n ((List.range k).foldl (fun d i =>
          acceptSq d q ((first + i) % 2 ^ 32) (toWords 16 (mread r.got (64 * i) 64)) (r.bad.contains i)) d) q
    | none => d

/-! ### Host reads (R326, R329) -/

/-- Sends the host reads that the running moves, updates, the slow engine and full copies still owe, as far as read tags are free. -/
def moreReads (d : Dev) : Dev :=
  let moving := fun (e : QEnt) => e.phase == .running && opcodeOf e.words == 0x94
  let d := d.host.entries.zipIdx.foldl (fun d e => if moving e.1 then readMove d (.host e.2) e.1 else d) d
  let d := (List.finRange 136).foldl (fun d t =>
    let d := (getQueue d t 2).zipIdx.foldl (fun d e => if moving e.1 then readMove d (.tile t e.2) e.1 else d) d
    match runningUpdate d t with
    | some e =>
      let r := requestReads 512 d e.id (updHostReads d (heldRun d e)) e.bufPos
      modEnt r.1 t 1 e.id fun e => { e with bufPos := r.2 }
    | none => d) d
  advanceCopies (match d.mem.slow with
    | s :: _ =>
      if !s.started then d
      else
        let r := requestReads 512 d s.id (updHostReads d (updOf d s.words s.hp s.norm s.region s.data)) s.reqs
        modMem r.1 fun m => { m with slow := updFirst (fun x => x.id == s.id) (fun x => { x with reqs := r.2 }) m.slow }
    | [] => d)

/-- The bytes of one HREAD_DATA for an allocation; slot n of a DELAY allocation stands at n · SIZE. -/
def tierArrived (d : Dev) (id off : Nat) (b : List Byte) : Dev :=
  match getAlloc d id with
  | some a => if a.size = 0 then d else
    let k := tierKey id (off / a.size) (off % a.size)
    modMem d fun m => { m with tier := mwrite m.tier k b, tierUndef := uCut m.tierUndef k (k + b.length) }
  | none => d

/-- The host address that an SQ read starts at. -/
def sqReadAddr (d : Dev) (q : HQueue) (first : Nat) : Nat := dget d 0x2101 (q.val + 1) + 64 * (first % ringS d q.val)

/-- A unit of host memory that no allocation owns is poisoned: it takes an entry of the table while one is free (R209, R329). -/
def poisonHostUnit (d : Dev) (addr : Nat) : Dev :=
  let d := if poisonTableUsed d ≥ 1024 then d
    else modMem d fun m => { m with tierPoison := fput false m.tierPoison (poisonKey hostUnitId addr) true }
  dbump (post d 0x0030 2 srcUcie (poisonDetail 0 addr 2)) 0xA003 2 1 32

/-- Poisons the units that a bad answer covers, in the Die L poison table; a unit of no allocation is reported by its
host address. -/
def badUnits (d : Dev) (r : HRead) (off n : Nat) : Dev :=
  (List.range (n / 64)).foldl (fun d i =>
    match r.what with
    | .tier id o _ => if (allocPoisonAt d id (o + off + 64 * i) 64).isSome then d else poisonAlloc d id (o + off + 64 * i)
    | .sq q first _ => poisonHostUnit d (sqReadAddr d q first + off + 64 * i)) d

/-- The units of a good answer: bytes of an allocation, or of SQ entries, whose units then hold no poison. -/
def goodUnits (d : Dev) (r : HRead) (off : Nat) (b : List Byte) : HRead × Dev :=
  match r.what with
  | .tier id o owner => (r, if owner = 0 then d else tierArrived d id (o + off) b)
  | .sq q first _ =>
    let k := poisonKey hostUnitId (sqReadAddr d q first + off)
    ({ r with got := mwrite r.got off b }, modMem d fun m => { m with tierPoison := fclear m.tierPoison k (k + b.length / 64) })

/-- HREAD_DATA (R326, R329). -/
def hreadArrived (d : Dev) (m : HostMsg) : Dev :=
  let tag := m.tag.toNat
  let off := m.arg.toNat % 65536
  let n := m.data.length
  match fget none d.host.reads tag with
  | none => discardMsg d
  | some r =>
    if off % 64 ≠ 0 ∨ off + n > r.bytes then discardMsg d
    else
      let units := (List.range (n / 64)).map fun i => off / 64 + i
      let good := bitf m.arg.toNat 16 2 == 0
      let r := { r with
        seen := r.seen ++ units.filter fun u => !r.seen.contains u
        bad := if good then r.bad else r.bad ++ units }
      let (r, d) := if good then goodUnits d r off m.data else (r, badUnits d r off n)
      let whole := decide (r.seen.length * 64 ≥ r.bytes)
      match r.what with
      | .sq q _ _ => acceptFetched 512 (modHost d fun h => { h with reads := fput none h.reads tag (some r) }) q
      | .tier _ _ _ =>
        let d := modHost d fun h => { h with reads := fput none h.reads tag (if whole then none else some r) }
        if whole then moreReads d else d

def execHreadData (m : HostMsg) (s : State) : Host.Outcome State Fault Refusal :=
  run s fun d => recvHost d 0x11 m fun d => fetchAll (hreadArrived d m)

/-! ### Doorbells (R332, R335) -/

/-- The record of a thread doorbell: UNIT 8. -/
def doorbellRec (code : Nat) : List Byte := recBytes ⟨⟨0, by omega⟩, 0, 8, code, 0, 0, 0, 0, 0, 0, 0⟩

/-- The effect of a thread doorbell and its code; a start first invalidates the instruction cache of the tile. -/
def doorbellEffect (d : Dev) (b : Doorbell) : Dev × Nat :=
  match b.tile with
  | none => (d, 3)
  | some t =>
    if b.action = 0 then
      let (d, ok) := startThread (modTile d t fun k => { k with icache := [] }) t b.thread (BitVec.ofNat 64 b.pc)
      (d, if ok then 0 else 0x60)
    else if b.action = 1 then
      let (d, ok) := wakeSwait d t b.thread
      (d, if ok then 0 else 0x60)
    else if b.action = 2 then (stopThread d t b.thread, 0)
    else (d, 3)

/-- Applies the oldest doorbells that have a free CQ slot. -/
def applyDoorbells : Nat → Dev → Dev
  | 0, d => d
  | n + 1, d =>
    match d.host.doorbells.find? fun b => queueOn d b.queue.val && decide (cqFree d b.queue.val > 0) with
    | some b =>
      let d := modHost d fun h => { h with doorbells := dropFirst (fun x => x == b) h.doorbells }
      let (d, code) := doorbellEffect d b
      let d := modHQ d b.queue.val fun x => { x with reserve := (x.reserve + 1) % 2 ^ 32 }
      applyDoorbells n (hostComplete d b.queue (doorbellRec code))
    | none => d

/-- TDOORBELL: discarded before READY (R417). -/
def tdoorbell (d : Dev) (m : HostMsg) : Dev :=
  let d := ucieCtr d 6 1
  if d.power.devState ≠ 1 then discardMsg d
  else
    let arg := m.arg.toNat
    let code := arg % 128
    let b : Doorbell := {
      tile := if code = 0x7F then none else tileOfCode ⟨0, by omega⟩ code (bitAt arg 7)
      thread := ⟨bitf arg 8 6, by simp only [bitf]; omega⟩
      action := bitf arg 14 2
      pc := bitf m.addr.toNat 0 23
      queue := ⟨bitf arg 16 6, by simp only [bitf]; omega⟩ }
    let d := modHost d fun h => { h with doorbells := h.doorbells ++ [b] }
    applyDoorbells d.host.doorbells.length d

def execTdoorbellStart (m : HostMsg) (s : State) : Host.Outcome State Fault Refusal :=
  run s fun d => recvHost d 0x21 m fun d => tdoorbell d m

def execTdoorbellWake (m : HostMsg) (s : State) : Host.Outcome State Fault Refusal :=
  run s fun d => recvHost d 0x21 m fun d => tdoorbell d m

def execTdoorbellStop (m : HostMsg) (s : State) : Host.Outcome State Fault Refusal :=
  run s fun d => recvHost d 0x21 m fun d => tdoorbell d m

/-- QDOORBELL: the SQ tail and the CQ head, or ERROR; then waiting doorbells and fetches go on. A doorbell for a queue that
is disabled or in ERROR changes nothing. (Log entry 73, DESIGN CHOICE.) -/
def qdoorbell (d : Dev) (m : HostMsg) : Dev :=
  let d := ucieCtr d 6 1
  let q : HQueue := ⟨bitf m.arg.toNat 0 6, by simp only [bitf]; omega⟩
  let tail := bitf m.arg2.toNat 0 32
  let head := bitf m.arg2.toNat 32 32
  let h := getHQ d q.val
  if !queueOn d q.val || h.error then d
  else if ctrDist tail h.fetch > ringS d q.val ∨ ctrDist h.write head ≥ 2 ^ 31 then
    let d := modHQ d q.val fun x => { x with error := true }
    interrupt (post d 0x0062 2 srcUcie (natLe 1 q.val)) (dget d 0x2100 6)
  else
    let d := modHQ d q.val fun x => { x with sqTail := tail, cqHead := head }
    fetchQueue 260 (applyDoorbells d.host.doorbells.length d) q

def execQdoorbell (m : HostMsg) (s : State) : Host.Outcome State Fault Refusal :=
  run s fun d => recvHost d 0x20 m fun d => qdoorbell d m

/-- A queue that is disabled loses its entries' records: what was accepted runs on and reports nowhere (log entry 41, DESIGN CHOICE). -/
def orphanQueue (d : Dev) (q : HQueue) : Dev :=
  modHost d fun h => { h with
    entries := h.entries.map fun e => match e.org with | .host p _ => if p = q then { e with org := .thread ⟨0, by omega⟩ 0 none } else e | _ => e
    reads := h.reads.map fun e => (e.1, e.2.map fun r => match r.what with
      | .sq p _ _ => if p = q then { r with what := .tier 0 0 0 } else r
      | _ => r) }

/-- Q_ENABLE (R330, R332, R417): before READY an enable is refused. -/
def qEnable (d : Dev) (q : HQueue) (v : Bool) : Dev :=
  if v then
    if d.power.devState ≠ 1 ∨ queueOn d q.val then d
    else
      let d := dset (modHQ d q.val fun _ => {}) 0x2105 (q.val + 1) 1
      applyDoorbells d.host.doorbells.length d
  else dset (orphanQueue d q) 0x2105 (q.val + 1) 0

def execQEnable (q : HQueue) (v : Bool) (s : State) : Host.Outcome State Fault Refusal :=
  run s fun d => if d.power.pwrGood && d.power.resetN then qEnable d q v else d

/-- INTERRUPT_INTERVAL_EXPIRY (R334): the interval of a vector ends, and an INTERRUPT held back by it is sent. -/
def intervalExpiry (d : Dev) (v : Nat) : Dev :=
  if !fget false d.host.irqOpen v then d
  else
    let due := fget false d.host.irqDue v
    let d := modHost d fun h => { h with irqOpen := fput false h.irqOpen v false, irqDue := fput false h.irqDue v false }
    if due then interrupt d v else d

def execInterruptIntervalExpiry (v : W16) (s : State) : Host.Outcome State Fault Refusal :=
  run s fun d => intervalExpiry d v.toNat

/-! ### Link-up, retrain and loss (R322, R325, R337) -/

/-- The link-up sequence begins at SBINIT. -/
def beginLinkup (d : Dev) : Dev := modHost d fun h => { h with linkPhase := 1, failedSeqs := 0, up := false }

/-- LINKUP_PHASE_TIMEOUT: the sequence starts again; the third failure leaves the link down. -/
def linkupTimeout (d : Dev) (mods : Nat) : Dev :=
  if d.host.linkPhase ≠ 1 then d
  else
    let d := dropModules d 15 mods
    let n := d.host.failedSeqs + 1
    if n < 3 then modHost d fun h => { h with failedSeqs := n }
    else
      let d := modHost d fun h => { h with failedSeqs := n, linkPhase := 0 }
      noteOffline (post d 0x0061 2 srcUcie (natLe 1 n))

def execLinkupPhaseTimeout (mods : BitVec 4) (s : State) : Host.Outcome State Fault Refusal :=
  run s fun d => linkupTimeout d mods.toNat

/-- Messages that a retrain sends again: all but those of the link itself. -/
def carries (m : HostOut) : Bool := match m with | .nop | .nak | .hello _ _ => false | _ => true

/-- The link comes up: the device's HELLO with its serial and layer revision 1, 512 credits, then what waits, with SEQ from 0 in both
directions (R322, R323, R325, R326, R337). -/
def linkUp (d : Dev) (m : HostMsg) (mods : Nat) : Dev :=
  let d := dropModules d (if d.host.linkPhase = 1 then 15 else dget d 0x2100 2) mods
  let d := dset (dset d 0x2100 2 mods) 0x2100 3 (m.arg.toNat % 65536)
  let d := modHost d fun h => { h with
    linkPhase := 0
    up := true
    rxSeq := 0
    txSeq := 0
    discarding := false
    credit := 513
    owed := 0
    waiting := ((h.replay.map fun e => e.2.2.2) ++ h.waiting).filter carries
    replay := [] }
  let d := modHost (putHost d (.hello Config.serial.toNat 1)) fun h => { h with txSeq := 0, replay := [] }
  fetchAll (pumpAll (noteOnline d))

/-- A host die that asks for a feature marked "not used" is refused, and the link stays down (R320). -/
def refuseHost (d : Dev) : Dev := noteOffline (modHost (dset d 0x2100 2 0) fun h => { h with linkPhase := 0 })

/-- HELLO: it completes link-up, or a retrain, on the modules it came over. `asks` are the features of Table 14-1 marked "not used"
that the host die asked for in the training before it. (Log entry 72, DESIGN CHOICE.) -/
def helloArrived (d : Dev) (m : HostMsg) (mods : Nat) (asks : List UcieFeature) : Dev :=
  if d.host.up then recvHost d 0x40 m id
  else if d.host.linkPhase ≠ 1 ∧ d.host.linkPhase ≠ 3 then d
  else if !asks.isEmpty then refuseHost d
  else if msgWhole m ∧ msgTaken 0x40 m ∧ m.seq = 0 ∧ modulesIn mods ≥ 2 then linkUp (ucieCtr d 1 1) m mods
  else discardMsg d

def execHello (m : HostMsg) (via : HelloVia) (s : State) : Host.Outcome State Fault Refusal :=
  run s fun d => helloArrived d m via.mods.toNat via.asks

/-- PHYRETRAIN: a message has been resent 8 times without acknowledgement; the mainband is not up until the retrain has ended. -/
def phyretrain (d : Dev) : Dev :=
  if !d.host.up ∨ !(d.host.replay.any fun e => decide (e.2.1 ≥ 8)) then d
  else modMem (modHost (dbump d 0x2100 5 1 32) fun h => { h with up := false, linkPhase := 2, discarding := false }) fun m => { m with hostDown := d.tc }

def execPhyretrain (s : State) : Host.Outcome State Fault Refusal := run s phyretrain

/-- PHYRETRAIN_COMPLETE: the new HELLO follows, or the link is down. -/
def phyretrainComplete (d : Dev) (ok : Bool) (mods : Nat) : Dev :=
  if d.host.linkPhase ≠ 2 ∧ (d.host.linkPhase ≠ 3 ∨ ok) then d
  else if ok ∧ modulesIn mods ≥ 2 then
    modHost (dset (dropModules d (dget d 0x2100 2) mods) 0x2100 2 mods) fun h => { h with linkPhase := 3 }
  else modHost (dset d 0x2100 2 0) fun h => { h with linkPhase := 0 }

def execPhyretrainComplete (ok : Bool) (mods : BitVec 4) (s : State) : Host.Outcome State Fault Refusal :=
  run s fun d => phyretrainComplete d ok mods.toNat

end Sys2Proof.Machine
end

