-- ==== Sys2Proof/Machine/Counters.lean ====
section
/-!
DEFINITION. Performance counters and their images (R379-R387). How far a counter of cycles or of ns has counted is free (log entry 27,
DESIGN CHOICE).
-/
namespace Sys2Proof.Machine

/-! ### Selections (R382) -/

/-- Whether an event code of Table 17-2 is permitted for a kind of tile. -/
def selOk (curv : Bool) (code : Nat) : Bool :=
  if curv then decide (code ≤ 0x07) || code == 0x0B || code == 0x0D || (decide (0x0F ≤ code) && decide (code ≤ 0x11))
    || (decide (0x20 ≤ code) && decide (code ≤ 0x25))
  else decide (code ≤ 0x11)

/-- The counter of every tile of the kind is zeroed and counts the new event from now on. -/
def applySelect (d : Dev) (x : Bool × Nat × Nat) : Dev :=
  let (lo, hi) := if x.1 then (132, 140) else (0, 132)
  let d := modCount (tally d) fun c => { c with ctrs := c.ctrs.filter fun e =>
    !(decide (lo ≤ e.1 / 16) && decide (e.1 / 16 < hi) && e.1 % 16 == x.2.1) }
  let d := dset d (if x.1 then 0x4011 else 0x4010) (x.2.1 + 1) x.2.2
  dbump d 0x4012 1 1 32

/-- TILE_EVENT_SELECT: at once, or after the image in progress has been read out. -/
def eventSelect (d : Dev) (curv : Bool) (ctr code : Nat) : Dev :=
  if !selOk curv code then d
  else if d.count.busy.isSome then modCount d fun c => { c with selPending := c.selPending ++ [(curv, ctr, code)] }
  else applySelect d (curv, ctr, code)

/-- The selection as written, in effect or waiting. -/
def selectionOf (d : Dev) (curv : Bool) (ctr : Nat) : Nat :=
  match d.count.selPending.reverse.find? fun x => x.1 == curv && x.2.1 == ctr with
  | some x => x.2.2
  | none => dget d (if curv then 0x4011 else 0x4010) (ctr + 1)

/-- The device runs: powered and out of reset. -/
def powered (d : Dev) : Bool := d.power.pwrGood && d.power.resetN

def execTileEventSelect (curv : Bool) (ctr : Fin 8) (code : Byte) (s : State) : Host.Outcome State Fault Refusal :=
  run s fun d => if powered d then eventSelect d curv ctr.val code.toNat else d

/-! ### What an image holds (R381, R383) -/

/-- Map byte of physical tile `i` of a die. -/
def mapByte (d : Dev) (die i : Nat) : Nat :=
  let slot := slotOfPhys die i
  if fget none d.safety.retired die == some i then 0xFC
  else if slot = 65 then 0xFD
  else match fget none d.safety.spareFor die with
    | some n => if slot = 64 then n else if slot = n then 0xFE else slot
    | none => if slot = 64 then 0xFE else slot

/-- The blocks of an image in slot order (Table 17-5), with their numbers of counters. -/
def imageBlocks : List (Nat × Nat) :=
  ((List.range 132).map fun i => (i / 66 * 66 + slotOfPhys (i / 66) (i % 66), 8)) ++ ((List.range 8).map fun i => (132 + i, 8))
    ++ ((List.range 34).map fun i => (140 + i, 4)) ++ ((List.range 24).map fun i => (174 + i, 8)) ++ [(198, 8), (199, 16)]

/-- The blocks that hold their counts. -/
def heldBlocks (d : Dev) : List Nat := (List.range 140).filter (blockHeld d)

/-- The map of the 132 physical compute tiles. -/
def mapBytes (d : Dev) : List Nat := (List.range 132).map fun i => mapByte d (i / 66) (i % 66)

/-- HELD of a block: as it was at the freeze of a snapshot; in a dump as it was when the block was read, which is free where it has
changed since the dump began (R383, R385). -/
def heldBit (d : Dev) (mode blk : Nat) : Nat × Dev :=
  let was := d.count.heldAt.contains blk
  if mode = 0 || was == blockHeld d blk then (b2n was, d)
  else
    let (x, d) := freeNat d
    (x % 2, d)

/-- A counter slot: a snapshot holds the value at the freeze; a dump a value that the counter had between its start and its
end (R384, R385). -/
def ctrSlot (d : Dev) (mode blk ctr : Nat) : Nat × Dev :=
  let (h, d) := heldBit d mode blk
  let a := fget {} d.count.shot (blk * 16 + ctr)
  if mode = 0 then (a.v + 2 ^ 48 * b2n a.wrap + 2 ^ 49 * h, d)
  else
    let b := fget {} d.count.ctrs (blk * 16 + ctr)
    let (x, d) := freeNat d
    let v := (a.v + x % ((b.v + 2 ^ 48 - a.v) % 2 ^ 48 + 1)) % 2 ^ 48
    (v + 2 ^ 48 * b2n (a.wrap || decide (v < a.v)) + 2 ^ 49 * h, d)

/-- The bytes of the blocks' counters. -/
def ctrBytes (d : Dev) (mode : Nat) : List Byte × Dev :=
  imageBlocks.foldl (fun (acc : List Byte × Dev) blk =>
    (List.range blk.2).foldl (fun (acc : List Byte × Dev) i =>
      let (v, d) := ctrSlot acc.2 mode blk.1 i
      (acc.1 ++ natLe 8 v, d)) acc) ([], d)

/-- The header of an image (Table 17-4) with its CRC field zero; MCLK counts are free. -/
def imageHeader (d : Dev) (mode trig mclk0 mclk1 : Nat) : List Byte :=
  natLe 4 0x434E5452 ++ natLe 1 1 ++ natLe 1 mode ++ natLe 1 9 ++ natLe 1 trig ++ natLe 8 d.count.seq ++ natLe 8 mclk0 ++ natLe 8 mclk1
    ++ natLe 4 d.count.startOps ++ natLe 4 d.log.cycles ++ natLe 4 d.count.startSel ++ natLe 2 200 ++ zbytes 2 ++ natLe 4 12032
    ++ natLe 4 d.count.lost ++ zbytes 8

/-- The image: header with CRC, map, counters. -/
def imageOf (d : Dev) (mode trig : Nat) : List Byte × Dev :=
  let (m0, d) := freeNat d
  let (m1, d) := freeNat d
  let (cs, d) := ctrBytes d mode
  let h := imageHeader d mode trig m0 m1
  let body := (d.count.mapAt.map fun m => BitVec.ofNat 8 m) ++ zbytes 60 ++ cs
  (h.take 60 ++ natLe 4 (crc32c (h ++ body)).toNat ++ body, d)

/-! ### Images (R386, R387) -/

/-- An image begins: the freeze of a snapshot, the first read of a dump. -/
def startImage (d : Dev) (mode trig : Nat) : Dev :=
  modCount (tally d) fun c => { c with
    busy := some (mode, trig)
    startOps := opSeconds d
    startSel := dget d 0x4012 1
    shot := c.ctrs
    heldAt := heldBlocks d
    mapAt := mapBytes d }

/-- A request while an image is in progress is refused, and recovery serves none (R364). -/
def requestImage (d : Dev) (mode : Nat) : Dev := if d.count.busy.isSome || d.sec.recovery then d else startImage d mode 1

def execImageRequestSnapshot (s : State) : Host.Outcome State Fault Refusal :=
  run s fun d => if powered d then requestImage d 0 else d

def execImageRequestDump (s : State) : Host.Outcome State Fault Refusal :=
  run s fun d => if powered d then requestImage d 1 else d

/-- IMAGE_PERIOD_TICK: a tick while an image is in progress is skipped. -/
def periodTick (d : Dev) : Dev :=
  if dget d 0x4002 1 = 0 then d
  else if d.count.busy.isSome then dieLCtr (dbump d 0x4000 3 1 32) 14 1
  else startImage d (dget d 0x4002 2) 0

def execImagePeriodTick (s : State) : Host.Outcome State Fault Refusal :=
  run s fun d => if powered d then periodTick d else d

/-- Whether image `n` cannot be written to the destination. (Log entry 76, DESIGN CHOICE.) -/
def imageLost (d : Dev) (id off : Nat) : Bool :=
  match getAlloc d id with
  | none => true
  | some a => (checkAllocWrite d id off 12032).1 != 0 || a.invalid || (allocPoisonAt d id off 12032).isSome
      || decide (off + 12032 > a.size) || (tierOf a == 2 && d.mem.offlineNoted)

/-- The end of an image: it goes to its destination, its header last (R387), unless the tier has timed out (`late`), and to the window; then
waiting selections take effect. -/
def imageEnd (d : Dev) (late : Bool) : Dev :=
  match d.count.busy with
  | none => d
  | some (mode, trig) =>
    let d := modCount (if mode = 0 then d else tally d) fun c => { c with seq := c.seq + 1 }
    let id := dget d 0x4003 1
    let off := 12288 * (d.count.seq % dget d 0x4003 2)
    let lost := id != 0 && (late || imageLost d id off)
    let d := if lost then modCount (dbump d 0x4000 4 1 32) fun c => { c with lost := (c.lost + 1) % 2 ^ 32 } else d
    let (img, d) := imageOf d mode trig
    let d := if id != 0 && !lost then putRow (putRow d id (off + 64) (img.drop 64)) id off (img.take 64) else d
    let d := if dget d 0x4004 1 = 1 then d else modCount d fun c => { c with window := img, windowSeq := c.seq }
    let d := dieLCtr d 13 1
    let waiting := d.count.selPending
    waiting.foldl applySelect (modCount d fun c => { c with busy := none, shot := [], heldAt := [], mapAt := [], selPending := [] })

/-- IMAGE_COMPLETE: the write to a HOST destination waits for the UCIe link (R337). -/
def imageComplete (d : Dev) : Dev := if dget d 0x4003 1 ≠ 0 ∧ anyWaits d [dget d 0x4003 1] then d else imageEnd d false

/-- A unit of the image's write passes its deadline (R206, R387): the image is lost for the destination. -/
def imageDeadline (d : Dev) : Dev :=
  if d.count.busy.isSome && anyLower d [dget d 0x4003 1] then
    imageEnd (lateCode d (anyTier d [dget d 0x4003 1] 2)).2 true
  else d

def execImageComplete (s : State) : Host.Outcome State Fault Refusal :=
  run s fun d => if powered d then imageComplete d else d

end Sys2Proof.Machine
end

