-- ==== Sys2Proof/Machine/Grinder.lean ====
section
/-!
DEFINITION. Curvature statistics (chapter 6): taps and the tap pool, streams, sweeps, Grinder programs, and the
assembly of tree systems. A Grinder command runs the current instruction of the tile's program when it carries that
opcode; GRINDER_END also ends a program whose next instruction no opcode names (log entry 20, DESIGN CHOICE).
-/
namespace Sys2Proof.Machine

def getStream (d : Dev) (c st : Nat) : Stream := fget {} (getCurv d c).streams st
def modStream (d : Dev) (c st : Nat) (f : Stream → Stream) : Dev :=
  modCurv d c fun k => { k with streams := fmod {} k.streams st f }

/-- Allocation and offset of the S, F and D images (k = 0, 1, 2). -/
def strImg (w : List W32) (k : Nat) : Nat × Nat := (wordAt w (3 + 2 * k), wordAt w (4 + 2 * k))

/-! ### Programs (R126-R128) -/

/-- Ends the running Grinder program (R128) and starts the next. -/
def endGrind (d : Dev) (c code alloc off : Nat) : Dev :=
  match (getCurv d c).grind with
  | none => d
  | some p =>
    let d := leaveVec (modCurv d c fun k => grindNext { k with grind := none }) (tileOfNat (128 + c)) .grinder
    endLaunch d p.launch code p.status p.idx alloc 0 off

/-- The next instruction. -/
def advGrind (d : Dev) (c status : Nat) : Dev :=
  modCurv d c fun k => { k with grind := k.grind.map fun p => { p with idx := p.idx + 1, status := p.status ||| status, scPending := none } }

/-- The name of a scratchpad line that is poisoned: the code, the allocation and the place in it. -/
def poisonedAt (d : Dev) (t : TileId) (l : Nat) : Nat × Nat × Nat :=
  (0x11, match allocAtScratch d t l with | some (i, k) => (i, l - k.spAddr) | none => (0, l))

/-- Fetches the current instruction of a Grinder program: its word, or the code and place at which the program ends. -/
def fetchProg (d : Dev) (t : TileId) (p : Prog) : Nat ⊕ (Nat × Nat × Nat) :=
  let a := p.addr + 8 * p.idx
  if !inScratch t a 8 || hitsPool d t a 8 then .inr (4, 0, 0)
  else match spPoisonAt d t a 8 with
  | some l => .inr (poisonedAt d t l)
  | none => .inl (leNat (spRead d t a 8))

/-- The current instruction of a Grinder program: one that waits for the vector engine queue, or in it, has been decoded, and its word is
the one decoded (R126); else it is fetched. -/
def progWord (d : Dev) (t : TileId) (p : Prog) : Nat ⊕ (Nat × Nat × Nat) :=
  match (getQueue d t 1).find? fun e => e.org == .grinder with
  | some e => .inl (dword e.words 1)
  | none => match p.decoded with
    | some (i, w) => if i = p.idx then .inl w else fetchProg d t p
    | none => fetchProg d t p

def grindOps : List Nat := [1, 2, 3, 4, 5, 6, 8, 0x10, 0x11, 0x1F]

/-- Reserved bits of a Grinder instruction, N_SRC outside EMA, and ADDR where Table 6-4 has zero. -/
def grindReserved (w : Nat) : Bool :=
  let op := w % 256
  bitf w 20 12 != 0 || bitf w 55 9 != 0 || (op != 3 && bitAt w 19)
    || (!(op == 1 || op == 8 || (op == 3 && bitAt w 19)) && bitf w 32 23 != 0)

/-- The allocations whose bytes instruction `w` of the tile's Grinder reads or writes (Table 6-4). -/
def grindNames (d : Dev) (c w : Nat) : List Nat :=
  let sw := (getStream d c (bitf w 8 5)).words
  let at_ := toWords 16 (spRead d (ctileNat c) (bitf w 32 23) 64)
  let op := w % 256
  if op = 1 then [(strImg at_ 0).1]
  else if op = 3 then [(strImg sw 0).1, (strImg sw 1).1]
  else if op = 4 then [(strImg sw 1).1, (strImg sw 2).1]
  else if op = 6 then [(strImg sw 1).1]
  else if op = 8 then [wordAt at_ 3, wordAt at_ 5, wordAt at_ 7]
  else []

/-- The allocations of the current instruction of a Grinder program. -/
def grindAllocs (d : Dev) (c : Nat) (p : Prog) : List Nat :=
  match progWord d (ctileNat c) p with | .inl w => grindNames d c w | .inr _ => []

/-- Runs `f stream addr word` when the current instruction carries `op`, once no request of it waits for the UCIe link (R337); a refused
instruction ends the program, where several causes hold with the one of log entry 157 (DESIGN CHOICE). -/
def grindCmd (d : Dev) (c op : Nat) (f : Nat → Nat → Nat → Dev) : Dev :=
  let k := getCurv d c
  match k.grind with
  | none => d
  | some p =>
    if p.waiting || p.scPending.isSome || k.testing then d
    else match progWord d (tileOfNat (128 + c)) p with
    | .inr _ => d
    | .inl w =>
      if w % 256 ≠ op then d
      else
        let code := firstCode [(1, grindReserved w), (5, decide (bitf w 13 6 ≥ 48))]
        if code ≠ 0 then endGrind d c code 0 0
        else if anyWaits d (grindAllocs d c p) then d
        else f (bitf w 8 5) (bitf w 32 23) w

/-- The instruction that waits for the vector engine stays the one decoded, whether or not an entry of its queue is free (R126). -/
def keepDecoded (d : Dev) (c w : Nat) : Dev :=
  modCurv d c fun k => { k with grind := k.grind.map fun p => { p with decoded := some (p.idx, w) } }

/-- The Grinder's vector work `f` of instruction `w` passes the tile's vector engine queue (R78, R129). (Log entry 105, DEDUCED.) -/
def grindVec (d : Dev) (c w : Nat) (f : Dev → Dev) : Dev :=
  let t := tileOfNat (128 + c)
  passVec (if vecFree d t .grinder then d else keepDecoded d c w) t .grinder w f

/-- Ends the program with the code of a use of memory. -/
def endUse (d : Dev) (c : Nat) (u : Nat × Nat × Nat) : Dev := endGrind d c u.1 u.2.1 u.2.2

/-! ### Stream descriptors (R114, R115) -/

def strDim (w : List W32) : Nat := dfield w 0 0 18
def strNblk (w : List W32) : Nat := dfield w 0 18 6 + 1
def strSample (w : List W32) : Nat := dfield w 0 24 3
def strMin (w : List W32) : Nat := dfield w 12 0 16

/-- Whether `n` bytes of an allocation lie in a bound tap pool (R111). -/
def allocInPool (d : Dev) (id off n : Nat) : Bool :=
  match getAlloc d id with
  | some a => tierOf a == 0 && hitsPool d (tileOfNat a.spTile) (a.spAddr + off) n
  | none => false

/-- Whether an allocation holds all images of a stream from the offset, none of them in a bound tap pool (R111, R121). -/
def imgsFit (d : Dev) (x : Nat × Nat) (s : List Nat) : Bool :=
  match getAlloc d x.1 with
  | some a => decide (x.2 + imgsBytes 8 s ≤ a.size) && !allocInPool d x.1 x.2 (imgsBytes 8 s)
  | none => false

/-- The first fault of reading, or of writing, all images of a stream. -/
def imgsRead (d : Dev) (x : Nat × Nat) (s : List Nat) : Nat × Nat × Nat := rangeRead d x.1 x.2 (imgsBytes 8 s)
def imgsWrite (d : Dev) (x : Nat × Nat) (s : List Nat) : Nat × Nat × Nat := rangeWrite d x.1 x.2 (imgsBytes 8 s)

/-- Checks of a stream descriptor and its map: a code, 0 when they hold. (Log entry 47, DESIGN CHOICE.) -/
def checkStream (d : Dev) (t : TileId) (w map : List W32) : Nat :=
  let n := strNblk w
  let ma := dfield w 2 0 23
  let s := mapSizes map
  let fin := fun (i : Nat) => isFin32 (w.getD i 0)
  firstCode [
    (1, anySet w [(0, 27, 5), (2, 23, 9), (11, 1, 31), (12, 16, 16), (13, 0, 32), (14, 0, 32), (15, 0, 32)] || mapReserved map),
    (3, strDim w == 0 || strMin w == 0 || !mapOk (strDim w) s
      || !(fin 1 && flt 0 (w.getD 1 0)) || !(fle 0 (w.getD 9 0) && flt (w.getD 9 0) one32) || !(fin 10 && fle 0 (w.getD 10 0))),
    (4, ma % 4 != 0 || !inScratch t ma (4 * n) || hitsPool d t ma (4 * n)
      || wordAt w 4 % 64 != 0 || wordAt w 6 % 64 != 0 || wordAt w 8 % 64 != 0 || !imgsFit d (strImg w 0) s)]

/-- SOPEN (R114, R126): the descriptor is read once; all S images are zeroed; n ← 0. The pool range counts while a stream is bound
already: images, a map or a descriptor of the first stream that lie there are accepted, and its SCLOSE is then refused 0x04 (R111; log
entry 130, DESIGN CHOICE). Of several causes 0x18 comes first, 0x1A last (log entry 157, DESIGN CHOICE). -/
def sopen (d : Dev) (c st a : Nat) : Dev :=
  let t := tileOfNat (128 + c)
  let x := getStream d c st
  if x.st ≠ .unbound ∧ x.st ≠ .closed then endGrind d c 0x18 0 0
  else if a % 64 ≠ 0 ∨ !inScratch t a 64 ∨ hitsPool d t a 64 then endGrind d c 4 0 0
  else match spPoisonAt d t a 64 with
  | some l => endUse d c (poisonedAt d t l)
  | none =>
    let w := toWords 16 (spRead d t a 64)
    let ma := dfield w 2 0 23
    let map := toWords (strNblk w) (spRead d t ma (4 * strNblk w))
    let code := checkStream d t w map
    let s := mapSizes map
    if code ≠ 0 then endGrind d c code 0 0
    else match spPoisonAt d t ma (4 * strNblk w) with
    | some l => endUse d c (poisonedAt d t l)
    | none =>
      let u := imgsWrite d (strImg w 0) s
      if u.1 ≠ 0 then endUse d c u
      else
        let d := allocWriteOther d (strImg w 0).1 (strImg w 0).2 (zbytes (imgsBytes 8 s))
        advGrind (modStream d c st fun _ => { st := .open_, words := w, sizes := s }) c 0

def execSopen (c : CTile) (s : State) : Host.Outcome State Fault Refusal :=
  run s fun d => if alive d then grindCmd d c.val 1 (fun st a _ => sopen d c.val st a) else d

/-! ### Taps and the pool (R110-R113, R116, R117, R120) -/

/-- Staged bytes of a row: elements in the stored format and MX scales. -/
def stagedRow (x : Tap) : Nat := rowBytes x.fmt x.l + (if isMx x.fmt then cdiv x.l 32 else 0)

/-- Whether the stream keeps row `i` of its `q`-th operation. -/
def keepsRow (s : Stream) (q i : Nat) : Bool := (i / 16 + q) % 2 ^ strSample s.words == 0

/-- Bytes that rows `[r, m)` of an operation stage. -/
def stagedBytes (s : Stream) (q : Nat) (x : Tap) (r : Nat) : Nat :=
  ((List.range x.m).filter fun i => decide (r ≤ i) && keepsRow s q i).length * stagedRow x

/-- The next open record that has not arrived arrives (R112): its rows are discarded where its stream is not OPEN or its shape is
not the stream's; otherwise it waits to be admitted. Records arrive in the order in which their operations started (log entry 158, DESIGN
CHOICE). -/
def recArrives (d : Dev) (c : Nat) : Dev :=
  match (getCurv d c).openRecs.find? fun x => !x.arrived with
  | none => d
  | some x =>
    let s := getStream d c x.stream
    let drop := fun (d : Dev) => tileEv (modCurv d c fun k => { k with openRecs := dropFirst (fun x => !x.arrived) k.openRecs }) (ctileNat c) 0x21 x.m
    if s.st ≠ .open_ then drop d
    else if x.l ≠ strDim s.words ∨ x.fmt > 7 then drop (modStream d c x.stream fun s => { s with disc := s.disc + 1 })
    else modCurv d c fun k => { k with openRecs := updFirst (fun x => !x.arrived) (fun x => { x with arrived := true }) k.openRecs }

/-- The oldest record that waits is admitted if the filling half has space for its rows (R111). -/
def admitRec (d : Dev) (c : Nat) : Dev :=
  let k := getCurv d c
  match k.openRecs with
  | [] => d
  | x :: rest =>
    let s := getStream d c x.stream
    let n := stagedBytes s s.q x 0
    if !x.arrived ∨ k.fillBytes + n > 0x200000 then d
    else
      let d := modStream d c x.stream fun s => { s with q := s.q + 1 }
      modCurv d c fun k => { k with openRecs := rest, fillBytes := k.fillBytes + n, adm := k.adm ++ [⟨x, s.q, 0, true, []⟩] }

/-- TAP_OPEN_RECORD (R110-R113): a record arrives, and the oldest that waits is admitted when it fits; records for a tile under
test are held back. A record that arrived while its stream was OPEN is admitted though the stream is CLOSING (log entry 106,
DEDUCED). -/
def tapOpenRecord (d : Dev) (c : Nat) : Dev := if (getCurv d c).testing then d else admitRec (recArrives d c) c

def execTapOpenRecord (c : CTile) (s : State) : Host.Outcome State Fault Refusal :=
  run s fun d => if alive d then tapOpenRecord d c.val else d

/-- A row after R116: each widened element times INPUT_SCALE. -/
def scaledRow (s : Stream) (r : List W32) : List W32 := r.map fun x => fmul x (s.words.getD 1 0)

/-- The scratchpad address of the next staged row in the half that fills (R111; log entry 131, DESIGN CHOICE). -/
def poolAddr (k : CurvSt) : Nat := 0x400000 + (if k.half then 0x200000 else 0) + k.fillPos

/-- Stages a row of stream `st` in the half that fills, in the stored format with its MX scales (R111). -/
def stageTap (d : Dev) (c st : Nat) (b : List Byte) : Dev :=
  modCurv (spWrite d (ctileNat c) (poolAddr (getCurv d c)) b) c fun k => { k with
    fillPos := k.fillPos + b.length
    fillAt := k.fillAt ++ [(st, poolAddr k, b.length)] }

/-- TAP_ROW (R117): the next row of the oldest admitted operation; the bytes of a kept row are staged in the pool, and its group counts
as staged when its last row has come, padded with zero rows. -/
def tapRow (d : Dev) (c : Nat) : Dev :=
  match (getCurv d c).adm with
  | [] => d
  | x :: rest =>
    let s := getStream d c x.tap.stream
    match x.tap.rows with
    | [] => modCurv d c fun k => { k with adm := rest }
    | r :: rs =>
      let keep := keepsRow s x.q x.row
      let part := if keep then x.part ++ [scaledRow s r] else []
      let full := x.row % 16 == 15 || rs.isEmpty
      let pad := List.replicate (16 - part.length) (List.replicate x.tap.l (0 : W32))
      let d := if keep then tileEv (modStream (stageTap d c x.tap.stream (x.tap.bytes.headD [])) c x.tap.stream fun s => { s with n := s.n + 1 }) (ctileNat c) 0x20 1
        else d
      modCurv d c fun k => { k with
        fill := if full && keep then k.fill ++ [⟨x.tap.stream, part ++ pad⟩] else k.fill
        adm := if rs.isEmpty then rest
          else { x with tap := { x.tap with rows := rs, bytes := x.tap.bytes.tail }, row := x.row + 1, part := if full then [] else part } :: rest }

def execTapRow (c : CTile) (s : State) : Host.Outcome State Fault Refusal :=
  run s fun d => if alive d && !(getCurv d c.val).testing then tapRow d c.val else d

/-- Groups of a stream in a half. -/
def groupsOf (st : Nat) (l : List Group) : List Group := l.filter fun g => g.stream == st

/-- Whether the halves may swap (R120). -/
def maySwap (d : Dev) (c : Nat) : Bool :=
  let k := getCurv d c
  k.sweep.isEmpty && ((List.range 32).any (fun st =>
      let s := getStream d c st
      let n := (groupsOf st k.fill).length
      (decide (n > 0) && (decide (n ≥ strMin s.words) || s.st == .closing)))
    || (match k.openRecs with
        | x :: _ => x.arrived && (let s := getStream d c x.stream; decide (k.fillBytes + stagedBytes s s.q x 0 > 0x200000))
        | [] => false))

/-- POOL_HALF_SWAP (R120): the filled half is swept; the new half holds the space of the rows still to come. -/
def poolHalfSwap (d : Dev) (c : Nat) : Dev :=
  if !maySwap d c then d
  else modCurv d c fun k => { k with
    sweep := k.fill, fill := [], half := !k.half, fillPos := 0, sweepAt := k.fillAt, fillAt := []
    fillBytes := k.adm.foldl (fun n x => n + stagedBytes (getStream d c x.tap.stream) x.q x.tap x.row) 0 }

def execPoolHalfSwap (c : CTile) (s : State) : Host.Outcome State Fault Refusal :=
  run s fun d => if alive d && !(getCurv d c.val).testing then poolHalfSwap d c.val else d

/-! ### Sweeps (R118, R130) -/

/-- Adds one group to a block's step sums: each element's lane sum of 16 products, rounded once, then one addition. -/
def addGroup (o b : Nat) (m : List (List W32)) (g : Group) : List (List W32) :=
  let cs := (List.range b).map fun j => g.rows.map fun r => x32 (r.getD (o + j) 0)
  List.zipWith (fun cj row => List.zipWith (fun ck s => fadd s (rne32 (xsum (List.zipWith xmul cj ck)))) cs row) cs m

/-- The flags of a block image's header with bit `i` set. -/
def setImgFlag (d : Dev) (id off i : Nat) : Dev :=
  allocWriteOther d id (off + 0x18) (natLe 4 (recf (allocRead d id off 64) 0x18 4 ||| 2 ^ i))

/-- A lane fault meets tile `i` of block `j`, as one that the residue check finds or, with `found` false, as one that escapes it (R297). -/
def laneOn (bad : List (Nat × Nat × LaneFault)) (found : Bool) (j i : Nat) : Bool :=
  bad.any fun e => e.1 == j && e.2.1 == i && faultFound e.2.2 == found

/-- The tiles of a block image that a lane fault has reached unfound hold free values (log entry 116, DESIGN CHOICE). -/
def blurTiles (d : Dev) (id off b : Nat) (hit : Nat → Bool) : Dev :=
  ((List.range (triTiles b)).filter hit).foldl (fun d i => allocUndefine d id (off + 64 + i * triTileBytes 8) (triTileBytes 8)) d

/-- The first fault with which the sweeps cannot read and write block `j` of the S images at `x` (R201, R207, R209). -/
def blockUse (d : Dev) (x : Nat × Nat) (sizes : List Nat) (j : Nat) : Nat × Nat × Nat :=
  let v := unfreed d
  let off := x.2 + imgOff 8 sizes j
  firstUse [rangeRead v x.1 off (imgBytes 8 (sizes.getD j 0)), rangeWrite v x.1 off (imgBytes 8 (sizes.getD j 0))]

/-- The sweep of one block: its groups are added; tiles on which a lane fault is found keep their old contents and flag the image. A
block that cannot be read and written is left as it is; SCLOSE reports it. -/
def sweepBlock (d : Dev) (x : Nat × Nat) (sizes : List Nat) (gs : List Group) (bad : List (Nat × Nat × LaneFault)) (j : Nat) : Dev :=
  let b := sizes.getD j 0
  let off := x.2 + imgOff 8 sizes j
  if (blockUse d x sizes j).1 ≠ 0 then d
  else
    let old := readSym d x.1 off 8 b
    let new := gs.foldl (addGroup (firstRow_ sizes j) b) (old.map fun r => r.map (·.1))
    let isBad := fun (r c : Nat) => laneOn bad true j (triIndex (min (r / 64) (c / 64)) (max (r / 64) (c / 64)))
    let m : Mat := (List.range b).map fun r => (List.range b).map fun c =>
      if isBad r c then (old.getD r []).getD c (0, 0) else ((new.getD r []).getD c 0, 0)
    let d := blurTiles (allocWriteOther (countRead d x.1 off (imgBytes 8 b)) x.1 (off + 64) (symBytes 8 b m)) x.1 off b fun i => laneOn bad false j i && !laneOn bad true j i
    if (List.range (triTiles b)).any (laneOn bad true j) then setImgFlag d x.1 off 2 else d
where
  /-- First row of block `j`. -/
  firstRow_ (s : List Nat) (j : Nat) : Nat := (s.take j).foldl (· + ·) 0

/-- A residue failure on a Dot-Product Unit: the event, with the unit and lane that the spec leaves to the device, and the
self-test request. `who` is 0 Grinder, 1 Percolator, 2 preconditioning. -/
def residueEvent (d : Dev) (t : TileId) (who : Nat) : Dev :=
  let (u, d) := freeNat d
  let (l, d) := freeNat d
  checkerFlag (post d 0x0021 2 (tileSource d t (u % 16)) (natLe 1 l ++ natLe 1 who)) t

/-- A poisoned line among the staged rows of the stream that is swept (R209). -/
def sweepPoison (d : Dev) (c st : Nat) : Option Nat :=
  ((getCurv d c).sweepAt.filter fun x => x.1 == st).findSome? fun x => spPoisonAt d (ctileNat c) x.2.1 x.2.2

/-- Blocks whose sums a sweep could not add, with the first code met and its place: SCLOSE reports them (R135). -/
def noteLost (d : Dev) (c st : Nat) (js : List Nat) (u : Nat × Nat × Nat) : Dev :=
  if js.isEmpty then d
  else modStream d c st fun x => { x with
    lost := x.lost ++ js.filter fun j => !x.lost.contains j
    code := if x.code = 0 then u.1 else x.code
    poison := if x.code = 0 then (if u.1 = 0x11 then some u.2 else none) else x.poison }

/-- The sweep of a stream is over: its groups leave the half (R120). -/
def dropSweep (d : Dev) (c st : Nat) : Dev :=
  modCurv d c fun k => { k with sweep := k.sweep.filter fun g => g.stream != st, sweepAt := k.sweepAt.filter fun x => x.1 != st }

/-- SWEEP_END (R118, R120, R130): a stream's staged groups have been added to S; the half is free when all sweeps in it
have ended. `bad` are the lane faults met, by block and tile. With a poisoned line among its rows the sweep adds nothing (R135, R209). -/
def sweepEnd (d : Dev) (c st : Nat) (bad : List (Nat × Nat × LaneFault)) : Dev :=
  let k := getCurv d c
  let gs := groupsOf st k.sweep
  let s := getStream d c st
  if gs.isEmpty || anyWaits d [(strImg s.words 0).1] then d
  else if let some l := sweepPoison d c st then dropSweep (noteLost d c st (List.range s.sizes.length) (poisonedAt d (ctileNat c) l)) c st
  else
    let hit := bad.any fun e => decide (e.1 < s.sizes.length) && decide (e.2.1 < triTiles (s.sizes.getD e.1 0)) && faultFound e.2.2
    let met := ((List.range s.sizes.length).map fun j => (j, blockUse d (strImg s.words 0) s.sizes j)).filter fun e => e.2.1 != 0
    let d := (List.range s.sizes.length).foldl (sweepBlockAt s gs bad) d
    let d := dropSweep (noteLost d c st (met.map (·.1)) ((met.head?.map fun e => e.2).getD (0, 0, 0))) c st
    if hit then residueEvent (modStream d c st fun s => { s with residue := true }) (ctileNat c) 0 else d
where
  sweepBlockAt (s : Stream) (gs : List Group) (bad : List (Nat × Nat × LaneFault)) (d : Dev) (j : Nat) : Dev :=
    sweepBlock d (strImg s.words 0) s.sizes gs bad j

/-- A unit of a sweep is late (R206): block `done` and those after it have not been swept, and the sweep is over. -/
def sweepLate (d : Dev) (c st done code : Nat) : Dev :=
  let s := getStream d c st
  let n := s.sizes.length
  let gs := groupsOf st (getCurv d c).sweep
  let d := (List.range (min done n)).foldl (sweepEnd.sweepBlockAt s gs []) d
  dropSweep (noteLost d c st ((List.range n).drop done) (code, 0, 0)) c st

def execSweepEnd (c : CTile) (st : Fin 32) (bad : List (Nat × Nat × LaneFault)) (s : State) : Host.Outcome State Fault Refusal :=
  run s fun d => if alive d && !(getCurv d c.val).testing then sweepEnd d c.val st.val bad else d

/-! ### SCLOSE, EMA, DAMP, SRELEASE, FZERO (R122-R126) -/

/-- A block image header (Table 6-2). -/
def imgHeader (b kind rows upd flags : Nat) (lam beta : W32) (blk disc : Nat) : List Byte :=
  natLe 4 b ++ natLe 4 kind ++ natLe 8 rows ++ natLe 8 upd ++ natLe 4 flags ++ natLe 4 lam.toNat ++ natLe 4 beta.toNat
    ++ natLe 4 blk ++ natLe 8 disc ++ zbytes 16

/-- INF_SEEN and NAN_SEEN over a matrix. -/
def seenMat (m : Mat) : Nat := m.foldl (fun s r => s ||| seenAll (r.map (·.1))) 0

/-- SCLOSE: the stream goes to CLOSING and the program waits (R122). An allocation that is BUSY, or that a FREE waits for, ends it
(R108, R198); what else keeps S from being read or written is met by the sweeps and the close. -/
def sclose (d : Dev) (c st : Nat) : Dev :=
  let s := getStream d c st
  if s.st ≠ .open_ then endGrind d c 0x18 0 0
  else if !imgsFit d (strImg s.words 0) s.sizes then endGrind d c 4 0 0
  else
    let u := imgsWrite d (strImg s.words 0) s.sizes
    if u.1 = 0x15 ∨ u.1 = 0x40 then endUse d c u
    else modCurv (modStream d c st fun s => { s with st := .closing }) c fun k => { k with grind := k.grind.map fun p => { p with scPending := some st } }

def execSclose (c : CTile) (s : State) : Host.Outcome State Fault Refusal :=
  run s fun d => if alive d then grindCmd d c.val 2 (fun st _ _ => sclose d c.val st) else d

/-- The first fault of S that the sweeps or the close meet (R201, R207, R209): its code, and of a poisoned unit the place. -/
def closeUse (d : Dev) (s : Stream) : Nat × Nat × Nat :=
  if s.code ≠ 0 then (s.code, (s.poison.getD (0, 0)).1, (s.poison.getD (0, 0)).2)
  else firstUse ((List.range s.sizes.length).map (blockUse d (strImg s.words 0) s.sizes))

/-- The same where there is one. -/
def closePoison (d : Dev) (s : Stream) : Option (Nat × Nat × Nat) := if (closeUse d s).1 = 0 then none else some (closeUse d s)

/-- Writes the S header of block `j` at the close; a block that the close or a sweep of it could not read and write is not VALID, and one
that cannot be written keeps its old header. -/
def closeBlock (s : Stream) (x : Dev × Nat) (j : Nat) : Dev × Nat :=
  let (d, st) := x
  let id := (strImg s.words 0).1
  let off := (strImg s.words 0).2 + imgOff 8 s.sizes j
  let b := s.sizes.getD j 0
  let m := readSym d id off 8 b
  let res := bitAt (recf (allocRead d id off 64) 0x18 4) 2
  let use := blockUse d (strImg s.words 0) s.sizes j
  let lost := s.lost.contains j || use.1 != 0
  let flags := b2n (s.disc == 0 && !res && !lost) + 2 * b2n (!matFin m) + 4 * b2n res + 8 * b2n (s.disc != 0)
  if use.1 ≠ 0 ∧ use.1 ≠ 0x11 ∨ (allocPartial d id off 64).isSome then (d, st)
  else (allocWriteOther (countRead d id off (imgBytes 8 b)) id off (imgHeader b 0 s.n 0 flags 0 0 j s.disc), st ||| seenMat m)

/-- SCLOSE_COMPLETE (R122, R112, R130): every admitted row has been delivered and swept; the headers are written, and the
stream is CLOSED. -/
def scloseComplete (d : Dev) (c : Nat) : Dev :=
  let k := getCurv d c
  match k.grind.bind (·.scPending) with
  | none => d
  | some st =>
    let s := getStream d c st
    let busy := k.openRecs.any (fun x => x.arrived && x.stream == st) || k.adm.any (fun x => x.tap.stream == st)
      || (groupsOf st k.fill).length != 0 || (groupsOf st k.sweep).length != 0
    if busy || k.testing || anyWaits d [(strImg s.words 0).1] then d
    else
      let use := closeUse d s
      let (d, seen_) := (List.range s.sizes.length).foldl (closeBlock s) (d, 0)
      let d := modStream d c st fun s => { s with st := .closed }
      let d := modCurv d c fun k => { k with grind := k.grind.map fun p => { p with scPending := none, status := p.status ||| seen_ } }
      let code := firstCode [(use.1, use.1 != 0), (0x19, s.disc != 0), (0x1B, s.residue)]
      if code = 0 then advGrind d c 0 else endGrind d c code use.2.1 use.2.2

def execScloseComplete (c : CTile) (s : State) : Host.Outcome State Fault Refusal :=
  run s fun d => if alive d then scloseComplete d c.val else d

/-- Header field of a block's image. -/
def imgField (d : Dev) (x : Nat × Nat) (s : List Nat) (j o n : Nat) : Nat := recf (allocRead d x.1 (x.2 + imgOff 8 s j) 64) o n

/-- The binary32 nearest to a count. -/
def nHat (d : Dev) (c : Nat) (s : Stream) (a : Nat) (src : Bool) (j : Nat) : W32 :=
  if src then BitVec.ofNat 32 (leNat (spRead d (ctileNat c) a 4)) else f32OfNat (imgField d (strImg s.words 0) s.sizes j 8 8)

/-- The first fault of what EMA reads of F: each header, and the elements where UPDATES is not 0 (R123). -/
def emaReadsF (d : Dev) (x : Nat × Nat) (s : List Nat) : Nat × Nat × Nat :=
  firstUse ((List.range s.length).flatMap fun j =>
    let off := x.2 + imgOff 8 s j
    [rangeRead d x.1 off 64,
      if imgField d x s j 0x10 8 = 0 then (0, 0, 0) else rangeRead d x.1 off (imgBytes 8 (s.getD j 0))])

/-- One F block: f ← fl(fl(β × f) + fl(c × s)) (R123). -/
def emaBlock (c : Nat) (s : Stream) (a : Nat) (src : Bool) (x : Dev × Nat) (j : Nat) : Dev × Nat :=
  let (d, st) := x
  let b := s.sizes.getD j 0
  let si := strImg s.words 0
  let fi := strImg s.words 1
  let upd := imgField d fi s.sizes j 0x10 8
  let beta : W32 := if upd = 0 then 0 else s.words.getD 9 0
  let cc := fdiv (fsub one32 beta) (nHat d c s a src j)
  let sm := readSym d si.1 (si.2 + imgOff 8 s.sizes j) 8 b
  let fm := if upd = 0 then [] else readSym d fi.1 (fi.2 + imgOff 8 s.sizes j) 8 b
  let m : Mat := sm.zipIdx.map fun r => r.1.zipIdx.map fun e =>
    let old := if upd = 0 then 0 else fmul beta ((fm.getD r.2 []).getD e.2 (0, 0)).1
    (fadd old (fmul cc e.1.1), 0)
  let fin := matFin m
  let hd := imgHeader b 1 (imgField d si s.sizes j 8 8) ((upd + 1) % 2 ^ 64) (b2n fin + 2 * b2n (!fin)) 0 beta j 0
  let d := countRead d si.1 (si.2 + imgOff 8 s.sizes j) (imgBytes 8 b)
  let d := countRead d fi.1 (fi.2 + imgOff 8 s.sizes j) (if upd = 0 then 64 else imgBytes 8 b)
  (allocWriteOther d fi.1 (fi.2 + imgOff 8 s.sizes j) (hd ++ symBytes 8 b m), st ||| seenMat m)

/-- The block at which a lane fault is found, and the one that a fault reaches unfound. -/
def laneFound (lane : Option (Nat × LaneFault)) : Option Nat := lane.bind fun l => if faultFound l.2 then some l.1 else none
def laneMissed (lane : Option (Nat × LaneFault)) : Option Nat := lane.bind fun l => if faultFound l.2 then none else some l.1

/-- The image of a block that a lane fault has reached unfound holds free values. -/
def blurBlock (d : Dev) (x : Nat × Nat) (sizes : List Nat) (lane : Option (Nat × LaneFault)) (j : Nat) : Dev :=
  if laneMissed lane = some j then blurTiles d x.1 (x.2 + imgOff 8 sizes j) (sizes.getD j 0) fun _ => true else d

/-- EMA (R123): S is scanned, then every F block is written. `lane` is a lane fault with the block on which it falls. (Log entry 48, DESIGN
CHOICE.) -/
def ema (d : Dev) (c st a : Nat) (src : Bool) (lane : Option (Nat × LaneFault)) : Dev :=
  let s := getStream d c st
  let t := ctileNat c
  let js := List.range s.sizes.length
  let si := strImg s.words 0
  let fi := strImg s.words 1
  if s.st ≠ .closed then endGrind d c 0x18 0 0
  else if (src && (a % 4 != 0 || !inScratch t a 4 || hitsPool d t a 4)) || !imgsFit d si s.sizes || !imgsFit d fi s.sizes then endGrind d c 4 0 0
  else
    let u := firstUse [imgsRead d si s.sizes, emaReadsF d fi s.sizes, imgsWrite d fi s.sizes,
      (match (if src then spPoisonAt d t a 4 else none) with | some l => poisonedAt d t l | none => (0, 0, 0))]
    if u.1 ≠ 0 then endUse d c u
    else
      let code := firstCode [
        (0x1A, js.any fun j => !matFin (readSym d si.1 (si.2 + imgOff 8 s.sizes j) 8 (s.sizes.getD j 0))),
        (0x1C, js.any fun j => !bitAt (imgField d si s.sizes j 0x18 4) 0 || isZero32 (nHat d c s a src j) || !isFin32 (nHat d c s a src j))]
      if code ≠ 0 then endGrind d c code 0 0
      else
        let stop := (laneFound lane).filter fun r => decide (r < s.sizes.length)
        let (d, seen_) := (js.take (stop.getD s.sizes.length)).foldl (fun x j =>
          let y := emaBlock c s a src x j
          (blurBlock y.1 fi s.sizes lane j, y.2)) (d, 0)
        let d := modCurv d c fun k => { k with grind := k.grind.map fun p => { p with status := p.status ||| seen_ } }
        match stop with
        | some _ => endGrind (residueEvent d t 0) c 0x1B 0 0
        | none => advGrind d c 0

def execEma (c : CTile) (lane : Option (Nat × LaneFault)) (s : State) : Host.Outcome State Fault Refusal :=
  run s fun d => if alive d then grindCmd d c.val 3 (fun st a w => grindVec d c.val w fun d => ema d c.val st a (bitAt w 19) lane) else d

/-- λ_eff of a block (R124). -/
def lambdaEff (s : Stream) (b : Nat) (f : Mat) : W32 :=
  let lam := s.words.getD 10 0
  if bitAt (wordAt s.words 11) 0 then
    let tr := f.zipIdx.foldl (fun acc r => fadd acc (r.1.getD r.2 (0, 0)).1) (0 : W32)
    fmul lam (fdiv tr (f32OfNat b))
  else lam

/-- The D blocks in order until a λ_eff is not finite or a residue check fails: device, status bits, code. A D image is VALID where
every element is finite and NONFINITE otherwise (R124; log entry 48, DESIGN CHOICE). -/
def dampBlocks (s : Stream) (lane : Option (Nat × LaneFault)) : List Nat → Dev → Nat → Dev × Nat × Nat
  | [], d, st => (d, st, 0)
  | j :: js, d, st =>
    let b := s.sizes.getD j 0
    let fi := strImg s.words 1
    let di := strImg s.words 2
    let f := readSym d fi.1 (fi.2 + imgOff 8 s.sizes j) 8 b
    let lam := lambdaEff s b f
    if laneFound lane = some j then (d, st, 0x1B)
    else if !isFin32 lam then (d, st, 0x1A)
    else
      let m : Mat := f.zipIdx.map fun r => r.1.zipIdx.map fun e => if e.2 = r.2 then (fadd e.1.1 lam, 0) else e.1
      let h := allocRead d fi.1 (fi.2 + imgOff 8 s.sizes j) 64
      let fin := matFin m
      let hd := imgHeader b 2 (recf h 8 8) (recf h 0x10 8) (b2n fin + 2 * b2n (!fin)) lam (BitVec.ofNat 32 (recf h 0x20 4)) j 0
      dampBlocks s lane js (blurBlock (allocWriteOther (countRead d fi.1 (fi.2 + imgOff 8 s.sizes j) (imgBytes 8 b)) di.1 (di.2 + imgOff 8 s.sizes j) (hd ++ symBytes 8 b m)) di s.sizes lane j) (st ||| seenMat m)

/-- DAMP (R124): D blocks as copies of F with λ_eff added on the diagonal. -/
def damp (d : Dev) (c st : Nat) (lane : Option (Nat × LaneFault)) : Dev :=
  let s := getStream d c st
  let js := List.range s.sizes.length
  let fi := strImg s.words 1
  let di := strImg s.words 2
  if s.st ≠ .closed then endGrind d c 0x18 0 0
  else if !imgsFit d fi s.sizes || !imgsFit d di s.sizes then endGrind d c 4 0 0
  else
    let u := firstUse [imgsRead d fi s.sizes, imgsWrite d di s.sizes]
    if u.1 ≠ 0 then endUse d c u
    else if js.any fun j => !bitAt (imgField d fi s.sizes j 0x18 4) 0 || imgField d fi s.sizes j 0x10 8 == 0 then endGrind d c 0x1C 0 0
    else
      let (d, seen_, code) := dampBlocks s lane js d 0
      let d := modCurv d c fun k => { k with grind := k.grind.map fun p => { p with status := p.status ||| seen_ } }
      if code = 0 then advGrind d c 0
      else endGrind (if code = 0x1B then residueEvent d (ctileNat c) 0 else d) c code 0 0

def execDamp (c : CTile) (lane : Option (Nat × LaneFault)) (s : State) : Host.Outcome State Fault Refusal :=
  run s fun d => if alive d then grindCmd d c.val 4 (fun st _ w => grindVec d c.val w fun d => damp d c.val st lane) else d

/-- SRELEASE: the stream is UNBOUND; the pool is released when no stream remains bound, its bytes then undefined. -/
def srelease (d : Dev) (c st : Nat) : Dev :=
  if (getStream d c st).st ≠ .closed then endGrind d c 0x18 0 0
  else
    let d := modStream d c st fun _ => {}
    let d := if poolBound d (ctileNat c) then d else spUndefine d (ctileNat c) 0x400000 0x400000
    advGrind d c 0

def execSrelease (c : CTile) (s : State) : Host.Outcome State Fault Refusal :=
  run s fun d => if alive d then grindCmd d c.val 5 (fun st _ _ => srelease d c.val st) else d

/-- FZERO: all F images are zeroed. -/
def fzero (d : Dev) (c st : Nat) : Dev :=
  let s := getStream d c st
  let fi := strImg s.words 1
  if s.st ≠ .closed then endGrind d c 0x18 0 0
  else if !imgsFit d fi s.sizes then endGrind d c 4 0 0
  else
    let u := imgsWrite d fi s.sizes
    if u.1 ≠ 0 then endUse d c u
    else advGrind (allocWriteOther d fi.1 fi.2 (zbytes (imgsBytes 8 s.sizes))) c 0

def execFzero (c : CTile) (s : State) : Host.Outcome State Fault Refusal :=
  run s fun d => if alive d then grindCmd d c.val 6 (fun st _ _ => fzero d c.val st) else d

/-! ### WAIT, SIGNAL, END -/

def grinderWait (d : Dev) (c w : Nat) : Dev :=
  match semOfNat (bitf w 13 6) with
  | some sm => joinSem (modCurv d c fun k => { k with grind := k.grind.map fun p => { p with waiting := true } }) (ctileNat c) sm .grinder
  | none => d

def execGrinderWait (c : CTile) (s : State) : Host.Outcome State Fault Refusal :=
  run s fun d => if alive d then grindCmd d c.val 0x10 (fun _ _ w => grinderWait d c.val w) else d

def grinderSignal (d : Dev) (c w : Nat) : Dev :=
  match semOfNat (bitf w 13 6) with
  | some sm => advGrind (makeSig d ⟨ctileNat c, sm, 1, .program, none, some (ctileNat c)⟩) c 0
  | none => d

def execGrinderSignal (c : CTile) (s : State) : Host.Outcome State Fault Refusal :=
  run s fun d => if alive d then grindCmd d c.val 0x11 (fun _ _ w => grinderSignal d c.val w) else d

/-- GRINDER_END (R128): END, or the end of a program whose next instruction cannot be fetched or has no opcode of
Table 6-4. -/
def grinderEnd (d : Dev) (c : Nat) : Dev :=
  let k := getCurv d c
  match k.grind with
  | none => d
  | some p =>
    if p.waiting || p.scPending.isSome || k.testing then d
    else match progWord d (ctileNat c) p with
    | .inr u => endUse d c u
    | .inl w =>
      if w % 256 = 0x1F then endGrind d c (firstCode [(1, grindReserved w), (5, decide (bitf w 13 6 ≥ 48))]) 0 0
      else if grindOps.contains (w % 256) then d
      else endGrind d c 8 0 0

def execGrinderEnd (c : CTile) (s : State) : Host.Outcome State Fault Refusal :=
  run s fun d => if alive d then grinderEnd d c.val else d

/-! ### TREE (R132-R134) -/

abbrev M3 := List (List W32)

def mget (m : M3) (i j : Nat) : W32 := (m.getD i []).getD j 0
/-- A matrix by its elements. -/
def mk (n : Nat) (f : Nat → Nat → W32) : M3 := (List.range n).map fun i => (List.range n).map fun j => f i j
/-- A product, element by element as left-to-right sums in ascending index. -/
def m3mul (a b : M3) : M3 := mk 3 fun i j =>
  fadd (fadd (fmul (mget a i 0) (mget b 0 j)) (fmul (mget a i 1) (mget b 1 j))) (fmul (mget a i 2) (mget b 2 j))
def m3t (a : M3) : M3 := mk 3 fun i j => mget a j i
def mzip (n : Nat) (f : W32 → W32 → W32) (a b : M3) : M3 := mk n fun i j => f (mget a i j) (mget b i j)
def m3neg (a : M3) : M3 := mk 3 fun i j => fneg (mget a i j)
def m3scale (s : W32) (a : M3) : M3 := mk 3 fun i j => fmul s (mget a i j)
def zero3 : M3 := mk 3 fun _ _ => 0
def diag3 (a b c : W32) : M3 := mk 3 fun i j => if i = j then [a, b, c].getD i 0 else 0
def skew (v : List W32) : M3 :=
  let x := v.getD 0 0
  let y := v.getD 1 0
  let z := v.getD 2 0
  [[0, fneg z, y], [z, 0, fneg x], [fneg y, x, 0]]
/-- A 6 × 6 block of four 3 × 3 blocks. -/
def block6 (a b c e : M3) : M3 := mk 6 fun i j =>
  if i < 3 then (if j < 3 then mget a i j else mget b i (j - 3)) else (if j < 3 then mget c (i - 3) j else mget e (i - 3) (j - 3))

/-- rotation(w, x, y, z) of R133. -/
def rotation (q : List W32) : M3 :=
  let w := q.getD 0 0
  let x := q.getD 1 0
  let y := q.getD 2 0
  let z := q.getD 3 0
  let two : W32 := 0x40000000
  let dg := fun (a b : W32) => fsub one32 (fmul two (fadd (fmul a a) (fmul b b)))
  let sm := fun (a b c e : W32) => fmul two (fadd (fmul a b) (fmul c e))
  let df := fun (a b c e : W32) => fmul two (fsub (fmul a b) (fmul c e))
  [[dg y z, df x y w z, sm x z w y], [sm x y w z, dg x z, df y z w x], [df x z w y, sm y z w x, dg x y]]

/-- Words of a record. -/
def recW (b : List Byte) (o n : Nat) : List W32 := (List.range n).map fun i => BitVec.ofNat 32 (recf b (o + 4 * i) 4)

/-- A body's own part, its joint stiffness blocks ka and kl (R133). -/
def treeBody (h delta : W32) (b s : List Byte) : M3 × M3 × M3 :=
  let u := rotation (recW s 0 4)
  let com := recW b 8 3
  let cw := (List.range 3).map fun i => fadd (fadd (fmul (mget u i 0) (com.getD 0 0)) (fmul (mget u i 1) (com.getD 1 0))) (fmul (mget u i 2) (com.getD 2 0))
  let q := recW b 0x14 6
  let g := fun (i : Nat) => q.getD i 0
  let inertia : M3 := [[g 0, g 3, g 4], [g 3, g 1, g 5], [g 4, g 5, g 2]]
  let iw := m3mul (m3mul u inertia) (m3t u)
  let cx := skew cw
  let m := (recW b 4 1).getD 0 0
  let mcx := m3scale m cx
  let body := block6 (mzip 3 fsub iw (m3scale m (m3mul cx cx))) mcx (m3neg mcx) (m3scale m (diag3 one32 one32 one32))
  let n := mk 6 fun i j => fadd (mget body i j) (fmul delta (if i = j then one32 else 0))
  let w := List.zipWith (fun k dd => fmul h (fadd (fmul h k) dd)) (recW b 0x2C 6) (recW b 0x44 6)
  let at_ := fun (i : Nat) => w.getD i 0
  let ka := m3mul (m3mul u (diag3 (at_ 0) (at_ 1) (at_ 2))) (m3t u)
  let kl := m3mul (m3mul u (diag3 (at_ 3) (at_ 4) (at_ 5))) (m3t u)
  let n := if recf b 0 2 = 0xFFFE then n else mzip 6 fadd n (block6 ka zero3 zero3 kl)
  (n, ka, kl)

/-- Node and edge blocks of a tree. -/
def treeSystem (h delta : W32) (bodies states : List (List Byte)) : List M3 × List M3 :=
  let own := List.zipWith (treeBody h delta) bodies states
  let org := fun (i : Nat) => recW (states.getD i []) 0x10 3
  (List.range bodies.length).foldl (fun (acc : List M3 × List M3) i =>
    let p := recf (bodies.getD i []) 0 2
    if p < 0xFFFE then
      let x := own.getD i ([], [], [])
      let ka := x.2.1
      let kl := x.2.2
      let s := skew (List.zipWith fsub (org i) (org p))
      let skl := m3mul s kl
      let kls := m3mul kl s
      let add := block6 (mzip 3 fsub ka (m3mul skl s)) skl (m3neg kls) kl
      let e := block6 (m3neg ka) zero3 kls (m3neg kl)
      (acc.1.zipIdx.map (fun n => if n.2 = p then mzip 6 fadd n.1 add else n.1), acc.2 ++ [e])
    else (acc.1, acc.2 ++ [mk 6 fun _ _ => 0])) (own.map (·.1), [])

/-- The checks of R132 on one body; `i` is its index. -/
def bodyOk (b s : List Byte) (i : Nat) : Bool :=
  let p := recf b 0 2
  let all := recW b 4 22 ++ recW s 0 7
  let nonneg := fun (l : List W32) => l.all fun x => fle 0 x
  (decide (p < i) || p == 0xFFFF || p == 0xFFFE) && all.all isFin32 && flt 0 ((recW b 4 1).getD 0 0)
    && nonneg (recW b 0x2C 6) && nonneg (recW b 0x44 6)

/-- Bytes of a tree system image. -/
def treeBytes (n : Nat) : Nat := 64 + roundUp (2 * n) 64 + 288 * n

/-- TREE (R132-R134): every input is checked, then the image is written. -/
def tree (d : Dev) (c a : Nat) : Dev :=
  let t := ctileNat c
  if a % 64 ≠ 0 ∨ !inScratch t a 64 ∨ hitsPool d t a 64 then endGrind d c 4 0 0
  else match spPoisonAt d t a 64 with
  | some l => endUse d c (poisonedAt d t l)
  | none =>
    let w := toWords 16 (spRead d t a 64)
    let n := dfield w 0 0 16
    let fits := fun (i o b : Nat) => match getAlloc d i with | some al => decide (o + b ≤ al.size) && !allocInPool d i o b | none => false
    let res := anySet w ([(0, 16, 16)] ++ (List.range 7).map fun i => (9 + i, 0, 32))
    let addr := wordAt w 4 % 64 != 0 || wordAt w 6 % 64 != 0 || wordAt w 8 % 64 != 0
      || !fits (wordAt w 3) (wordAt w 4) (128 * n) || !fits (wordAt w 5) (wordAt w 6) (32 * n) || !fits (wordAt w 7) (wordAt w 8) (treeBytes n)
    let bodies := (List.range n).map fun i => allocRead d (wordAt w 3) (wordAt w 4 + 128 * i) 128
    let states := (List.range n).map fun i => allocRead d (wordAt w 5) (wordAt w 6 + 32 * i) 32
    let c0 := firstCode [(1, res || bodies.any (fun b => !zeros b 2 2 || !zeros b 0x5C 36) || states.any fun s => !zeros s 0x1C 4), (4, addr)]
    if c0 ≠ 0 then endGrind d c c0 0 0
    else
      let u := firstUse [rangeRead d (wordAt w 3) (wordAt w 4) (128 * n), rangeRead d (wordAt w 5) (wordAt w 6) (32 * n), rangeWrite d (wordAt w 7) (wordAt w 8) (treeBytes n)]
      if u.1 ≠ 0 then endUse d c u
      else
        let h := w.getD 1 0
        let dl := w.getD 2 0
        let ok := n != 0 && isFin32 h && flt 0 h && isFin32 dl && fle 0 dl && (bodies.zip states).zipIdx.all fun e => bodyOk e.1.1 e.1.2 e.2
        if !ok then endGrind d c 0x1D 0 0
        else
          let (ns, es) := treeSystem h dl bodies states
          let el := (ns ++ es).flatMap fun m => m.flatMap fun r => r
          let fin := el.all isFin32
          let img := imgHeader n 3 0 0 (b2n fin + 2 * b2n (!fin)) 0 0 0 0 ++ padTo (roundUp (2 * n) 64) (bodies.flatMap fun b => b.take 2)
            ++ el.flatMap fun x => natLe 4 x.toNat
          let d := countRead (countRead d (wordAt w 3) (wordAt w 4) (128 * n)) (wordAt w 5) (wordAt w 6) (32 * n)
          let d := allocWriteOther d (wordAt w 7) (wordAt w 8) img
          let d := modCurv d c fun k => { k with grind := k.grind.map fun p => { p with status := p.status ||| seenAll el } }
          if fin then advGrind d c 0 else endGrind d c 0x1A 0 0

def execTree (c : CTile) (s : State) : Host.Outcome State Fault Refusal :=
  run s fun d => if alive d then grindCmd d c.val 8 (fun _ a w => grindVec d c.val w fun d => tree d c.val a) else d

end Sys2Proof.Machine
end

