-- ==== Sys2Proof/Machine/Percolator.lean ====
section
/-!
DEFINITION. Matrix roots, inverses and structured solves (chapter 7): iteration scripts, job descriptors, and the block
jobs of the four methods in pair-FP32 (R145, R146, R154-R157).
-/
namespace Sys2Proof.Machine

/-! ### Scripts (R137, R138) -/

/-- Ends the running script and starts the next. -/
def endScript (d : Dev) (c code off : Nat) : Dev :=
  match (getCurv d c).script with
  | none => d
  | some p =>
    let d := modCurv d c fun k => scriptNext { k with script := none, job := none }
    endLaunch d p.launch code p.status p.idx p.failed p.jobAux off

def advScript (d : Dev) (c : Nat) : Dev :=
  modCurv d c fun k => { k with script := k.script.map fun p => { p with idx := p.idx + 1 } }

/-- Reserved bits of a script instruction, and ADDR where Table 7-2 has zero. -/
def scriptReserved (w : Nat) : Bool :=
  bitf w 8 5 != 0 || bitf w 19 13 != 0 || bitf w 55 9 != 0 || (w % 256 != 1 && bitf w 32 23 != 0)

/-- The refusal of a script instruction: SEM 48-63 is refused of every opcode (Table 7-1). -/
def scriptRefused (w : Nat) : Nat := firstCode [(1, scriptReserved w), (5, decide (bitf w 13 6 ≥ 48))]

/-- Runs `f` when the current script instruction carries `op`; a refused instruction ends the script. -/
def scriptCmd (d : Dev) (c op : Nat) (f : Nat → Dev) : Dev :=
  let k := getCurv d c
  match k.script with
  | none => d
  | some p =>
    if p.waiting || k.job.isSome || k.testing then d
    else match fetchProg d (ctileNat c) p with
    | .inr _ => d
    | .inl w =>
      if w % 256 ≠ op then d
      else
        let code := scriptRefused w
        if code ≠ 0 then endScript d c code 0 else f w

def scriptWait (d : Dev) (c w : Nat) : Dev :=
  match semOfNat (bitf w 13 6) with
  | some sm => joinSem (modCurv d c fun k => { k with script := k.script.map fun p => { p with waiting := true } }) (ctileNat c) sm .script
  | none => d

def execScriptWait (c : CTile) (s : State) : Host.Outcome State Fault Refusal :=
  run s fun d => if alive d then scriptCmd d c.val 0x10 (scriptWait d c.val) else d

def scriptSignal (d : Dev) (c w : Nat) : Dev :=
  match semOfNat (bitf w 13 6) with
  | some sm => advScript (makeSig d ⟨ctileNat c, sm, 1, .program, none, some (ctileNat c)⟩) c
  | none => d

def execScriptSignal (c : CTile) (s : State) : Host.Outcome State Fault Refusal :=
  run s fun d => if alive d then scriptCmd d c.val 0x11 (scriptSignal d c.val) else d

/-- SCRIPT_END (R138): END, or the end of a script whose next instruction cannot be fetched or has no opcode of
Table 7-2. -/
def scriptEnd (d : Dev) (c : Nat) : Dev :=
  let k := getCurv d c
  match k.script with
  | none => d
  | some p =>
    if p.waiting || k.job.isSome || k.testing then d
    else match fetchProg d (ctileNat c) p with
    | .inr u => endScript d c u.1 u.2.2
    | .inl w =>
      if w % 256 = 0x1F then endScript d c (scriptRefused w) 0
      else if [1, 0x10, 0x11].contains (w % 256) then d
      else endScript d c 8 0

def execScriptEnd (c : CTile) (s : State) : Host.Outcome State Fault Refusal :=
  run s fun d => if alive d then scriptEnd d c.val else d

/-! ### Job descriptors (R139-R143) -/

def jobMethod (w : List W32) : Nat := dfield w 0 8 4
def jobP (w : List W32) : Nat := dfield w 0 12 3
def jobFmt (w : List W32) : Nat := dfield w 0 17 4
def jobFirst (w : List W32) : Nat := dfield w 1 0 6
def jobNblk (w : List W32) : Nat := dfield w 1 6 6
def jobMapN (w : List W32) : Nat := dfield w 1 12 6
def jobNrhs (w : List W32) : Nat := dfield w 14 8 13

/-- The map words of a job, as they stand now (log entry 159, DESIGN CHOICE). -/
def jobMap (d : Dev) (t : TileId) (w : List W32) : List W32 :=
  if jobMethod w = 4 then [] else toWords (jobMapN w + 1) (spRead d t (dfield w 4 0 23) (4 * (jobMapN w + 1)))

/-- Bodies of the tree image a job names. -/
def jobBodies (d : Dev) (w : List W32) : Nat := recf (allocRead d (wordAt w 2) (wordAt w 3) 64) 0 4

/-- Bytes of workspace for a block of size b (Table 7-5); NBODY for a tree. -/
def wsBytes (w : List W32) (b : Nat) : Nat :=
  let m := jobMethod w
  if m = 1 then 5 * triTiles b * 32768 else if m = 2 then triTiles b * 32768
  else if m = 3 then triTiles b * 32768 + 8 * b * jobNrhs w
  else 576 * b + 48 * b * jobNrhs w

/-- Bytes from OUT_OFFSET that a job's output takes, and from IN_OFFSET that its input takes: both ranges begin at block 0's offset,
though blocks before FIRST_BLOCK are not touched (log entry 132, DESIGN CHOICE). -/
def rhsBytes (w : List W32) (n : Nat) : Nat := jobNrhs w * roundUp (4 * n) 64
def jobOutBytes (w : List W32) (s : List Nat) (nb : Nat) : Nat :=
  let m := jobMethod w
  if m = 1 ∨ m = 2 then imgOff (jobFmt w) s (jobFirst w + jobNblk w + 1)
  else rhsBytes w (if m = 3 then s.getD (jobFirst w) 0 else 6 * nb)
def jobInBytes (w : List W32) (s : List Nat) (nb : Nat) : Nat :=
  if jobMethod w = 4 then treeBytes nb else imgOff 8 s (jobFirst w + jobNblk w + 1)

def jobTotal (w : List W32) : Nat := if jobMethod w ≤ 2 then jobNblk w + 1 else 1

/-- The blocks a job works on, by size; NBODY for a tree. -/
def jobBlocks (w : List W32) (s : List Nat) (nb : Nat) : List Nat :=
  if jobMethod w = 4 then [nb] else (s.drop (jobFirst w)).take (jobNblk w + 1)

/-- The checks of R143: a code, 0 when the descriptor is accepted. A descriptor, map or result records in a bound tap pool are refused as
the window is, and a METHOD that Table 7-4 does not list uses no field of ROOT's (log entry 132, DESIGN CHOICE). An allocation that a
FREE waits for ends the JOB with ALLOC_ID (R198). -/
def checkJob (d : Dev) (t : TileId) (w : List W32) : Nat :=
  let m := jobMethod w
  let map := jobMap d t w
  let s := mapSizes map
  let nb := if m = 4 then jobBodies d w else 0
  let solve := m == 3 || m == 4
  let unused : List (Nat × Nat × Nat) :=
    (if m = 1 then [] else [(0, 15, 1), (0, 16, 1), (14, 0, 8)])
    ++ (if m = 4 then [(1, 0, 6), (1, 6, 6), (1, 12, 6), (4, 0, 32)] else [])
    ++ (if solve then [(1, 18, 14)] else [])
  let f32 := fun (i : Nat) => w.getD i 0
  let p := jobP w
  let fits := fun (i o b : Nat) => match getAlloc d i with | some a => decide (o + b ≤ a.size) | none => false
  let ws := (jobBlocks w s nb).foldl (fun n b => max n (wsBytes w b)) 0
  let win := dfield w 9 0 23
  let res := dfield w 11 0 23
  let ma := dfield w 4 0 23
  let meet := fun (a n b k : Nat) => decide (a < b + k) && decide (b < a + n)
  let mapB := 4 * map.length
  let resB := 64 * jobTotal w
  let bad := fun (a n : Nat) => !inScratch t a n || hitsPool d t a n
  let inB := jobInBytes w s nb
  let outB := jobOutBytes w s nb
  firstCode [
    (1, anySet w [(0, 21, 11), (4, 23, 9), (9, 23, 9), (11, 23, 9), (14, 25, 7), (15, 12, 20)] || mapReserved map || anySet w unused),
    (2, (jobFmt w != 8 && jobFmt w != 9) || (solve && jobFmt w == 9)),
    (3, (if m = 1 then p != 1 && p != 2 && p != 4 else p != 0)
      || (m != 4 && (decide (jobFirst w + jobNblk w > jobMapN w) || !mapOk (s.foldl (· + ·) 0) s))
      || (m == 3 && jobNblk w != 0) || wordAt w 10 == 0 || (m == 1 && dfield w 14 0 8 == 0)
      || (if solve then jobNrhs w == 0 || decide (jobNrhs w > 4096) else jobNrhs w != 0)
      || (if m = 1 then !(isFin32 (f32 12) && fle 0 (f32 12)) || !(isFin32 (f32 13) && flt 0 (f32 13))
          else !(fle 0 (f32 12) && flt (f32 12) one32) || !(isFin32 (f32 13) && fle 0 (f32 13)))),
    (4, bad win 0x300000 || win % 64 != 0 || res % 64 != 0 || bad res resB || (m != 4 && (ma % 4 != 0 || bad ma mapB))
      || meet win 0x300000 res resB || (m != 4 && (meet win 0x300000 ma mapB || meet ma mapB res resB))
      || wordAt w 3 % 64 != 0 || wordAt w 6 % 64 != 0 || wordAt w 8 % 64 != 0
      || !fits (wordAt w 2) (wordAt w 3) inB || !fits (wordAt w 5) (wordAt w 6) outB || !fits (wordAt w 7) (wordAt w 8) ws
      || (wordAt w 2 == wordAt w 5 && meet (wordAt w 3) inB (wordAt w 6) outB)),
    (5, badSem w), (8, opcodeOf w != 0x70 || m == 0 || decide (m > 4)),
    (0x40, [2, 5, 7].any fun i => match getAlloc d (wordAt w i) with | some a => a.freeing | none => false)]

/-- JOB (R139-R143): the descriptor is checked; its block jobs run one after another, once WAIT_SEM is acquired. -/
def job (d : Dev) (c w : Nat) : Dev :=
  let t := ctileNat c
  let a := bitf w 32 23
  if a % 64 ≠ 0 ∨ !inScratch t a 64 ∨ hitsPool d t a 64 then endScript d c 4 0
  else
    let jw := toWords 16 (spRead d t a 64)
    match spansPoison d t ([(a, 64)] ++ (if jobMethod jw = 4 then [] else [(dfield jw 4 0 23, 4 * (jobMapN jw + 1))])) with
    | some l => endScript d c 0x11 (poisonNames d t l).2
    | none =>
      let code := checkJob d t jw
      if code ≠ 0 then endScript d c code 0
      else
        let d := modCurv d c fun k => { k with job := some { words := jw, j := 0, total := jobTotal jw, ready := waitSemOf jw == 63 } }
        match semOfNat (waitSemOf jw) with
        | some sm => joinSem d t sm .job
        | none => d

def execJob (c : CTile) (s : State) : Host.Outcome State Fault Refusal :=
  run s fun d => if alive d then scriptCmd d c.val 1 (job d c.val) else d

/-! ### Pairs compared, frob (R146) -/

def ple (a b : Pair) : Bool := pfin a && pfin b && !xlt (xpair b) (xpair a)
def plt (a b : Pair) : Bool := pfin a && pfin b && xlt (xpair a) (xpair b)

/-- frob(a) = psqrt(Σ w · a²) over the stored tiles. -/
def frob (b : Nat) (m : Mat) : Pair :=
  psqrt ((triElems b m).foldl (fun s e => pfma (if e.1 then e.2 else padd e.2 e.2) e.2 s) (0, 0))

def ident (b : Nat) (v : Pair) : Mat := (List.range b).map fun i => (List.range b).map fun j => if i = j then v else (0, 0)
def mmap2 (f : Pair → Pair → Pair) (a b : Mat) : Mat := List.zipWith (List.zipWith f) a b
def pOne : Pair := (one32, 0)

/-- power(x, p) and the products on the way. -/
def rootPower (b p : Nat) (x : Mat) : List Mat :=
  if p = 1 then [x] else if p = 2 then [mulSym b x x] else let v := mulSym b x x; [v, mulSym b v v]

/-- The last of a list of products, and whether all are finite. -/
def lastMat (l : List Mat) : Mat := l.getLastD []

/-- 1/p as a pair. -/
def invP (p : Nat) : Pair := pair32 (if p = 1 then one32 else if p = 2 then 0x3F000000 else 0x3E800000)

/-- ‖I − m‖ -/
def residOf (b : Nat) (m : Mat) : Pair := frob b (mmap2 psub (ident b pOne) m)

/-! ### A block job's place -/

def jobBlk (w : List W32) (j : Nat) : Nat := jobFirst w + j

/-- signature of R152. -/
def jobSig (w map : List W32) (j b : Nat) : W64 :=
  let h := mix 0x2C6B91E5
  let h := mix (h ^^^ BitVec.ofNat 64 b)
  let h := mix (h ^^^ BitVec.ofNat 64 (jobBlk w j))
  let h := mix (h ^^^ BitVec.ofNat 64 map.length)
  let h := map.foldl (fun h m => mix (h ^^^ m.setWidth 64)) h
  mix (h ^^^ BitVec.ofNat 64 (jobP w + 256 * jobFmt w + 65536 * dfield w 1 18 14))

/-- Input and output images of block job `j`. -/
def jobInOff (w : List W32) (s : List Nat) (j : Nat) : Nat := wordAt w 3 + imgOff 8 s (jobBlk w j)
def jobOutOff (w : List W32) (s : List Nat) (j : Nat) : Nat := wordAt w 6 + imgOff (jobFmt w) s (jobBlk w j)

/-- Largest diagonal element; −infinity for none. -/
def maxDiag (l : List W32) : W32 := l.foldl (fun m x => if flt m x then x else m) (inf32 true)
def diagOf (m : Mat) : List W32 := m.zipIdx.map fun r => (r.1.getD r.2 (0, 0)).1

/-- Ends a block job with a code: nothing is written to its output. -/
def failJob (j : Job) (code : Nat) : Job := { j with started := true, finished := true, code := code, out := [] }

/-- A block job that may not use what it names ends; with these codes it has not touched its workspace (log entry 162, DEDUCED). -/
def refuseJob (j : Job) (code : Nat) : Job := { failJob j code with unused := [0x15, 0x17, 0x40, 0x42, 0x43].contains code }

/-- Sets the block job; one that has ended leaves the vector engine queue. -/
def setJob (d : Dev) (c : Nat) (j : Job) : Dev :=
  modCurv (if j.finished then leaveVec d (ctileNat c) .solver else d) c fun k => { k with job := some j }

/-- A residue failure ends the block job (R159). -/
def jobResidue (d : Dev) (c : Nat) (j : Job) : Dev := residueEvent (setJob d c (failJob j 0x24)) (ctileNat c) 1

/-- The state checks of a block job on what it reads and writes: 0x11 poison, 0x15 busy, then 0x40 and 0x42. -/
def jobUse (d : Dev) (w : List W32) (i o ws : Nat × Nat) : Nat :=
  let d := unfreed d
  let l := [rangeRead d (wordAt w 2) i.1 i.2, if o.2 = 0 then rangeWrite d (wordAt w 5) o.1 0 else rangeRead d (wordAt w 5) o.1 o.2, rangeWrite d (wordAt w 7) ws.1 ws.2]
  firstCode ((0x11, (allocPoisonAt d (wordAt w 7) ws.1 ws.2).isSome) :: [0x11, 0x15, 0x17, 0x40, 0x42, 0x43].map fun c => (c, l.any fun u => u.1 == c))

/-- Size of the block that block job `j` works on; NBODY for a tree. -/
def jobSize (d : Dev) (t : TileId) (j : Job) : Nat :=
  if jobMethod j.words = 4 then jobBodies d j.words else (mapSizes (jobMap d t j.words)).getD (jobBlk j.words j.j) 0

/-- A line of the workspace is poisoned: the block job ends 0x11 (R162). -/
def wsPoison (d : Dev) (t : TileId) (j : Job) : Bool :=
  (allocPoisonAt d (wordAt j.words 7) (wordAt j.words 8) (wsBytes j.words (jobSize d t j))).isSome

/-- What escapes the residue check leaves free values behind (R297; log entry 116, DESIGN CHOICE). -/
def escaped (lane : Option LaneFault) : Bool := match lane with | some f => !faultFound f | none => false
def caught (lane : Option LaneFault) : Bool := match lane with | some f => faultFound f | none => false

/-- A symmetric matrix of free values. -/
def freeMat (b tag : Nat) : Mat :=
  (List.range b).map fun i => (List.range b).map fun j =>
    let k := 8 * (min i j * b + max i j)
    (BitVec.ofNat 32 (leNat ((List.range 4).map fun n => Config.freeByte tag (k + n))),
     BitVec.ofNat 32 (leNat ((List.range 4).map fun n => Config.freeByte tag (k + 4 + n))))

/-- The product `m`, or free values in its place, and the state with those values taken. -/
def laneMat (d : Dev) (b : Nat) (lane : Option LaneFault) (m : Mat) : Mat × Dev :=
  if escaped lane then (freeMat b d.fresh, { d with fresh := d.fresh + 1 }) else (m, d)

/-- What a block job on a D image reads first: the matrix, or the code it ends with. Only the image is the input that must be finite, B is
not (log entry 160, DEDUCED). -/
def readD (d : Dev) (w : List W32) (s : List Nat) (j outN : Nat) : Mat ⊕ Nat :=
  let b := s.getD (jobBlk w j) 0
  let off := jobInOff w s j
  let h := allocRead d (wordAt w 2) off 64
  let use := jobUse d w (off, imgBytes 8 b) (if jobMethod w = 3 then wordAt w 6 else jobOutOff w s j, outN) (wordAt w 8, wsBytes w b)
  if use ≠ 0 then .inr use
  else
    let m := readSym d (wordAt w 2) off 8 b
    if recf h 4 4 ≠ 2 ∨ recf h 0 4 ≠ b ∨ !bitAt (recf h 0x18 4) 0 ∨ !matFin m ∨ !flt 0 (maxDiag (diagOf m)) then .inr 0x23
    else .inl m

/-- The image header of a root or factor (Table 7-6). -/
def rootHeader (b kind rows upd flags : Nat) (lam : W32) (p fmt iter blk : Nat) (sig : W64) (resid residD : W32) : List Byte :=
  natLe 4 b ++ natLe 4 kind ++ natLe 8 rows ++ natLe 8 upd ++ natLe 4 flags ++ natLe 4 lam.toNat ++ natLe 1 p ++ natLe 1 fmt
    ++ natLe 1 iter ++ zbytes 1 ++ natLe 4 blk ++ natLe 8 sig.toNat ++ natLe 4 resid.toNat ++ natLe 4 residD.toNat ++ zbytes 8

/-- A matrix as it is written in OUT_FMT: hi alone in binary32. -/
def outMat (f : Nat) (m : Mat) : Mat := if f = 9 then m else m.map fun r => r.map fun p => (p.1, 0)

/-! ### ROOT (R145-R153) -/

/-- Header fields that a root or factor image takes from the D image (SRC_ROWS at 8, SRC_UPDATES at 0x10). -/
def srcField (d : Dev) (w : List W32) (s : List Nat) (j o : Nat) : Nat := recf (allocRead d (wordAt w 2) (jobInOff w s j) 64) o 8

/-- Set-up of a ROOT block job: the warm or cold start and the first residual. A cold start makes no product on a lane. -/
def rootStart (d : Dev) (c : Nat) (w : List W32) (s : List Nat) (j : Job) (m : Mat) (lane : Option LaneFault) : Dev :=
  let b := s.getD (jobBlk w j.j) 0
  let p := jobP w
  let f := jobFmt w
  let h := allocRead d (wordAt w 5) (jobOutOff w s j.j) 64
  let warm := bitAt (wordAt w 0) 15
  let bad := recf h 4 4 != 4 || !bitAt (recf h 0x18 4) 0
  let ok := warm && !bad && recf h 0x28 8 == j.sig.toNat
  let j := { j with st := if ok then 0 else 64 + (if !warm then 0 else if bad then 256 else 128),
                    src := (srcField d w s j.j 8, srcField d w s j.j 0x10) }
  let (x, pr, (m0, d)) :=
    if ok then
      let x := readSym d (wordAt w 5) (jobOutOff w s j.j) f b
      let pr := rootPower b p x
      (x, pr, laneMat d b lane (mulSym b (lastMat pr) m))
    else
      let sc := (frob b m).1
      let r := pair32 (if p = 1 then frcp sc else if p = 2 then frsqrt sc else frsqrt (fsqrt sc))
      let q := if p = 1 then r else if p = 2 then pmul r r else let q := pmul r r; pmul q q
      (ident b r, [], (m.map fun row => row.map fun e => pmul q e, d))
  let rho := residOf b m0
  if !(matFin x && pr.all matFin && matFin m0 && pfin rho) then setJob d c (failJob j 0x22)
  else setJob d c { j with started := true, root := some ⟨m, x, m0, x, rho, rho, 0, 0, 0, none⟩ }

/-- The image a ROOT block job writes, and its result fields. -/
def rootFinish (w : List W32) (s : List Nat) (j : Job) (r : RootSt) (st : Nat) : Job :=
  let b := s.getD (jobBlk w j.j) 0
  let f := jobFmt w
  let rd := match r.rhoD with | some x => x.1 | none => 0
  let flags := 1 + 2 * b2n (bitAt st 0) + 4 * b2n (bitAt st 6) + 8 * b2n (bitAt st 4) + 16 * b2n (bitAt st 5)
  let hd := rootHeader b 4 j.src.1 j.src.2 flags 0 (jobP w) f r.kBest (jobBlk w j.j) j.sig r.rhoBest.1 rd
  { j with finished := true, code := 0, st := st, resid := r.rhoBest.1, residDirect := rd, root := some r,
           out := [(jobOutOff w s j.j, hd ++ symBytes f b (outMat f r.best))] }

/-- α ≤ ACCEPT (R147). -/
def rootAccepts (w : List W32) (r : RootSt) : Bool :=
  let acc := pair32 (w.getD 13 0)
  ple r.rhoBest acc && (match r.rhoD with | some x => ple x acc | none => true)

/-- One iteration of R145, whose products give `x` and `m`: the iterate is kept as best when its residual is the least. -/
def rootKeep (r : RootSt) (x m : Mat) (rho : Pair) : RootSt :=
  if plt rho r.rhoBest then { r with x := x, m := m, rho := rho, best := x, rhoBest := rho, k := r.k + 1, kBest := r.k + 1, worse := 0 }
  else { r with x := x, m := m, rho := rho, k := r.k + 1, worse := r.worse + 1 }

/-- One iteration of R145; a non-finite element ends the block job PC_OVERFLOW (R158). -/
def rootIterate (d : Dev) (c b : Nat) (j : Job) (r : RootSt) (lane : Option LaneFault) : Dev :=
  let p := jobP j.words
  let t := mmap2 (fun i m => pmul (padd i (pneg m)) (invP p)) (ident b (pair32 (f32OfNat (p + 1)))) r.m
  let (x, d) := laneMat d b lane (mulSym b r.x t)
  let pw := rootPower b p t
  let (m, d) := laneMat d b lane (mulSym b (lastMat pw) r.m)
  let rho := residOf b m
  if matFin t && matFin x && pw.all matFin && matFin m && pfin rho then setJob d c { j with root := some (rootKeep r x m rho) }
  else setJob d c (failJob j 0x22)

/-- The break conditions at the loop's head, as STATUS bits. -/
def rootBreak (w : List W32) (r : RootSt) (elapsed : Nat) : Nat :=
  (if ple r.rho (pair32 (w.getD 12 0)) then 2 else 0) + (if r.worse = 3 then 4 else 0)
    + (if r.k = dfield w 14 0 8 then 8 else 0) + (if elapsed ≥ wordAt w 10 then 16 else 0)

/-- Whether a block job of a method stands ready to start: not while a request of it waits for the UCIe link (R337), and not while a
mechanism's request for the tile's test stands out, whichever mechanism made it (R159; log entry 134, DESIGN CHOICE). -/
def jobReady (d : Dev) (c m : Nat) : Option Job :=
  let k := getCurv d c
  match k.job with
  | some j => if j.ready && !j.started && jobMethod j.words == m && !k.testing && !testAsked d c && !anyWaits d (jobNames j.words) then some j else none
  | none => none

/-- Whether a block job of a method may start: the vector engine queue lets the Percolator run too (R78, R149). -/
def startable (d : Dev) (c m : Nat) : Option Job := if vecFree d (ctileNat c) .solver then jobReady d c m else none

/-- A block job of the method starts with `f`, and its vector work leaves the queue; or it takes its entry there (R78, R149). -/
def startJob (d : Dev) (c m : Nat) (f : Dev → Job → Dev) : Dev :=
  match startable d c m with
  | some j =>
    let w := j.words
    let s := mapSizes (jobMap d (ctileNat c) w)
    let r := if m = 4 then (wordAt w 3, treeBytes (jobBodies d w)) else (jobInOff w s j.j, imgBytes 8 (s.getD (jobBlk w j.j) 0))
    f (countRead (takeVec d (ctileNat c) .solver) (wordAt w 2) r.1 r.2) j
  | none => if (jobReady d c m).isSome then joinVec d (ctileNat c) .solver 0 else d

/-- ROOT (R145, R153): the block job starts; its input is checked and its set-up made. -/
def rootJob (d : Dev) (c : Nat) (lane : Option LaneFault) : Dev :=
  startJob d c 1 fun d j =>
    let w := j.words
    let map := jobMap d (ctileNat c) w
    let s := mapSizes map
    let b := s.getD (jobBlk w j.j) 0
    let j := { j with sig := jobSig w map j.j b }
    let h := allocRead d (wordAt w 5) (jobOutOff w s j.j) 64
    let warm := bitAt (wordAt w 0) 15 && recf h 4 4 == 4 && bitAt (recf h 0x18 4) 0 && recf h 0x28 8 == j.sig.toNat
    match readD d w s j.j (if warm then imgBytes (jobFmt w) b else if bitAt (wordAt w 0) 15 then 64 else 0) with
    | .inr code => setJob d c (refuseJob j code)
    | .inl m =>
      let d := countRead d (wordAt w 5) (jobOutOff w s j.j) (if warm then imgBytes (jobFmt w) b else if bitAt (wordAt w 0) 15 then 64 else 0)
      if caught lane then jobResidue d c j else rootStart d c w s j m lane

def execRoot (c : CTile) (lane : Option LaneFault) (s : State) : Host.Outcome State Fault Refusal :=
  run s fun d => if alive d then rootJob d c.val lane else d

/-- The direct residual of a break with VERIFY (R147), and how the block job then ends. -/
def rootVerify (d : Dev) (c b : Nat) (s : List Nat) (j : Job) (r : RootSt) (lane : Option LaneFault) : Dev :=
  let w := j.words
  let pw := rootPower b (jobP w) r.best
  let (m, d) := laneMat d b lane (mulSym b (lastMat pw) r.d)
  let rd := residOf b m
  if pw.all matFin && matFin m && pfin rd then
    let r := { r with rhoD := some rd }
    setJob d c (rootFinish w s j r (j.st ||| 1024 ||| b2n (rootAccepts w r)))
  else setJob d c (failJob j 0x22)

/-- The hard limit of a job (R151, Table 7-3). -/
def hardLimit (w : List W32) : Nat :=
  min (wordAt w 10 * (if dfield w 14 21 4 = 0 then 4 else dfield w 14 21 4)) 0xFFFFFFFF

/-- The hard limit is reached before the write begins (R151): a ROOT whose best iterate is accepted ends 0x00, every other block job
PC_HARD_LIMIT; HARD_EXPIRED stands in the record either way (log entry 133, DESIGN CHOICE). -/
def hardEnd (d : Dev) (c : Nat) (j : Job) : Dev :=
  let w := j.words
  let map := jobMap d (ctileNat c) w
  let s := mapSizes map
  let j := if jobMethod w ≤ 2 then { j with sig := jobSig w map j.j (s.getD (jobBlk w j.j) 0), st := j.st ||| 32 } else { j with st := j.st ||| 32 }
  match j.root with
  | some r => if rootAccepts w r then setJob d c (rootFinish w s j r (j.st ||| 1)) else setJob d c (failJob j 0x20)
  | none => setJob d c { failJob j 0x20 with pivot := 0 }

/-- ROOT_ITERATION_END (R145, R147, R150, R151): the break test at `elapsed` tc; a break without VERIFY finishes, one with VERIFY goes on
to the direct residual, which the next ROOT_ITERATION_END ends; else the next iteration runs. Each passes the vector engine queue. -/
def rootIterationEnd (d : Dev) (c elapsed : Nat) (lane : Option LaneFault) : Dev :=
  let k := getCurv d c
  match k.job with
  | none => d
  | some j =>
    match j.root with
    | none => d
    | some r =>
      if j.finished || k.testing then d
      else if wsPoison d (ctileNat c) j then setJob d c (failJob j 0x11)
      else
        let w := j.words
        let s := mapSizes (jobMap d (ctileNat c) w)
        let b := s.getD (jobBlk w j.j) 0
        let br := rootBreak w r elapsed
        if elapsed ≥ hardLimit w then hardEnd d c j
        else if j.verify then passVec d (ctileNat c) .solver 0 fun d => if caught lane then jobResidue d c j else rootVerify d c b s j r lane
        else if br ≠ 0 then
          if bitAt (wordAt w 0) 16 then setJob d c { j with st := j.st ||| br, verify := true }
          else setJob d c (rootFinish w s { j with st := j.st ||| br } r (j.st ||| br ||| b2n (rootAccepts w r)))
        else passVec d (ctileNat c) .solver 0 fun d =>
          if caught lane then jobResidue d c j else rootIterate (tileEv d (ctileNat c) 0x24 1) c b j r lane

def execRootIterationEnd (c : CTile) (elapsed : Nat) (lane : Option LaneFault) (s : State) : Host.Outcome State Fault Refusal :=
  run s fun d => if alive d then rootIterationEnd d c.val elapsed lane else d

/-! ### CHOL and CHOLSOLVE (R154, R155) -/

/-- How a factorisation ends: the rows of U, a pivot failure, or a non-finite value. -/
inductive CholOut where
  | ok (u : Mat)
  | pivot (j : Nat)
  | overflow
  deriving DecidableEq, Repr

/-- s − Σ u[k][j] · u[k][c] over the rows so far, in ascending k. -/
def cholSub (u : Mat) (j c : Nat) (s : Pair) : Pair :=
  u.foldl (fun s row => pfma (pneg (row.getD j (0, 0))) (row.getD c (0, 0)) s) s

/-- chol of R154, row by row. A NaN pivot fails; an infinite one overflows (R158; log entry 96, DEDUCED). -/
def cholRows (a : Mat) (n : Nat) (thr : W32) : List Nat → Mat → CholOut
  | [], u => .ok u
  | j :: js, u =>
    let v := cholSub u j j ((a.getD j []).getD j (0, 0))
    if isNan32 v.1 then .pivot j
    else if isInf32 v.1 then .overflow
    else if !plt (pair32 thr) v then .pivot j
    else
      let ujj := psqrt v
      let row := (List.range n).map fun c =>
        if c < j then (0, 0) else if c = j then ujj else pdiv (cholSub u j c ((a.getD j []).getD c (0, 0))) ujj
      if row.all pfin then cholRows a n thr js (u ++ [row]) else .overflow

def chol (a : Mat) (n : Nat) (thr : W32) : CholOut := cholRows a n thr (List.range n) []

/-- λ_a of attempt `a` (R155). -/
def lambdaAt (tau lam0 maxd : W32) (a : Nat) : W32 :=
  if a = 0 then 0
  else
    let l0 := if !isZero32 lam0 then lam0 else if !isZero32 tau then fmul tau maxd else fmul 0x33800000 maxd
    (List.range (a - 1)).foldl (fun l _ => fmul l 0x40000000) l0

/-- Attempts 0 to 9: `f λ` runs one. The attempt kept, or the last one made with its failing pivot, none where it overflowed. -/
def attempts {α : Type} (f : W32 → α ⊕ Option Nat) (lam : Nat → W32) : List Nat → Nat → (α × Nat) ⊕ (Nat × Option Nat)
  | [], piv => .inr (9, some piv)
  | a :: as, _ =>
    match f (lam a) with
    | .inl x => .inl (x, a)
    | .inr (some p) => attempts f lam as p
    | .inr none => .inr (a, none)

def addDiag (m : Mat) (lam : W32) : Mat :=
  if isZero32 lam then m else m.zipIdx.map fun r => r.1.zipIdx.map fun e => if e.2 = r.2 then padd e.1 (pair32 lam) else e.1

/-- A factorisation with regularisation. -/
def cholReg (w : List W32) (m : Mat) (b : Nat) : (Mat × Nat × W32) ⊕ (Nat × Option Nat) :=
  let maxd := maxDiag (diagOf m)
  let thr := fmul (w.getD 12 0) maxd
  let lam := lambdaAt (w.getD 12 0) (w.getD 13 0) maxd
  match attempts (fun l => match chol (addDiag m l) b thr with | .ok u => .inl u | .pivot j => .inr (some j) | .overflow => .inr none) lam (List.range 10) 0 with
  | .inl (u, a) => .inl (u, a, lam a)
  | .inr x => .inr x

/-- A failed factorisation: PC_PIVOT after attempt 9, or PC_OVERFLOW in the attempt that made a non-finite value. -/
def cholFail (j : Job) (x : Nat × Option Nat) : Job :=
  match x.2 with
  | some p => { failJob j 0x21 with attempts := x.1, pivot := p }
  | none => { failJob j 0x22 with attempts := x.1 }

/-- STATUS and record fields of a kept attempt. -/
def keptAttempt (j : Job) (a : Nat) (lam : W32) : Job :=
  { j with started := true, finished := true, code := 0, attempts := a, lambda := lam, st := if a = 0 then 0 else 512 }

/-- CHOL (R154, R155). -/
def cholJob (d : Dev) (c : Nat) (lane : Option LaneFault) : Dev :=
  startJob d c 2 fun d j =>
    let w := j.words
    let map := jobMap d (ctileNat c) w
    let s := mapSizes map
    let b := s.getD (jobBlk w j.j) 0
    let j := { j with sig := jobSig w map j.j b }
    match readD d w s j.j 0 with
    | .inr code => setJob d c (refuseJob j code)
    | .inl m =>
      if caught lane then jobResidue d c j
      else
      let (m, d) := laneMat d b lane m
      match cholReg w m b with
      | .inr x => setJob d c (cholFail j x)
      | .inl (u, a, lam) =>
        let f := jobFmt w
        let hd := rootHeader b 5 (srcField d w s j.j 8) (srcField d w s j.j 0x10) (1 + (if a = 0 then 0 else 32)) lam 0 f 0 (jobBlk w j.j) j.sig 0 0
        setJob d c { keptAttempt j a lam with out := [(jobOutOff w s j.j, hd ++ symBytes f b (outMat f u))] }

def execChol (c : CTile) (lane : Option LaneFault) (s : State) : Host.Outcome State Fault Refusal :=
  run s fun d => if alive d then cholJob d c.val lane else d

/-- Forward substitution with Uᵀ. -/
def solveLower (u : Mat) (b : List Pair) : List Pair :=
  b.zipIdx.foldl (fun y e =>
    let s := (y.zip u).foldl (fun s k => pfma (pneg (k.2.getD e.2 (0, 0))) k.1 s) e.1
    y ++ [pdiv s ((u.getD e.2 []).getD e.2 (0, 0))]) []

/-- Back substitution with U, in descending row order. -/
def solveUpper (u : Mat) (y : List Pair) : List Pair :=
  (u.zip y).zipIdx.reverse.foldl (fun x e =>
    let s := ((e.1.1.drop (e.2 + 1)).zip x).foldl (fun s k => pfma (pneg k.1) k.2 s) e.1.2
    pdiv s (e.1.1.getD e.2 (0, 0)) :: x) []

/-- Right-hand-side rows of a solve. -/
def readRhs (d : Dev) (w : List W32) (n : Nat) : Mat :=
  (List.range (jobNrhs w)).map fun r => rowPairs 8 (allocRead d (wordAt w 5) (wordAt w 6 + r * roundUp (4 * n) 64) (4 * n)) n

def rhsOut (w : List W32) (n : Nat) (x : Mat) : List (Nat × List Byte) :=
  x.zipIdx.map fun r => (wordAt w 6 + r.2 * roundUp (4 * n) 64, r.1.flatMap fun p => natLe 4 p.1.toNat)

/-- A solve's end: X is written, or a non-finite value ends it PC_OVERFLOW; the fields of the kept attempt stand either way. -/
def solved (w : List W32) (n : Nat) (j : Job) (fin : Bool) (xs : Mat) : Job :=
  if fin && matFin xs then { j with out := rhsOut w n xs } else failJob j 0x22

/-- CHOLSOLVE (R154, R155). -/
def cholsolveJob (d : Dev) (c : Nat) (lane : Option LaneFault) : Dev :=
  startJob d c 3 fun d j =>
    let w := j.words
    let s := mapSizes (jobMap d (ctileNat c) w)
    let b := s.getD (jobBlk w 0) 0
    match readD d w s 0 (rhsBytes w b) with
    | .inr code => setJob d c (refuseJob j code)
    | .inl m =>
      if caught lane then jobResidue d c j
      else
      let (m, d) := laneMat d b lane m
      match cholReg w m b with
      | .inr x => setJob d c (cholFail j x)
      | .inl (u, a, lam) =>
        let ys := (readRhs d w b).map (solveLower u)
        let xs := ys.map (solveUpper u)
        setJob (countRead d (wordAt w 5) (wordAt w 6) (rhsBytes w b)) c (solved w b (keptAttempt j a lam) (matFin ys) xs)

def execCholsolve (c : CTile) (lane : Option LaneFault) (s : State) : Host.Outcome State Fault Refusal :=
  run s fun d => if alive d then cholsolveJob d c.val lane else d

/-! ### TREESOLVE (R156, R157) -/

/-- aᵀ · b of small blocks, by PFMA in ascending index. -/
def tmul (a b : Mat) : Mat :=
  (cols 6 a).map fun ca => (cols ((b.headD []).length) b).map fun cb =>
    (ca.zip cb).foldl (fun s e => pfma e.1 e.2 s) (0, 0)

def vecT (a : Mat) (z : List Pair) : List Pair := (cols 6 a).map fun ca => (ca.zip z).foldl (fun s e => pfma e.1 e.2 s) (0, 0)
def vecM (a : Mat) (x : List Pair) : List Pair := a.map fun r => (r.zip x).foldl (fun s e => pfma e.1 e.2 s) (0, 0)

/-- A tree being eliminated: the node blocks, and by body the factor and y. -/
structure TreeSt where
  n : List Mat
  l : FMap Mat
  y : FMap Mat
  deriving DecidableEq, Repr

/-- The elimination from the last body up; a pivot failure names 6i + j. -/
def treeElim (parents : List Nat) (e : List Mat) (thr : W32) : List Nat → TreeSt → TreeSt ⊕ Option Nat
  | [], s => .inl s
  | i :: is, s =>
    match chol (s.n.getD i []) 6 thr with
    | .pivot j => .inr (some (6 * i + j))
    | .overflow => .inr none
    | .ok u =>
      let p := parents.getD i 0xFFFF
      let s := { s with l := fput [] s.l i u }
      if p < 0xFFFE then
        let y := cols 6 ((cols 6 (e.getD i [])).map (solveLower u))
        let s := { s with y := fput [] s.y i y, n := s.n.zipIdx.map fun m => if m.2 = p then mmap2 psub m.1 (tmul y y) else m.1 }
        if matFin y && matFin (s.n.getD p []) then treeElim parents e thr is s else .inr none
      else treeElim parents e thr is s

/-- The solve of one right-hand side: z from the last body up, then x from the first. -/
def treeRhs (parents : List Nat) (s : TreeSt) (b : List (List Pair)) : List (List Pair) :=
  let n := parents.length
  let (_, z) := (List.range n).reverse.foldl (fun (acc : List (List Pair) × List (List Pair)) i =>
    let zi := solveLower (fget [] s.l i) (acc.1.getD i [])
    let p := parents.getD i 0xFFFF
    let b := if p < 0xFFFE then acc.1.zipIdx.map fun v => if v.2 = p then List.zipWith psub v.1 (vecT (fget [] s.y i) zi) else v.1 else acc.1
    (b, zi :: acc.2)) (b, [])
  (List.range n).foldl (fun x i =>
    let p := parents.getD i 0xFFFF
    let zi := z.getD i []
    let wv := if p < 0xFFFE then List.zipWith psub zi (vecM (fget [] s.y i) (x.getD p [])) else zi
    x ++ [solveUpper (fget [] s.l i) wv]) []

/-- TREESOLVE (R141, R156, R157). -/
def treesolveJob (d : Dev) (c : Nat) : Dev :=
  startJob d c 4 fun d j =>
    let w := j.words
    let id := wordAt w 2
    let off := wordAt w 3
    let nb := jobBodies d w
    let use := jobUse d w (off, treeBytes nb) (wordAt w 6, rhsBytes w (6 * nb)) (wordAt w 8, wsBytes w nb)
    if use ≠ 0 then setJob d c (refuseJob j use)
    else
      let h := allocRead d id off 64
      let parents := (List.range nb).map fun i => leNat (allocRead d id (off + 64 + 2 * i) 2)
      let b0 := off + 64 + roundUp (2 * nb) 64
      let blk := fun (o : Nat) => (List.range 6).map fun r => rowPairs 8 (allocRead d id (o + 24 * r) 24) 6
      let ns := (List.range nb).map fun i => blk (b0 + 144 * i)
      let es := (List.range nb).map fun i => blk (b0 + 144 * (nb + i))
      let maxd := maxDiag (ns.flatMap diagOf)
      if recf h 4 4 ≠ 3 ∨ !bitAt (recf h 0x18 4) 0 ∨ !(ns ++ es).all matFin ∨ !flt 0 maxd then setJob d c (failJob j 0x23)
      else
        let thr := fmul (w.getD 12 0) maxd
        let lam := lambdaAt (w.getD 12 0) (w.getD 13 0) maxd
        match attempts (fun l => treeElim parents es thr (List.range nb).reverse ⟨ns.map fun m => addDiag m l, [], []⟩) lam (List.range 10) 0 with
        | .inr x => setJob d c (cholFail j x)
        | .inl (s, a) =>
          let xs := (readRhs d w (6 * nb)).map fun b => (treeRhs parents s (chunksOf 6 b.length b)).flatMap fun v => v
          setJob (countRead d (wordAt w 5) (wordAt w 6) (rhsBytes w (6 * nb))) c (solved w (6 * nb) (keptAttempt j a (lam a)) true xs)

def execTreesolve (c : CTile) (s : State) : Host.Outcome State Fault Refusal :=
  run s fun d => if alive d then treesolveJob d c.val else d

/-! ### HARD_LIMIT_EXPIRY and BLOCK_JOB_END (R151, R161, R162) -/

/-- HARD_LIMIT_EXPIRY (R151): the limit is reached before the write begins, in the direct residual's products too. A started block job whose
command has run whole has reached the limit on its way, so that its pivot or overflow failure counts for nothing; an ended input check, a
residue failure or a poisoned line stands. -/
def hardLimitExpiry (d : Dev) (c : Nat) : Dev :=
  let k := getCurv d c
  match k.job with
  | none => d
  | some j =>
    if !j.ready || k.testing || (testAsked d c && !j.started) || (j.finished && !([0, 0x21, 0x22].contains j.code)) then d
    else hardEnd d c j

def execHardLimitExpiry (c : CTile) (s : State) : Host.Outcome State Fault Refusal :=
  run s fun d => if alive d then hardLimitExpiry d c.val else d

/-- The result record (Table 7-9). -/
def jobRecord (j : Job) (elapsed : Nat) : List Byte :=
  let r := j.root
  natLe 1 j.code ++ natLe 1 (match r with | some r => r.k | none => 0) ++ natLe 1 (match r with | some r => r.kBest | none => 0)
    ++ natLe 1 j.attempts ++ natLe 4 j.st
    ++ natLe 4 (match r with | some r => r.rhoBest.1.toNat | none => 0) ++ natLe 4 j.residDirect.toNat ++ natLe 4 j.lambda.toNat
    ++ natLe 4 (min elapsed 0xFFFFFFFF) ++ natLe 8 (if jobMethod j.words ≤ 2 then j.sig.toNat else 0)
    ++ natLe 4 (if j.code = 0x21 then j.pivot else 0) ++ natLe 4 (if jobMethod j.words = 4 then 0 else jobBlk j.words j.j) ++ zbytes 24

/-- What the end of a successful block job still tests: a poisoned line of the workspace (R162), and the write of its image or X,
which ends 0x11 on a poisoned line that it covers only in part (R209). -/
def jobTested (d : Dev) (t : TileId) (j : Job) : Job :=
  if j.code ≠ 0 then j
  else
    let l := j.out.map fun o => (rangeWrite (unfreed d) (wordAt j.words 5) o.1 o.2.length).1
    let code := firstCode ((0x11, wsPoison d t j) :: [0x11, 0x15, 0x17, 0x40, 0x43].map fun c => (c, l.contains c))
    if code = 0 then j else failJob j code

/-- BLOCK_JOB_END (R140, R142, R144, R161, R162): the image or X is written, then the result record; the window and a workspace that the
block job has used hold undefined bytes; the next block job follows, or the job signals and the script goes on. -/
def blockJobEnd (d : Dev) (c elapsed : Nat) : Dev :=
  let k := getCurv d c
  let t := ctileNat c
  match k.job with
  | none => d
  | some j =>
    if !j.finished || k.testing || (!j.out.isEmpty && anyWaits d [wordAt j.words 5]) then d
    else
      let j := jobTested d t j
      let w := j.words
      let b := jobSize d t j
      let d := j.out.foldl (fun d o => allocWriteOther d (wordAt w 5) o.1 o.2) d
      let d := spUndefine d t (dfield w 9 0 23) 0x300000
      let d := if j.unused then d else allocUndefine (openTraffic d (wordAt w 7)) (wordAt w 7) (wordAt w 8) (wsBytes w b)
      let d := writeOwn d t (dfield w 11 0 23 + 64 * j.j) (jobRecord j elapsed)
      let ok := j.ok + b2n (j.code == 0)
      let first := if j.firstCode = 0 then j.code else j.firstCode
      let d := modCurv d c fun k => { k with script := k.script.map fun p => { p with failed := p.failed + b2n (j.code != 0) } }
      if j.j + 1 < j.total then
        setJob d c { words := w, j := j.j + 1, total := j.total, firstCode := first, ok := ok, ready := true }
      else
        let d := modCurv d c fun k => { k with job := none, script := k.script.map fun p => { p with idx := p.idx + 1, jobAux := first + 256 * (ok % 2 ^ 24) } }
        match semOfNat (signalSemOf w) with
        | some sm => makeSig d ⟨t, sm, 1, .program, none, some t⟩
        | none => d

def execBlockJobEnd (c : CTile) (elapsed : Nat) (s : State) : Host.Outcome State Fault Refusal :=
  run s fun d => if alive d then blockJobEnd d c.val elapsed else d

end Sys2Proof.Machine
end

