-- ==== Sys2Proof/Machine/Deadline.lean ====
section
/-!
DEFINITION. TRANSFER_UNIT_DEADLINE (R206, R207): a transfer unit of any request to a lower tier passes its deadline. The command
names the request and how much of it was done; a request with no operand in tiers 1 to 3 has no such unit, and nothing happens
(log entry 125, DESIGN CHOICE).
-/
namespace Sys2Proof.Machine

/-- A unit of the Grinder's current instruction is late: the program ends (R128). An SCLOSE that is pending reports it with its stream's
blocks when it completes (R122, R135). -/
def grindDeadline (d : Dev) (c : Nat) : Dev :=
  match (getCurv d c).grind with
  | none => d
  | some p =>
    let ids := match p.scPending with | some st => [(strImg (getStream d c st).words 0).1] | none => grindAllocs d c p
    if p.waiting || (getCurv d c).testing || !anyLower d ids then d
    else
      let x := lateCode d (anyTier d ids 2)
      match p.scPending with
      | some st => noteLost x.2 c st (List.range (getStream d c st).sizes.length) (x.1, 0, 0)
      | none => endGrind x.2 c x.1 0 0

/-- A unit of the sweep of stream `st` is late. -/
def sweepDeadline (d : Dev) (c st done : Nat) : Dev :=
  let ids := [(strImg (getStream d c st).words 0).1]
  if (groupsOf st (getCurv d c).sweep).isEmpty || (getCurv d c).testing || !anyLower d ids then d
  else
    let x := lateCode d (anyTier d ids 2)
    sweepLate x.2 c st done x.1

/-- A unit of the Percolator's block job is late: the block job ends and writes nothing (R140). -/
def jobDeadline (d : Dev) (c : Nat) : Dev :=
  match (getCurv d c).job with
  | none => d
  | some j =>
    let ids := [wordAt j.words 2, wordAt j.words 5, wordAt j.words 7]
    if !j.ready || (getCurv d c).testing || (j.finished && j.code != 0) || !anyLower d ids then d
    else
      let x := lateCode d (anyTier d ids 2)
      setJob x.2 c (failJob j x.1)

/-- A unit of the collective on a port's engine is late: the collective ends. Where none is active, it is a unit of the entry that the
engine's program reads, or of that entry's lists: the entry ends. -/
def collDeadline (d : Dev) (p : Nat) : Dev :=
  match d.fab.colls.find? fun k => k.port == p with
  | none =>
    (match fget none d.fab.engines p with
     | none => d
     | some g =>
       if g.waiting || !anyLower d [g.alloc] then d
       else
         let x := lateCode d (anyTier d [g.alloc] 2)
         endEntry x.2 p g.words x.1 0 0)
  | some k =>
    let ids := [wordAt k.words 8, wordAt k.words 10] ++ (if bitAt (wordAt k.words 0) 10 then [wordAt k.words 14] else [])
    if !anyLower d ids then d
    else
      let x := lateCode d (anyTier d ids 2)
      failColl x.2 k x.1

/-- TRANSFER_UNIT_DEADLINE (R206). -/
def requestDeadline (d : Dev) (r : LateReq) (done : Nat) : Dev :=
  match r with
  | .mem src => if memActs d src then memDeadline d src done else d
  | .update t => if tileActs d t then updDeadline d t done else d
  | .precondition t => if tileActs d t then precondition d t none (some done) else d
  | .slowTier => slowDeadline d done
  | .grinder c => grindDeadline d c.val
  | .sweep c st => sweepDeadline d c.val st.val done
  | .percolator c => jobDeadline d c.val
  | .collective p => collDeadline d p.val
  | .image => imageDeadline d

def execTransferUnitDeadline (r : LateReq) (done : Nat) (s : State) : Host.Outcome State Fault Refusal :=
  run s fun d => if alive d then requestDeadline d r done else d

end Sys2Proof.Machine
end

