-- ==== Sys2Proof/Machine/Recorder.lean ====
section
/-!
DEFINITION. The Event Recorder (R388-R395): numbering, folding, the queue of 64, programming to NOR, clearing, and the
operating-seconds journal.
-/
namespace Sys2Proof.Machine

/-- Record bytes (Table 17-6). -/
def recordBytes (recno ops cycle seq code sev flags source_ repeats : Nat) (detail : List Byte) : List Byte :=
  let b := natLe 4 recno ++ natLe 4 ops ++ natLe 4 cycle ++ natLe 4 seq ++ natLe 2 code ++ natLe 1 sev ++ natLe 1 flags
    ++ natLe 4 source_ ++ natLe 4 repeats ++ padTo 32 detail
  b ++ natLe 4 (crc32c b).toNat

/-- Events that never fold (R392). -/
def neverFolds (code : Nat) : Bool := code == 0x0004 || code == 0x0005

/-- A queue entry is free for a severity: four of the 64 are kept for severity 3 (R391). -/
def logRoom (d : Dev) (sev : Nat) : Bool := decide (d.log.queue.length < if sev = 3 then 64 else 60)

/-- Numbers a record: it enters the queue, and a device event goes out on the event vector (R334); that of a
queue's ERROR has gone out with it (R332). (Log entry 74, DEDUCED.) -/
def number (d : Dev) (code sev source_ flags repeats : Nat) (detail : List Byte) : Dev :=
  let l := d.log
  let r := recordBytes l.total (opSeconds d) l.cycles l.seq code sev flags source_ repeats detail
  let d := modLog d fun l => { l with
    queue := l.queue ++ [(l.total, r)]
    total := l.total + 1
    seq := l.seq + 1
    newestFatal := if sev = 3 then l.total else l.newestFatal }
  if code = 0x0062 then d else interrupt d (dget d 0x2100 6)

/-- An event finds no entry free: it has no number (R391). -/
def dropEvent (d : Dev) : Dev :=
  dieLCtr (modLog (dbump d 0x5000 4 1 32) fun l => { l with droppedSince := l.droppedSince + 1 }) 11 1

/-- EVENTS_DROPPED takes the first unreserved entry that is free. -/
def noteDropped (d : Dev) : Dev :=
  if d.log.droppedSince = 0 ∨ !logRoom d 1 then d
  else number (modLog d fun l => { l with droppedSince := 0 }) 0x0005 1 srcMgmt 0 0 (natLe 4 d.log.droppedSince)

/-- Numbers an event on its own or drops it. -/
def recordAlone (d : Dev) (code sev source_ flags repeats : Nat) (detail : List Byte) : Dev :=
  if logRoom d sev then number d code sev source_ flags repeats detail else dropEvent d

/-- An event reaches the management controller: folded into an open window (R392), or numbered. -/
def takeEvent (d : Dev) (e : Event) : Dev :=
  let same := fun (w : Fold) => w.code == e.code && w.source == e.source
  if e.sev ≤ 2 && !neverFolds e.code && d.log.folds.any same then
    dieLCtr (modLog (dbump d 0x5000 5 1 32) fun l => { l with
      folds := updFirst same (fun w => { w with count := w.count + 1, detail := e.detail }) l.folds }) 12 1
  else if !logRoom d e.sev then dropEvent d
  else
    let d := number d e.code e.sev e.source 0 0 e.detail
    if e.sev ≤ 2 && !neverFolds e.code && decide (d.log.folds.length < 64) then
      modLog d fun l => { l with folds := l.folds ++ [⟨e.code, e.sev, e.source, 0, []⟩] }
    else d

/-- EVENT_RECORD: event `n` of those on their way arrives; none is recorded before start-up step 4 (R395). -/
def eventRecord (d : Dev) (n : Nat) : Dev :=
  match d.log.inbox[n]? with
  | some e =>
    if !d.log.recording then d
    else takeEvent (noteDropped (modLog d fun l => { l with inbox := l.inbox.eraseIdx n })) e
  | none => d

def execEventRecord (n : Nat) (s : State) : Host.Outcome State Fault Refusal :=
  run s fun d => if powered d then eventRecord d n else d

/-- The sideband messages that carry a mailbox frame: the start message and the data messages, the last padded with zeros (R336). -/
def mailboxMessages (id : Nat) (b : List Byte) : List W64 :=
  BitVec.ofNat 64 (b.length + 2 ^ 16 * id) :: (chunksOf 8 b.length b).map fun w => BitVec.ofNat 64 (leNat w)

/-- A response frame leaves by a path; the messages of one mailbox frame follow those of the one before (R336; log entry 142, DESIGN
CHOICE). -/
def reply (d : Dev) (p : Path) (b : List Byte) : Dev :=
  modMgmt d fun m => { m with
    out := m.out ++ [.frame p b]
    mailTx := m.mailTx ++ (match p with | .mailbox id => mailboxMessages id b | _ => []) }

/-- The answer of a WRITE that nothing holds back any more leaves, and the session keeps it (R347, R354). -/
def releaseWrite (d : Dev) : Dev :=
  match d.mgmt.commit with
  | some c =>
    if c.nor ∨ c.recno.isSome then d
    else modMgmt (reply d c.path c.resp) fun m => { m with
      commit := none
      sessions := updWhere (fun s => s.id == c.session) (fun s => { s with kept := c.resp }) m.sessions }
  | none => d

/-- The record at the head of the queue is in NOR. -/
def programHead (d : Dev) : Dev :=
  match d.log.queue with
  | [] => d
  | (n, r) :: q =>
    let d := modLog d fun l => { l with queue := q, nor := fput [] l.nor n r }
    let d := dieLCtr (noteDropped d) 10 1
    releaseWrite (modMgmt d fun m => { m with commit := m.commit.map fun c =>
      { c with ahead := false, recno := if c.recno = some n then none else c.recno } })

/-- A commit of the image holds the records: it goes ahead of them, but not of the one whose program has begun (R391). -/
def recordsWait (d : Dev) : Bool := match d.mgmt.commit with | some c => c.nor && !c.ahead | none => false

/-- RECORD_PROGRAM: the record at the head of the queue is programmed, unless a commit of the image goes first. -/
def recordProgram (d : Dev) : Dev := if recordsWait d then d else programHead d

def execRecordProgram (s : State) : Host.Outcome State Fault Refusal :=
  run s fun d => if powered d then recordProgram d else d

/-- FOLD_WINDOW_CLOSE: a window with folded occurrences leaves one REPEAT record (R392). (Log entry 78, DESIGN CHOICE.) -/
def foldClose (d : Dev) (n : Nat) : Dev :=
  match d.log.folds[n]? with
  | some w =>
    let d := modLog d fun l => { l with folds := l.folds.eraseIdx n }
    if w.count = 0 then d else recordAlone d w.code w.sev w.source 1 w.count w.detail
  | none => d

def execFoldWindowClose (n : Nat) (s : State) : Host.Outcome State Fault Refusal :=
  run s fun d => if powered d then foldClose d n else d

/-- OP_SECONDS_JOURNAL (R389). -/
def execOpSecondsJournal (s : State) : Host.Outcome State Fault Refusal :=
  run s fun d => if powered d then modLog d fun l => { l with journal := opSeconds d } else d

/-! ### Reading and clearing (R390, R393, R394) -/

/-- The lowest readable ring record. -/
def ringFirst (d : Dev) : Nat := max (max 512 (d.log.total - 4096)) d.log.floor

/-- A record as the log window shows it. -/
def readRecord (d : Dev) (n : Nat) : List Byte :=
  if n < d.log.total ∧ (n < 512 ∨ ringFirst d ≤ n) then padTo 64 (fget [] d.log.nor n) else zbytes 64

/-- The 16 records from a cursor on. -/
def logWindow (d : Dev) (cursor : Nat) : List Byte := (List.range 16).flatMap fun i => readRecord d (cursor + i)

def findSession (d : Dev) (ses : Nat) : Option Session := d.mgmt.sessions.find? fun s => s.id == ses
def modSession (d : Dev) (ses : Nat) (f : Session → Session) : Dev :=
  modMgmt d fun m => { m with sessions := updWhere (fun s => s.id == ses) f m.sessions }

/-- LOG_CURSOR: a claim session writes none (R368), and recovery serves none (R364). -/
def execLogCursor (ses v : W32) (s : State) : Host.Outcome State Fault Refusal :=
  run s fun d => if !powered d || d.sec.recovery then d
    else match findSession d ses.toNat with
    | some x => if x.claim then d else modSession d x.id fun x => { x with cursor := v.toNat }
    | none => d

/-- Clears the ring: FLOOR becomes the lowest RECNO not yet programmed, and LOG_CLEARED is numbered. -/
def clearLog (d : Dev) (ses role : Nat) : Dev :=
  let first := ringFirst d
  let floor := match d.log.queue with | (n, _) :: _ => n | [] => d.log.total
  let some_ := decide (first < floor)
  let d := modLog d fun l => { l with floor := floor }
  recordAlone d 0x0004 1 srcMgmt 0 0 (natLe 4 role ++ natLe 4 ses
    ++ natLe 4 (if some_ then first else 0xFFFFFFFF) ++ natLe 4 (if some_ then floor - 1 else 0xFFFFFFFF))

/-- LOG_CLEAR by a Service session. -/
def execLogClear (ses : W32) (s : State) : Host.Outcome State Fault Refusal :=
  run s fun d => if !powered d || d.sec.recovery then d
    else match findSession d ses.toNat with
    | some x => if x.role ≥ 2 && !x.claim then clearLog d x.id x.role else d
    | none => d

/-- What a loss of power or a reset leaves of the queue: the record being programmed, where a commit of the image holds none back,
may be cut short; each of its 0 bits may still read 1 (R391, R397). (Log entry 77, DESIGN CHOICE.) -/
def cutQueue (d : Dev) : Dev :=
  match d.log.queue with
  | [] => d
  | (n, r) :: _ =>
    let (begun, d) := freeNat d
    let d := if begun % 2 = 0 ∨ recordsWait d then d
      else r.zipIdx.foldl (fun d b =>
        let (v, d) := freeNat d
        modLog d fun l => { l with nor := fput [] l.nor n (fget [] l.nor n ++ [b.1 ||| BitVec.ofNat 8 v]) }) d
    modLog d fun l => { l with queue := [] }

end Sys2Proof.Machine
end

