-- ==== Sys2Proof/Machine/Power.lean ====
section
/-!
DEFINITION. Adaptive clocks, neighbour limits, thermal and power throttling (R401-R408). A quad's frequency target stands
`quadStep` steps of 5 % of nominal below nominal: its own steps, or those that grading asks of it (R405).
-/
namespace Sys2Proof.Machine

/-! ### The mesh of a die (R402) -/

def quadAt (n : Nat) : Quad := if h : n < 34 then ⟨n, h⟩ else ⟨0, by omega⟩
def adjacent (a b : Nat) : Bool := quadHops a b == some 1

def quadSource (q : Nat) : Nat := source 3 (q / 17) (q % 17) 0

/-! ### Steps -/

def graded (d : Dev) (q : Nat) : Bool := decide (quadStep d q > (getQuad d q).own)

/-- 0xB005. -/
def throttleBits (d : Dev) (q : Nat) : Nat :=
  let k := getQuad d q
  b2n k.temp + 2 * b2n k.neigh + 4 * b2n k.supply + 8 * b2n (graded d q)

/-- A quad's clock is slowed from now on: stretched (0) or throttled (2). The counters of Table 17-3 see it at the next tally. -/
def noteSlowing (d : Dev) (q ctr : Nat) : Dev := modPower d fun w => { w with slowings := fmod 0 w.slowings (4 * q + ctr) (· + 1) }

/-- The quads that stand below nominal are throttled. -/
def noteThrottled (d : Dev) : Dev := ((List.range 34).filter fun q => decide (quadStep d q > 0)).foldl (fun d q => noteSlowing d q 2) d

/-- Lowers the targets of quads by `n` steps from where they stand, grading included, down to the 50 % floor, all at once; counts the
steps taken (0xB008:01). -/
def lower (d : Dev) (qs : List Nat) (n : Nat) : Dev :=
  noteThrottled ((qs.map fun q => (q, quadStep d q)).foldl (fun d x =>
    dbump (modQuad d x.1 fun k => { k with own := min 10 (x.2 + n) }) 0xB008 1 (min 10 (x.2 + n) - x.2) 32) d)

def throttleEvent (d : Dev) (q cause other : Nat) : Dev := post d 0x0078 1 (quadSource q) (natLe 1 cause ++ natLe 1 other)

/-! ### Droop (R401) -/

/-- The target of a quad's rail in mV. -/
def railTarget (d : Dev) (q : Nat) : Nat := 680 + (Config.railAbove (quadStep d q) (getQuad d q).milliC).val

/-- A warning of a quad's clock and rail monitors (Tables 13-3 and 17-3; log entry 147, DESIGN CHOICE). -/
def monitorWarning (d : Dev) (q : Nat) : Dev := bump d (140 + q) 3 1

/-- DROOP_DETECT: a rail that is more than 15 mV below its target stretches the clock; a smaller difference is no droop. -/
def droopDetect (d : Dev) (q mv : Nat) : Dev :=
  if mv + 15 < railTarget d q then monitorWarning (noteSlowing (modQuad d q fun k => { k with stretch := true, mv := mv }) q 0) q
  else modQuad d q fun k => { k with mv := mv }

def execDroopDetect (q : Quad) (mv : Nat) (s : State) : Host.Outcome State Fault Refusal :=
  run s fun d => if powered d then droopDetect d q.val mv else d

/-- DROOP_END: the droop is over. -/
def execDroopEnd (q : Quad) (s : State) : Host.Outcome State Fault Refusal :=
  run s fun d => if powered d then modQuad d q.val fun k => { k with stretch := false } else d

/-! ### Neighbour limits (R402, R404) -/

def natDiff (a b : Nat) : Nat := (a - b) + (b - a)

/-- Effective frequencies or rail voltages differ beyond their limit of Table 18-2. -/
def overClockRail (m : QuadReadings) : Bool :=
  decide (100 * natDiff m.khz.1 m.khz.2 > 8 * max m.khz.1 m.khz.2) || decide (natDiff m.mv.1 m.mv.2 > 40)

/-- Some difference is beyond its limit of Table 18-2. -/
def overLimit (m : QuadReadings) : Bool := overClockRail m || decide ((m.milliC.1 - m.milliC.2).natAbs > 20000)

/-- Every difference is within its release threshold. -/
def withinRelease (m : QuadReadings) : Bool :=
  decide (100 * natDiff m.khz.1 m.khz.2 ≤ 6 * max m.khz.1 m.khz.2) && decide (natDiff m.mv.1 m.mv.2 ≤ 30)
    && decide ((m.milliC.1 - m.milliC.2).natAbs ≤ 15000)

def pairKey (a b : Nat) : Nat := min a b * 34 + max a b
def pairState_ (d : Dev) (a b : Nat) : Nat := fget 0 d.power.pairs (pairKey a b)

/-- NEIGHBOUR_LIMIT_CHECK: a pair that newly exceeds a limit lowers both targets by one step, with an event each. -/
def limitCheck (d : Dev) (q r : Nat) (m : QuadReadings) : Dev :=
  if !adjacent q r then d
  else
    let d := modQuad d q fun k => { k with khz := m.khz.1, mv := m.mv.1 }
    let d := modQuad d r fun k => { k with khz := m.khz.2, mv := m.mv.2 }
    let old := pairState_ d q r
    let put := fun (d : Dev) (v : Nat) => modPower d fun w => { w with pairs := fput 0 w.pairs (pairKey q r) v }
    if overLimit m then
      if old = 1 then d
      else
        let d := put d 1
        let d := lower d [q, r] 1
        let d := if overClockRail m then monitorWarning (monitorWarning d q) r else d
        let d := modQuad (modQuad d q fun k => { k with neigh := true }) r fun k => { k with neigh := true }
        throttleEvent (throttleEvent d q 1 (r % 17)) r 1 (q % 17)
    else if withinRelease m then put d 0
    else put d 2

def execNeighbourLimitCheck (q r : Quad) (m : QuadReadings) (s : State) : Host.Outcome State Fault Refusal :=
  run s fun d => if powered d then limitCheck d q.val r.val m else d

/-- Whether some pair of the quad is in a state. -/
def anyPair (d : Dev) (q : Nat) (p : Nat → Bool) : Bool := (List.range 34).any fun r => adjacent q r && p (pairState_ d q r)

/-! ### Temperature (R406) -/

/-- THERMAL_SAMPLE (Table 18-3). -/
def thermalSample (d : Dev) (q : Nat) (t : Int) : Dev :=
  let old := (getQuad d q).milliC
  let was := (getQuad d q).temp
  let d := modQuad d q fun k => { k with milliC := t }
  if t ≥ 110000 then failStop d 6
  else if t ≥ 100000 then
    let n := if t ≥ 105000 then 10 else if old < 100000 then 1 else 0
    let d := if n = 0 then d else lower d [q] n
    let d := modQuad d q fun k => { k with temp := true }
    if was && decide (old ≥ 100000) then d else throttleEvent d q 0 0
  else d

def execThermalSample (q : Quad) (milliC : Int) (s : State) : Host.Outcome State Fault Refusal :=
  run s fun d => if powered d then thermalSample d q.val milliC else d

/-! ### Power (R407) -/

/-- A positive binary32 number as a fraction of 2^149. -/
def f32Scaled (b : Nat) : Nat :=
  let e := bitf b 23 8
  if e = 0 then bitf b 0 23 else (2 ^ 23 + bitf b 0 23) * 2 ^ (e - 1)

/-- The samples of the last 1 ms, a new one included. -/
def powerWindow (d : Dev) (mw : Nat) : List Nat := (mw :: d.power.samples).take 100

/-- POWER_SAMPLE: one of the samples, taken every 10 µs, of which 100 make the 1 ms average. An average beyond 0xB007:02 lowers every
quad, by one step at first. -/
def powerSample (d : Dev) (mw : Nat) : Dev :=
  let l := powerWindow d mw
  let limit := f32Scaled (dget d 0xB007 2) * 1000 * l.length
  let v := sumNat l * 2 ^ 149
  let d := modPower d fun w => { w with samples := l, packageMw := sumNat l / l.length }
  let put := fun (n : Nat) => modPower d fun w => { w with supply := n }
  if v > limit then
    if d.power.supply = 0 ∨ (d.power.supply = 2 ∧ !(List.range 34).any fun q => (getQuad d q).supply) then
      let d := (List.range 34).foldl (fun d q => modQuad d q fun k => { k with supply := true }) (lower (put 1) (List.range 34) 1)
      throttleEvent d 0 2 0xFF
    else put 1
  else if 100 * v < 97 * limit then put 0
  else if v = limit ∧ d.power.supply = 1 then put 1
  else put 2

def execPowerSample (milliW : Nat) (s : State) : Host.Outcome State Fault Refusal :=
  run s fun d => if powered d then powerSample d milliW else d

/-! ### Timers (R404, R406, R407) -/

/-- The step timers' tick has already taken note of every quad's target, and quad `q` has not been timed in it. -/
def tickOpen (d : Dev) (q : Nat) : Bool := d.power.tickTc == d.tc + 1 && fget 0 d.power.tickSteps q != 0

/-- Where quad `q` stood when the tick of the step timers began: the grading that the tick itself asks for does not count (R404, R407; log
entry 79, DESIGN CHOICE). -/
def stepBase (d : Dev) (q : Nat) : Nat := if tickOpen d q then fget 0 d.power.tickSteps q - 1 else quadStep d q

/-- Quad `q` has been timed in the tick; the first one notes where every quad stands. -/
def noteTick (d : Dev) (q : Nat) : Dev :=
  let m := if tickOpen d q then d.power.tickSteps else (List.range 34).foldl (fun m r => fput 0 m r (quadStep d r + 1)) []
  modPower d fun w => { w with tickTc := d.tc + 1, tickSteps := fput 0 m q 0 }

/-- The target of quad `q` goes one step below where it stood when the tick began, unless it stands there already. -/
def lowerOne (d : Dev) (q : Nat) : Dev :=
  let b := stepBase d q
  let d := noteTick d q
  if (getQuad d q).own ≥ min 10 (b + 1) then d
  else noteThrottled (dbump (modQuad d q fun k => { k with own := min 10 (b + 1) }) 0xB008 1 (min 10 (b + 1) - b) 32)

/-- THROTTLE_STEP_TIMER: 100 µs later, a cause that still holds lowers the target by one more step. The timers of the quads run out
together. -/
def stepTimer (d : Dev) (q : Nat) : Dev :=
  let beyond := anyPair d q (· == 1)
  let hot := decide ((getQuad d q).milliC ≥ 100000)
  let sup := d.power.supply == 1
  if beyond || hot || sup then
    modQuad (lowerOne d q) q fun k => { k with neigh := k.neigh || beyond, temp := k.temp || hot, supply := k.supply || sup }
  else d

def execThrottleStepTimer (q : Quad) (s : State) : Host.Outcome State Fault Refusal :=
  run s fun d => if powered d then stepTimer d q.val else d

/-- THROTTLE_RELEASE_TIMER: after 1 ms with every cause that throttles the quad within its release threshold the target rises one step;
97 °C and more holds every target. -/
def releaseTimer (d : Dev) (q : Nat) : Dev :=
  let k := getQuad d q
  if k.own = 0 || (k.neigh && anyPair d q (· != 0)) || decide (k.milliC ≥ 97000) || (k.supply && d.power.supply != 0) then d
  else if k.own = 1 then modQuad d q fun k => { k with own := 0, temp := false, neigh := false, supply := false }
  else modQuad d q fun k => { k with own := k.own - 1 }

def execThrottleReleaseTimer (q : Quad) (s : State) : Host.Outcome State Fault Refusal :=
  run s fun d => if powered d then releaseTimer d q.val else d

end Sys2Proof.Machine
end

