-- ==== Sys2Proof/Machine/Security.lean ====
section
/-!
DEFINITION. Secure boot, role keys, attestation and life-cycle (chapter 16). HSS verification and signing are constants of
Config (log entry 2, DESIGN CHOICE). A command that a session makes carries the session's identifier.
-/
namespace Sys2Proof.Machine

/-! ### WDP status codes (Table 15-6) that these entries answer -/

def stOk : Nat := 0
def stReserved : Nat := 1
def stNoEntry : Nat := 2
def stAccess : Nat := 3
def stRole : Nat := 4
def stType : Nat := 5
def stRange : Nat := 6
def stEndurance : Nat := 7
def stState : Nat := 8
def stNotApplied : Nat := 0x0A
def stNorFail : Nat := 0x0D
def stLifecycle : Nat := 0x0E

/-! ### Roles (R344, R368, R374) -/

def roleKeyOf (d : Dev) (r : Nat) : List Byte := fget [] d.sec.roleKeys r
def keyIsSet (d : Dev) (r : Nat) : Bool := !(roleKeyOf d r).isEmpty

/-- Whether a life-cycle state accepts a role (Table 16-6). -/
def stateAccepts (lc r : Nat) : Bool :=
  match lc with
  | 0 | 1 => true
  | 2 => r != 3
  | 3 => r == 0 || r == 3
  | _ => r == 0

/-- The Service key can be claimed: unset, in PROVISIONED or DEPLOYED (R368). -/
def claimable (d : Dev) : Bool := !keyIsSet d 2 && (d.sec.lifecycle == 1 || d.sec.lifecycle == 2)

/-- The role that a key write needs in the present state; none where no key may be written. -/
def keyWriteRole (lc idx : Nat) : Option Nat :=
  match lc with
  | 0 | 3 => some 3
  | 1 | 2 => if idx = 3 then none else some 2
  | _ => none

/-- Status of a write of role key `idx` (0 to 3), decoded to `k`, by a session. -/
def roleKeyStatus (d : Dev) (x : Session) (idx : Nat) (k : List Byte) : Nat :=
  if x.claim then (if idx ≠ 2 ∨ keyIsSet d 2 then stRole else if k.all (· == 0) then stRange else stOk)
  else if x.role < (if idx = 3 then 3 else 2) then stRole
  else match keyWriteRole d.sec.lifecycle idx with
    | none => stLifecycle
    | some r => if x.role < r then stRole else if k.all (· == 0) then stRange else stOk

/-- A key takes effect: later OPENs use it, and every other open session of the role ends (R366). -/
def setRoleKey (d : Dev) (ses idx : Nat) (k : List Byte) : Dev :=
  let d := modSec d fun s => { s with roleKeys := fput [] s.roleKeys idx k }
  modMgmt d fun m => { m with sessions := m.sessions.filter fun x => x.role != idx || x.id == ses }

/-- "WDPK" ‖ INDEX ‖ SUBINDEX ‖ SEQ under the session key (R367). -/
def keyMask (x : Session) (idx seq : Nat) : List Byte :=
  hmac x.key (ascii [0x57, 0x44, 0x50, 0x4B] ++ natLe 2 0x8010 ++ natLe 1 (idx + 1) ++ natLe 4 seq)

def xorBytes (a b : List Byte) : List Byte := List.zipWith (· ^^^ ·) a b

/-- ROLE_KEY: the value as it travels, in the session's next request (R366, R367). A value of another size is refused (Table 15-6
TYPE), and nothing changes; so with a nonce and with firmware data. Recovery serves neither keys, nonces nor life-cycle requests (R364). -/
def roleKeyCmd (d : Dev) (ses r : Nat) (v : List Byte) : Dev :=
  match findSession d ses with
  | none => d
  | some x =>
    let k := xorBytes v (keyMask x r (x.lastSeq + 1))
    if roleKeyStatus d x r k = stOk then setRoleKey d ses r k else d

def execRoleKey (ses : W32) (r : Fin 4) (v : List Byte) (s : State) : Host.Outcome State Fault Refusal :=
  run s fun d => if powered d && !d.sec.recovery && v.length == 32 then roleKeyCmd d ses.toNat r.val v else d

/-! ### Firmware slots (R362-R365) -/

/-- Byte of a slot: programmed since, or as the factory left it. -/
def slotByte (d : Dev) (slot off : Nat) : Byte :=
  match fget 0 (fget [] d.sec.slots slot) off with
  | 0 => Config.factoryByte slot off
  | n + 1 => BitVec.ofNat 8 n

def slotRead (d : Dev) (slot off n : Nat) : List Byte := (List.range n).map fun i => slotByte d slot (off + i)

def slotWrite (d : Dev) (slot off : Nat) (b : List Byte) : Dev :=
  let m := b.zipIdx.foldl (fun m x => fput 0 m (off + x.2) (x.1.toNat + 1)) (fget [] d.sec.slots slot)
  modSec d fun s => { s with slots := fput [] s.slots slot m }

/-- The checks of R363 in order: 0 valid, else the code of 0x8030:06. (Log entry 80, DESIGN CHOICE.) -/
def slotCheck (d : Dev) (slot : Nat) : Nat :=
  let h := slotRead d slot 0 256
  let key := recf h 6 1
  let body := recf h 0x0C 4
  if recf h 0 4 ≠ 0x4B524657 ∨ recf h 4 2 ≠ 1 then 3
  else if hk : key < 4 then
    if key ∈ d.sec.revoked then 4
    else if !Config.hssVerify ⟨key, hk⟩ h (slotRead d slot 0x100 2964) then 3
    else if recf h 0x10 1 ≠ 9 ∨ !bitAt (recf h 0x11 1) 1 then 5
    else if recf h 7 1 < d.sec.svnFused ∨ recf h 7 1 > 63 then 4
    else if body = 0 ∨ body > 8385344 then 6
    else if sha256 (slotRead d slot 0xCC0 body) ≠ (h.drop 0x20).take 32 then 6
    else if !(zeros h 0x12 14 && zeros h 0x40 192 && decide (recf h 0x11 1 < 4)) then 3
    else 0
  else 4

def slotValid (d : Dev) (slot : Nat) : Bool := slotCheck d slot == 0

/-- The slot that is not active. -/
def stagedSlot (d : Dev) : Nat := 1 - d.sec.activeSlot

/-- While the checks run, writes to 0x8030 are refused. -/
def checking (d : Dev) : Bool := d.sec.fwResult == 1

def stageOffsetStatus (d : Dev) (v : Nat) : Nat :=
  if v % 1024 ≠ 0 ∨ v ≥ 8 * 2 ^ 20 then stRange else if checking d then stState else stOk

/-- FW_STAGE_OFFSET: 0 also invalidates the header of the slot that is not active. (Log entry 81, DESIGN CHOICE.) -/
def stageOffset (d : Dev) (v : Nat) : Dev :=
  let d := dset d 0x8030 1 v
  if v = 0 then slotWrite d (stagedSlot d) 0 (zbytes 256) else d

def execFwStageOffset (v : W32) (s : State) : Host.Outcome State Fault Refusal :=
  run s fun d => if powered d && stageOffsetStatus d v.toNat == stOk then stageOffset d v.toNat else d

def stageDataStatus (d : Dev) : Nat :=
  if checking d ∨ d.sec.stageBuf.length ≥ 64 ∨ dget d 0x8030 1 ≥ 8 * 2 ^ 20 then stState else stOk

/-- FW_STAGE_DATA: 1,024 bytes into the 64 KiB buffer, and the offset advances. -/
def stageData (d : Dev) (b : List Byte) : Dev :=
  let off := dget d 0x8030 1
  dset (modSec d fun s => { s with stageBuf := s.stageBuf ++ [(off, b)] }) 0x8030 1 (off + 1024)

def execFwStageData (data : List Byte) (s : State) : Host.Outcome State Fault Refusal :=
  run s fun d => if powered d && data.length == 1024 && stageDataStatus d == stOk then stageData d data else d

/-- Programs the oldest `n` buffered blocks. -/
def programStaged (d : Dev) (n : Nat) : Dev :=
  let d' := (d.sec.stageBuf.take n).foldl (fun d b => slotWrite d (stagedSlot d) b.1 b.2) d
  modSec d' fun s => { s with stageBuf := s.stageBuf.drop n }

def execFwStageBufferProgrammed (n : Nat) (s : State) : Host.Outcome State Fault Refusal :=
  run s fun d => if powered d then programStaged d n else d

/-- FW_COMMIT: the checks start. -/
def fwCommit (d : Dev) : Dev := if checking d then d else modSec d fun s => { s with fwResult := 1 }

def execFwCommit (s : State) : Host.Outcome State Fault Refusal :=
  run s fun d => if powered d then fwCommit d else d

/-- FW_CHECK_COMPLETE: what is still buffered is programmed first; an image that passes becomes the pending slot. -/
def fwCheckComplete (d : Dev) : Dev :=
  if !checking d then d
  else
    let d := programStaged d d.sec.stageBuf.length
    let c := slotCheck d (stagedSlot d)
    if c = 0 then modSec d fun s => { s with fwResult := 2, pending := some (1 - s.activeSlot), pendingFails := 0 }
    else modSec d fun s => { s with fwResult := c }

def execFwCheckComplete (s : State) : Host.Outcome State Fault Refusal :=
  run s fun d => if powered d then fwCheckComplete d else d

/-- A pending image becomes active at READY (R364). -/
def activateFirmware (d : Dev) : Dev :=
  match d.sec.pending with
  | some p =>
    if d.sec.running ≠ p then d
    else
      let svn := recf d.sec.runHeader 7 1
      let d := modSec d fun s => { s with activeSlot := p, pending := none, pendingFails := 0, svnFused := max s.svnFused svn }
      post d 0x0070 0 srcSec (natLe 4 (recf d.sec.runHeader 8 4) ++ natLe 1 svn)
  | none => d

/-- The slot that the boot ROM runs (R363): pending, active, other; none is recovery. -/
def bootSlot (d : Dev) : Option Nat :=
  ((match d.sec.pending with | some p => [p] | none => []) ++ [d.sec.activeSlot, 1 - d.sec.activeSlot]).find? (slotValid d)

/-! ### Attestation (R369-R371) -/

def attestRemaining (d : Dev) : Nat := 1048576 - d.sec.leafUsed

def attestStatus (d : Dev) : Nat := if d.sec.attState = 1 ∨ attestRemaining d = 0 then stState else stOk

/-- ATTEST_NONCE: a report begins; the one before is no longer readable. -/
def attestNonce (d : Dev) (n : List Byte) : Dev :=
  modSec d fun s => { s with attState := 1, nonce := n, report := [], signature := [] }

def execAttestNonce (nonce : List Byte) (s : State) : Host.Outcome State Fault Refusal :=
  run s fun d => if powered d && !d.sec.recovery && nonce.length == 32 && attestStatus d == stOk then attestNonce d nonce else d

/-- The report of Table 16-2. -/
def attestReport (d : Dev) (q : Nat) : List Byte :=
  let h := d.sec.runHeader
  natLe 4 0x52545441 ++ natLe 1 1 ++ natLe 1 d.sec.lifecycle
    ++ natLe 2 (b2n d.sec.pending.isSome + 2 * b2n d.sec.recovery + 4 * dget d 0x1002 4) ++ natLe 8 Config.serial.toNat
    ++ d.sec.nonce ++ sha256 h ++ natLe 4 (recf h 8 4) ++ natLe 1 (recf h 7 1) ++ natLe 1 d.sec.svnFused
    ++ natLe 1 d.sec.transitions ++ zbytes 1 ++ natLe 4 (imageGen d) ++ natLe 4 (opSeconds d) ++ natLe 4 d.log.cycles
    ++ natLe 4 q ++ zbytes 24

/-- ATTEST_REPORT_READY: the next leaf is journalled, the report built and signed. -/
def attestReady (d : Dev) : Dev :=
  if d.sec.attState ≠ 1 then d
  else
    let q := d.sec.leafUsed
    let r := attestReport d q
    modSec d fun s => { s with attState := 2, leafUsed := q + 1, report := r, signature := Config.hssSign q r }

def execAttestReportReady (s : State) : Host.Outcome State Fault Refusal :=
  run s fun d => if powered d then attestReady d else d

/-- 0x8020:02: at no leaves left it reads exhausted. (Log entry 83, DESIGN CHOICE.) -/
def attestShown (d : Dev) : Nat := if attestRemaining d = 0 ∧ d.sec.attState ≠ 1 then 3 else d.sec.attState

/-! ### Life-cycle (R372, R373) -/

/-- The role that a listed transition needs (Table 16-5). -/
def transitionRole (src dst : Nat) : Option Nat :=
  if dst = 4 ∧ src < 4 then some 2
  else match src, dst with
    | 0, 1 => some 3
    | 1, 2 => some 2
    | 1, 3 => some 2
    | 2, 3 => some 2
    | 3, 1 => some 3
    | _, _ => none

/-- Status of a request by a role. -/
def lifecycleStatus (d : Dev) (role target : Nat) : Nat :=
  if role < 2 then stRole
  else match transitionRole d.sec.lifecycle target with
    | none => stLifecycle
    | some r => if role < r then stRole else if d.sec.transitions ≥ 63 then stState else stOk

def requestTransition (d : Dev) (target : Nat) : Dev := modSec d fun s => { s with lifeReq := some target }

def execLifecycleRequest (ses : W32) (target : Byte) (s : State) : Host.Outcome State Fault Refusal :=
  run s fun d => if !powered d || d.sec.recovery then d
    else match findSession d ses.toNat with
    | some x => if !x.claim && lifecycleStatus d x.role target.toNat == stOk then requestTransition d target.toNat else d
    | none => d

/-- Roles whose keys a transition to a state clears. -/
def clearedKeys (dst : Nat) : List Nat := if dst = 3 then [0, 1, 2] else if dst = 4 then [1, 2] else []

/-- The flash key of the old state is destroyed, in the security block and in its store: every FLASH_RO allocation ends (R375, R201). -/
def eraseFlash (d : Dev) : Dev :=
  let flash := d.mem.allocs.filter fun e => match e.2 with | some a => tierOf a == 3 | none => false
  modSec (flash.foldl (fun d e => removeAlloc d e.1) d) fun s => { s with flashKey := none, flashWrapped := [] }

/-- The first start-up of a state generates its flash key, 512 bits of the entropy source, and stores it wrapped (R375). -/
def makeFlashKey (d : Dev) : Dev :=
  if d.sec.flashKey.isSome then d
  else
    let n := d.sec.nonceDraws
    let k := Config.entropy n ++ Config.entropy (n + 1) ++ Config.entropy (n + 2) ++ Config.entropy (n + 3)
    modSec d fun s => { s with flashKey := some k, flashWrapped := Config.wrapKey k, nonceDraws := n + 4 }

/-- What a sector of the flash tier holds before it is encrypted: 4 KiB of an allocation, the records of the allocations, or the
LDPC-protected metadata. -/
def plainSector (d : Dev) (x : FlashPart) : List Byte :=
  match x with
  | .data id n => allocRead d id (4096 * n) 4096
  | .records n => Config.flashRecords n ((allocList d).filterMap fun e => if tierOf e.2 = 3 then some (e.1, e.2.size, e.2.kind, e.2.counter) else none)
  | .ldpc n => Config.flashMeta n

/-- The same as the flash chips hold it: encrypted under the flash key, the sector number as the tweak (R375). The state holds what they
decrypt to. (Log entry 146, DESIGN CHOICE.) -/
def storedSector (d : Dev) (x : FlashPart) : List Byte :=
  match d.sec.flashKey with
  | some k => Config.aesXts k (Config.flashSector x.code.1 x.code.2) (plainSector d x)
  | none => []

/-- Steps 2 and 3 of a transition into the present state: the flash key, the keys and the image. -/
def clearSecrets (d : Dev) : Dev :=
  let lc := d.sec.lifecycle
  let d := eraseFlash d
  let d := modSec d fun s => { s with
    flashTag := s.transitions
    roleKeys := s.roleKeys.filter fun e => !(clearedKeys lc).contains e.1 }
  if lc = 3 ∨ lc = 4 then modSafety (commitDefaults d) fun s => { s with fatalCode := 0, tilesRetired := 0 } else d

/-- The record of an event is in NOR before the device goes on: the queue is programmed in RECNO order. -/
def recordNow (d : Dev) (code sev source_ : Nat) (detail : List Byte) : Dev :=
  let d := number d code sev source_ 0 0 detail
  modLog d fun l => { l with queue := [], nor := l.queue.foldl (fun m e => fput [] m e.1 e.2) l.nor }

/-- The transition without the reset that ends it. (Log entry 84, DESIGN CHOICE.) -/
def transition (d : Dev) (target : Nat) : Dev :=
  let old := d.sec.lifecycle
  let d := modSec d fun s => { s with lifecycle := target, transitions := s.transitions + 1, lifeReq := none }
  recordNow (clearSecrets d) 0x0071 0 srcSec (natLe 1 old ++ natLe 1 target ++ natLe 1 d.sec.transitions)

end Sys2Proof.Machine
end

