-- ==== Sys2Proof/Machine/Startup.lean ====
section
/-!
DEFINITION. Resets and start-up (R411-R417), and the test access port (R428). What each block holds after a reset is its
default of State.lean (R72, R93, R136, R163, R190, R213, R240, R272, R290, R319, R339, R360, R378, R397, R419); what
persists is written out in `resetDev`.
-/
namespace Sys2Proof.Machine

/-! ### What persists -/

/-- A flash allocation after a reset: INVALID if it was open (R201), not torn (R190); POISON_FULL lasts until FREE (Table 9-7).
Its counter stays (log entry 161, DEDUCED). -/
def flashAfter (a : Alloc) : Alloc :=
  { a with invalid := a.invalid || a.flashOpen, flashOpen := false, busy := false, freeing := false, filling := false, torn := false, tornIndex := 0 }

/-- The allocation table after a reset holds the flash allocations, with their bytes (R213, R201). -/
def memAfter (m : MemSt) : MemSt :=
  let allocs := m.allocs.filterMap fun e => match e.2 with
    | some a => if tierOf a = 3 then some (e.1, some (flashAfter a)) else none
    | none => none
  let kept := fun (k : Nat) => allocs.any fun e => e.1 == k / 2 ^ 64 / 64
  { allocs := allocs, tier := m.tier.filter fun e => kept e.1, tierUndef := m.tierUndef.filter fun r => kept r.1 }

/-- Retirements persist; the fatal code and the number of retired tiles stand until the image gives them anew; and a retired tile's number
stays with the spare (R315, R319). -/
def safetyAfter (s : SafetySt) : SafetySt :=
  { fatalCode := s.fatalCode, retired := s.retired, tilesRetired := s.tilesRetired
    spareFor := s.spareFor.filter fun e => (fget none s.retired e.1).isSome }

/-- Keys, fuses, slots, journal and life-cycle persist (R378). -/
def secAfter (s : SecSt) : SecSt :=
  { roleKeys := s.roleKeys, lifecycle := s.lifecycle, transitions := s.transitions, flashTag := s.flashTag, flashKey := s.flashKey
    flashWrapped := s.flashWrapped, slots := s.slots, activeSlot := s.activeSlot, pending := s.pending, pendingFails := s.pendingFails, svnFused := s.svnFused
    revoked := s.revoked, leafUsed := s.leafUsed, nonceDraws := s.nonceDraws }

def logAfter (l : LogSt) : LogSt :=
  { nor := l.nor, total := l.total, floor := l.floor, seq := l.seq, newestFatal := l.newestFatal, cycles := l.cycles
    journal := l.journal, opBase := l.opBase, opTc := l.opTc }

def mgmtAfter (m : MgmtSt) : MgmtSt :=
  { nor0 := m.nor0, nor1 := m.nor1, wear := m.wear, enduranceNoted := m.enduranceNoted }

/-- The fatal code stands in the image from the fail-stop on, and the number of retired tiles from the retirement on (Table 13-9). -/
def keepFatal (d : Dev) : Dev :=
  modMgmt d fun m => match newestCopy m with
    | some (false, c) => { m with nor0 := { c with vals := putKept d c.vals } }
    | some (true, c) => { m with nor1 := { c with vals := putKept d c.vals } }
    | none => m

/-- A commit of the image that a reset cuts short leaves the previous image (R354); whether the other copy was already being
written is a free value. (Log entry 87, DESIGN CHOICE.) -/
def cutCommit (d : Dev) : Dev :=
  if (unsettled d).isEmpty then d
  else
    let (v, d) := freeNat d
    if v % 2 = 0 then d else writeCopy d 0 [] false

/-- A report being prepared may have used its leaf (R371). (Log entry 82, DEDUCED.) -/
def cutAttest (d : Dev) : Dev :=
  if d.sec.attState ≠ 1 then d
  else
    let (v, d) := freeNat d
    modSec d fun s => { s with leafUsed := s.leafUsed + v % 2 }

/-- A pending image that did not reach READY: the third time in succession it is dropped (R364). Before step 4 no image runs yet;
only a STARTUP_TIMEOUT, cause 4, then counts as its failure (R413). -/
def failPending (d : Dev) (cause : Nat) : Dev :=
  let failed := if d.power.step ≥ 4 then d.sec.pending == some d.sec.running else d.sec.pending.isSome && cause == 4
  if d.power.devState != 1 && failed then
    modSec d fun s =>
      if s.pendingFails ≥ 2 then { s with pending := none, pendingFails := 0 } else { s with pendingFails := s.pendingFails + 1 }
  else d

/-- A reset (R411, R412): start-up stands at `step`. -/
def resetDev (d : Dev) (cause step : Nat) : Dev :=
  let d := failPending (cutAttest (cutQueue (keepFatal (cutCommit d)))) cause
  { tc := d.tc, resetTc := d.tc, stamp := d.stamp, fresh := d.fresh
    mem := { memAfter d.mem with hostDown := d.tc }, safety := safetyAfter d.safety, mgmt := mgmtAfter d.mgmt, sec := secAfter d.sec, log := logAfter d.log
    count := { draws := d.count.draws }
    power := { pwrGood := d.power.pwrGood, resetN := d.power.resetN, resetCause := cause, step := step, stepTc := d.tc
               tapIr := d.power.tapIr, trstN := d.power.trstN, tapDr := d.power.tapDr, tapHold := d.power.tapHold, tapOut := d.power.tapOut } }

/-! ### Reset commands -/

/-- PWR_GOOD_FALL (R412): with the rails off nothing runs; records still queued are lost (R391). -/
def pwrGoodFall (d : Dev) : Dev :=
  if !d.power.pwrGood then d
  else
    let d := resetDev d 0 1
    modPower d fun w => { w with pwrGood := false }

def execPwrGoodFall (s : State) : Host.Outcome State Fault Refusal := run s pwrGoodFall

/-- A record whose CRC matches; any other is lost (R391). -/
def recordWhole (r : List Byte) : Bool := recf r 60 4 == (crc32c (r.take 60)).toNat

/-- OP_SECONDS of the newest record in NOR that is not lost. (Log entry 77, DEDUCED.) -/
def newestOps (d : Dev) : Nat :=
  match d.log.nor.reverse.find? fun e => recordWhole e.2 with
  | some (_, r) => recf r 4 4
  | none => 0

/-- Step 2 of a power-on begins: the power-cycle count increments, SEQ begins anew, and operating seconds resume from the larger of
the journal and the newest record (R389). -/
def beginCycle (d : Dev) : Dev :=
  modLog d fun l => { l with
    cycles := min (l.cycles + 1) (2 ^ 24 - 1)
    seq := 0
    opBase := max l.journal (newestOps d)
    opTc := d.tc }

/-- PWR_GOOD_RISE: a POWER_ON start-up from step 2, held before it while RESET_N is low. -/
def pwrGoodRise (d : Dev) : Dev :=
  if d.power.pwrGood then d
  else
    let d := modPower d fun w => { w with pwrGood := true, resetCause := 0, step := if w.resetN then 2 else 1, stepTc := d.tc }
    if d.power.resetN then beginCycle d else d

def execPwrGoodRise (s : State) : Host.Outcome State Fault Refusal := run s pwrGoodRise

/-- RESET_N_ASSERT: the device is held in reset. -/
def resetNAssert (d : Dev) : Dev :=
  if !d.power.resetN then d
  else if !d.power.pwrGood then modPower d fun w => { w with resetN := false }
  else
    let d := resetDev d 1 1
    modPower d fun w => { w with resetN := false }

def execResetNAssert (s : State) : Host.Outcome State Fault Refusal := run s resetNAssert

/-- RESET_N_RELEASE: start-up begins at step 2, that of a power-on if RESET_N has been low since; the EXTEST family is BYPASS from
now on (R428). -/
def resetNRelease (d : Dev) : Dev :=
  if d.power.resetN then d
  else
  let d := if d.power.pwrGood && d.power.resetCause == 0 then beginCycle d else d
  modPower d fun w => { w with
    resetN := true
    step := if w.pwrGood then 2 else w.step
    stepTc := d.tc
    tapIr := if w.tapIr = 0x00 ∨ w.tapIr = 0x03 ∨ w.tapIr = 0x04 then 0xFF else w.tapIr }

def execResetNRelease (s : State) : Host.Outcome State Fault Refusal := run s resetNRelease

/-- DEVICE_RESET: a write of 1 to 0xB001:01 is answered first (R413). -/
def armReset (d : Dev) : Dev := modMgmt d fun m => { m with resetArmed := true }

def execDeviceReset (s : State) : Host.Outcome State Fault Refusal := run s fun d => if powered d && !d.sec.recovery then armReset d else d

/-- DICTIONARY_RESET: 1 ms after the response, which a commit of the image may hold back (R354). -/
def execDictionaryReset (s : State) : Host.Outcome State Fault Refusal :=
  run s fun d => if powered d && d.mgmt.resetArmed && d.mgmt.commit.isNone then resetDev d 2 2 else d

/-- STARTUP_TIMEOUT: no READY within 10 s; a device in recovery, SCRAPPED or FENCED waits for none (log entry 29, DEDUCED). -/
def execStartupTimeout (s : State) : Host.Outcome State Fault Refusal :=
  run s fun d => if powered d && d.power.devState == 0 && !d.sec.recovery && d.sec.lifecycle != 4 then resetDev d 4 2 else d

/-- LIFECYCLE_TRANSITION (R373): the transition requested is carried out once the request has been acknowledged, and the device
resets. -/
def execLifecycleTransition (s : State) : Host.Outcome State Fault Refusal :=
  run s fun d => if !powered d || d.mgmt.commit.isSome then d
    else match d.sec.lifeReq with
    | some t => resetDev (transition d t) 3 2
    | none => d

/-! ### Start-up (Table 18-7) -/

/-- A step begins; 0x1002:02 shows it. -/
def beginStep (d : Dev) (n : Nat) : Dev := modPower d fun w => { w with step := n }

/-- The end of step 3: a life-cycle transition cut short is completed (R373) and a flash key generated where there is none (R375); a
slot runs, or the device is in recovery. -/
def bootFirmware (d : Dev) (ok : Bool) : Dev :=
  let d := makeFlashKey (if d.sec.flashTag = d.sec.transitions then d else clearSecrets d)
  match (if ok then bootSlot d else none) with
  | some s => beginStep (modSec d fun x => { x with running := s, runHeader := slotRead d s 0 0xCC0 }) 4
  | none => modMgmt (modSec d fun x => { x with recovery := true }) fun m => { m with serving := true }

/-- The end of step 4: the image is loaded; a SCRAPPED device goes no further. -/
def loadPersistent (d : Dev) (ok : Bool) : Dev :=
  let d := startServing d ok
  if d.sec.lifecycle = 4 then d else beginStep d 5

/-- Die L reservation in bytes (R193): long buffers are those of ports in LONG mode. -/
def reservation (d : Dev) : Nat :=
  ((List.range 16).foldl (fun n p => n + pcfg d 0x6011 (p + 1) + if dget d 0x6010 (p + 1) = 2 then pcfg d 0x6012 (p + 1) else 0) 289) * 2 ^ 20

/-- The end of step 7: without the link, start-up goes on without the host tier (R322). -/
def endLinkup (d : Dev) : Dev :=
  if d.host.up then d
  else
    let d := if d.host.failedSeqs ≥ 3 then d else post d 0x0061 2 srcUcie (natLe 1 d.host.failedSeqs)
    noteOffline (modHost d fun h => { h with linkPhase := 0 })

/-- Every port not DISABLED trains (R276). -/
def trainPorts (d : Dev) : Dev := (List.range 16).foldl (fun d p => beginTraining d p) d

/-- READY (R417). -/
def ready (d : Dev) : Dev :=
  let ms := (d.tc - d.power.stepTc) / (Config.tclkMhz * 1000)
  let d := modPower d fun w => { w with step := 10, devState := 1, startupMs := ms }
  activateFirmware (post d 0x0003 0 srcDevice (natLe 4 ms))

/-- STARTUP_STEP_COMPLETE: a step ends, or reaches its limit or fails. -/
def stepComplete (d : Dev) (ok : Bool) : Dev :=
  if d.power.devState ≠ 0 ∨ d.sec.recovery then d
  else match d.power.step with
  | 2 => if ok then beginStep d 3 else failStop d 5
  | 3 => bootFirmware d ok
  | 4 => if d.mgmt.serving then d else loadPersistent d ok
  | 5 => if ok then beginStep d 6 else failStop d 4
  | 6 => if ok then beginLinkup (beginStep (modMem d fun m => { m with hbmReserved := reservation d }) 7) else failStop d 4
  | 7 => trainPorts (beginStep (endLinkup d) 8)
  | 8 => beginStep d 9
  | 9 => ready d
  | _ => d

def execStartupStepComplete (ok : Bool) (s : State) : Host.Outcome State Fault Refusal :=
  run s fun d => if powered d then stepComplete d ok else d

/-! ### Test access (R427, R428) -/

/-- The instruction that a code loads: an unlisted code, and the EXTEST family while RESET_N is high, act as BYPASS. -/
def tapLoad (resetN : Bool) (code : Nat) : Nat :=
  if code = 1 ∨ code = 2 then code
  else if (code = 0 ∨ code = 3 ∨ code = 4) ∧ !resetN then code
  else 0xFF

/-- The EXTEST family is loaded. -/
def tapExtest (w : PowerSt) : Bool := w.tapIr == 0 || w.tapIr == 3 || w.tapIr == 4

/-- Signal balls in the boundary-scan register, one cell each (log entry 144, DESIGN CHOICE): four for each of 9 lanes of 16 ports, 21
for each of 8 flash channels, and the 8 of Table 19-6 that are neither reference clocks nor the TAP's own. -/
def boundaryCells : Nat := 16 * 9 * 4 + 8 * 21 + 8

/-- IDCODE, bit 0 first. -/
def idcodeBits : List Bool := (List.range 32).map fun i => bitAt 0x1B009553 i

/-- What the data register that an instruction selects captures: IDCODE, the zero of the one-bit bypass register, or the levels of the
balls. -/
def tapCapture (w : PowerSt) (balls : List Bool) : List Bool :=
  if w.tapIr = 1 then idcodeBits
  else if w.tapIr = 0xFF then [false]
  else (balls ++ List.replicate boundaryCells false).take boundaryCells

/-- A scan of the selected data register: capture, a shift of `tdi` from TDI toward TDO, update. SAMPLE/PRELOAD and the EXTEST family
put what was shifted in into the update latches. -/
def tapScan (w : PowerSt) (balls tdi : List Bool) : PowerSt :=
  let all := tapCapture w balls ++ tdi
  let dr := all.drop tdi.length
  { w with tapDr := dr, tapOut := all.take tdi.length, tapHold := if w.tapIr = 1 ∨ w.tapIr = 0xFF then w.tapHold else dr }

/-- The level that the TAP drives on ball `n`: the EXTEST family takes control of the balls from the update latches, while RESET_N is
low; none leaves the ball to the device. -/
def tapDrives (d : Dev) (n : Nat) : Option Bool := if tapExtest d.power && !d.power.resetN then d.power.tapHold[n]? else none

/-- A TAP command. TRST_N low holds the TAP in reset, with IDCODE loaded. (Log entry 144, PRESUMED.) -/
def tapCmd (w : PowerSt) (x : TapOp) : PowerSt :=
  match x with
  | .trst high => if high then { w with trstN := true } else { w with trstN := false, tapIr := 1 }
  | .load code => if w.trstN then { w with tapIr := tapLoad w.resetN code.toNat } else w
  | .scan balls tdi => if w.trstN then tapScan w balls tdi else w

def execTapInstruction (x : TapOp) (s : State) : Host.Outcome State Fault Refusal :=
  run s fun d => modPower d fun w => tapCmd w x

/-- The level of FAULT_N: low while 0x1002:01 is 2, and released by reset (R304, R427). -/
def faultN (d : Dev) : Bool := d.power.devState != 2

end Sys2Proof.Machine
end

