-- ==== Sys2Proof/Machine/Values.lean ====
section
/-!
DEFINITION. Reading and writing dictionary values (R349-R352): the value of every entry, the conditions on a written value,
and what a write does.
-/
namespace Sys2Proof.Machine

/-! ### Values read -/

/-- Whole milli-units as binary32. -/
def milliF32 (v : Int) : Nat := (ratio32 (decide (v < 0)) (v.natAbs * 2 ^ 149) 1000).toNat

def quadRow (d : Dev) (sub : Nat) : QuadSt := getQuad d (sub - 1)

def lockoutBits (d : Dev) : Nat := (List.range 4).foldl (fun n r => n + if fget false d.mgmt.lockout r then 2 ^ r else 0) 0
def keysSetBits (d : Dev) : Nat := (List.range 4).foldl (fun n r => n + if keyIsSet d r then 2 ^ r else 0) 0

/-- 0x7010:06: the retired tile of each compute die. -/
def retiredShown (d : Dev) : Nat := (fget none d.safety.retired 0).getD 0xFF + 256 * (fget none d.safety.retired 1).getD 0xFF

/-- The value of an entry that shows other state; none where the dictionary itself holds it. -/
def liveVal (d : Dev) (x : Option Session) (i s : Nat) : Option Nat :=
  let k := getPort d (s - 1)
  match i, s with
  | 0x1000, 4 => some Config.serial.toNat
  | 0x1000, 5 => some 0xB0
  | 0x1000, 6 => some Config.tclkMhz
  | 0x1000, 7 => some (if Config.hostH2 then 2 else 1)
  | 0x1000, 8 => some (fwVersion d)
  | 0x1000, 9 => some Config.mac.toNat
  | 0x1000, 10 => some Config.boardPos.val
  | 0x1000, 11 => some 1
  | 0x1000, 12 => some 9
  | 0x1002, 1 => some d.power.devState
  | 0x1002, 2 => some d.power.step
  | 0x1002, 3 => some d.power.resetCause
  | 0x1002, 5 => some (imageGen d)
  | 0x1002, 7 => some (opSeconds d)
  | 0x1002, 8 => some d.log.cycles
  | 0x2100, 1 => some (if d.host.up then 2 else if d.host.linkPhase = 0 then 0 else 1)
  | 0x2106, q => some (if queueOn d (q - 1) then (if (getHQ d (q - 1)).error then 2 else 1) else 0)
  | 0x2200, 1 => some d.mgmt.t1s
  | 0x2200, 2 => some d.mgmt.sessions.length
  | 0x2200, 5 => some (lockoutBits d)
  | 0x2200, 6 => some d.mgmt.nodeActive
  | 0x4000, 1 => some 3
  | 0x4000, 2 => some d.count.seq
  | 0x4004, 2 => some d.count.windowSeq
  | 0x4010, c => some (selectionOf d false (c - 1))
  | 0x4011, c => some (selectionOf d true (c - 1))
  | 0x5000, 1 => some (min d.log.total 512)
  | 0x5000, 2 => some d.log.total
  | 0x5000, 3 => some d.log.floor
  | 0x5000, 6 => some d.log.newestFatal
  | 0x5001, 1 => some (match x with | some x => x.cursor | none => 0)
  | 0x6002, 1 => some 7
  | 0x6002, 2 => some 5
  | 0x6013, _ => some k.state
  | 0x6022, _ => some k.peerFaddr
  | 0x6023, _ => some k.peerSerial
  | 0x6024, _ => some k.peerInfo
  | 0x6025, _ => some k.reason
  | 0x6026, p => some (if portUp d (p - 1) then k.negRev else 0)
  | 0x7001, 1 => some d.safety.pairState
  | 0x7001, 2 => some (getPort d 15).peerSerial
  | 0x7001, 4 => some d.safety.fatalCode
  | 0x7010, 4 => some d.safety.tilesRetired
  | 0x7010, 6 => some (retiredShown d)
  | 0x8001, 1 => some d.sec.lifecycle
  | 0x8001, 3 => some d.sec.transitions
  | 0x8011, 1 => some (keysSetBits d)
  | 0x8020, 2 => some (attestShown d)
  | 0x8020, 3 => some (attestRemaining d)
  | 0x8030, 4 => some (d.sec.activeSlot + (match d.sec.pending with | some p => 2 * p + 4 | none => 0))
  | 0x8030, 5 => some d.sec.svnFused
  | 0x8030, 6 => some d.sec.fwResult
  | 0xA001, 1 => some (hbmCapacity d)
  | 0xA001, 2 => some (hbmCapacity d - tierUsed d 1)
  | 0xA001, 3 => some (hostAvailable d)
  | 0xA001, 4 => some Config.flashBytes
  | 0xA003, 3 => some (poisonedNow d)
  | 0xB002, _ => some ((quadRow d s).khz / 1000)
  | 0xB003, _ => some (quadRow d s).mv
  | 0xB004, _ => some (milliF32 (quadRow d s).milliC)
  | 0xB005, q => some (throttleBits d (q - 1))
  | 0xB006, 1 => some (milliF32 ((List.range 34).foldl (fun m q => max m (getQuad d q).milliC) (getQuad d 0).milliC))
  | 0xB007, 1 => some (milliF32 d.power.packageMw)
  | 0xB009, 1 => some d.power.startupMs
  | _, _ => none

/-- 0x6019 counts cycles: those of a stall that has stood since it was last tallied are not counted yet (R254). -/
def openEntry (d : Dev) (i s : Nat) : Bool := i == 0x6019 && (getPort d (s - 1)).stalled

def part (b : List Byte) (n : Nat) : List Byte := padTo 1024 (b.drop (1024 * n))

/-- Bytes of a STR or BLOB entry; none where they cannot be read in the present state. -/
def blobVal (d : Dev) (x : Option Session) (i s : Nat) : Option (List Byte) :=
  match i, s with
  | 0x1000, 1 => some (ascii [0x4B, 0x72, 0x6F, 0x76, 0x64, 0x61, 0x72])
  | 0x1000, 2 => some (ascii [0x4F, 0x6C, 0x75, 0x65, 0x6E, 0x20, 0x39])
  | 0x1000, 3 => some (ascii ([0x4F, 0x4C, 0x39, 0x2D] ++ (if Config.grade2000 then [0x32, 0x30, 0x30, 0x30] else [0x32, 0x32, 0x35, 0x30])
      ++ [0x2D, 0x48] ++ (if Config.hostH2 then [0x32] else [0x31])))
  | 0x3100, 3 => some (natLe 16 (dget d 0x3100 3))
  | 0x4005, n => some (part d.count.window (n - 1))
  | 0x5001, 2 => some (logWindow d (match x with | some x => x.cursor | none => 0))
  | 0x7002, 3 => some (padTo 64 d.safety.failRecord)
  | 0x8021, 1 => if d.sec.attState = 2 then some (padTo 128 d.sec.report) else none
  | 0x8021, n => if d.sec.attState = 2 then some (part d.sec.signature (n - 2)) else none
  | 0x8022, 1 => some (padTo 60 Config.identityKey)
  | 0x8022, n => some (part Config.identityEndorsement (n - 2))
  | _, _ => none

/-- The value of an entry as it travels: a status and its bytes. -/
def readValue (d : Dev) (x : Option Session) (i s : Nat) (e : Entry) : Nat × List Byte × Dev :=
  if e.ty ≥ 8 then
    match blobVal d x i s with
    | some b => (stOk, b, d)
    | none => (stState, [], d)
  else
  let d := if openEntry d i s then tallyStall d (s - 1) else d
  match liveVal d x i s with
    | some v => (stOk, natLe e.len v, d)
    | none => (stOk, natLe e.len (dget d i s), d)

/-! ### Conditions on a written value (R349, R352 and the entries' own) -/

def within (lo hi v : Nat) : Nat := if lo ≤ v ∧ v ≤ hi then stOk else stRange
def firstStatus : List Nat → Nat
  | [] => stOk
  | s :: r => if s = stOk then firstStatus r else s

/-- Whether the image destination is acceptable (R387). -/
def imageDest (d : Dev) (id slots : Nat) : Bool :=
  id == 0 || match getAlloc d id with
    | some a => a.kind == 0 && (tierOf a == 1 || tierOf a == 2) && decide (a.size ≥ 12288 * slots)
    | none => false

/-- A HOST allocation lies in a pool (R328). -/
def poolUsed (d : Dev) (n : Nat) : Bool :=
  (hostTaken d).any fun t => decide (dget d 0x2110 n ≤ t.1) && decide (t.1 < dget d 0x2110 n + dget d 0x2111 n)

/-- The modes that Table 11-1 permits a port. -/
def modePermitted (p v : Nat) : Bool :=
  if p < 7 then v == 0 || v == 3 else if p < 15 then decide (1 ≤ v) && decide (v ≤ 3) else v == 0

/-- The 128-bit address that 16 bytes in network order spell. -/
def addrOf (v : Nat) : Nat := leNat (natLe 16 v).reverse

/-- R359: an address that is multicast, link-local, loopback or unspecified is refused; zero removes the address. -/
def staticOk (v : Nat) : Bool :=
  let a := addrOf v
  v == 0 || !(a / 2 ^ 120 == 0xFF || a / 2 ^ 118 == 0x3FA || a == 1)

/-- The status that an entry's own range and conditions give a value of the right size. -/
def valueStatus (d : Dev) (i s : Nat) (e : Entry) (v : Nat) : Nat :=
  if e.ty = 1 ∧ v > 1 then stRange
  else if e.ty = 7 ∧ v % 2 ^ 31 > 0x7F800000 then stRange
  else
  let qOff := if queueOn d (s - 1) then stState else stOk
  match i, s with
  | 0x1002, 4 => if v = 0 then stOk else stRange
  | 0x2100, 7 => within 0 1000 v
  | 0x2101, _ | 0x2103, _ => firstStatus [if v % 4096 = 0 ∧ v < 2 ^ 52 then stOk else stRange, qOff]
  | 0x2102, _ => firstStatus [within 4 12 (v % 16), within 4 12 (v / 16), qOff]
  | 0x2104, _ => qOff
  | 0x2105, _ => if v = 1 ∧ d.power.devState ≠ 1 then stState else stOk
  | 0x2110, n => firstStatus [if v % 2 ^ 21 = 0 ∧ v < 2 ^ 52 then stOk else stRange, if poolUsed d n then stState else stOk]
  | 0x2111, n => firstStatus [if v % 2 ^ 21 = 0 then stOk else stRange, if poolUsed d n then stState else stOk]
  | 0x3100, 1 => if v = 0xFF then stOk else within 1 31 v
  | 0x3100, 2 => within 2 32 v
  | 0x3100, 3 => if staticOk v then stOk else stRange
  | 0x3100, 4 => within 1 128 v
  | 0x3100, 5 => within 10 3600 v
  | 0x4001, 1 => firstStatus [within 0 1 v, if d.count.busy.isSome then stState else stOk]
  | 0x4002, 1 => if v = 0 then stOk else within 100 1000000 v
  | 0x4002, 2 => within 0 1 v
  | 0x4003, 1 => if imageDest d v (dget d 0x4003 2) then stOk else stRange
  | 0x4003, 2 => firstStatus [within 1 65535 v, if imageDest d (dget d 0x4003 1) v then stOk else stRange]
  | 0x4010, _ => if selOk false v then stOk else stRange
  | 0x4011, _ => if selOk true v then stOk else stRange
  | 0x4013, _ => if v < 2 ^ 48 then stOk else stReserved
  | 0x6001, 1 => if v % 256 ≤ 7 then stOk else stRange
  | 0x6010, p => if modePermitted (p - 1) v then stOk else stRange
  | 0x6011, p => firstStatus [within 1 4096 v, if v + dget d 0x6012 p ≤ 4096 then stOk else stRange]
  | 0x6012, p => if v = 0 then stOk
      else firstStatus [within 2 4094 v, if dget d 0x6010 p = 2 ∧ v + dget d 0x6011 p ≤ 4096 then stOk else stRange]
  | 0x6020, _ => if v / 2 ^ 42 ≠ 0 then stReserved else if bitf v 40 2 = 3 then stRange else stOk
  | 0x7002, 1 => if v / 2 ^ 14 ≠ 0 then stReserved
      else if (bitf v 8 6 < 48 ∨ bitf v 8 6 = 63) ∧ !(decide (0x44 ≤ v % 128) && decide (v % 128 ≤ 0x7E)) then stOk else stRange
  | 0x7011, 1 => if v / 2 ^ 10 ≠ 0 then stReserved else if !requestOk v then stRange else if requestFits d v then stOk else stState
  | 0x8030, 1 => stageOffsetStatus d v
  | 0x8030, 2 => stageDataStatus d
  | 0x8030, 3 => if checking d then stState else stOk
  | 0x8020, 1 => attestStatus d
  | 0x9010, 1 => within 0 2 v
  | 0x9010, 2 => if v < 2 ^ 31 ∧ v ≠ 0 then stOk else stRange
  | 0xA002, 1 => within 5 1000 v
  | 0xA002, 2 => within 50 100000 v
  | 0xA002, 3 => within 1000 1000000 v
  | 0xB007, 2 => within 0x44160000 0x44960000 v
  | _, _ => stOk

/-- Wear count of an entry (R355). -/
def wearOf (d : Dev) (i s : Nat) : Nat := if isRwp i s then fget 0 d.mgmt.wear (ekey i s) else 0xFFFFFFFF

/-- A write that would change a worn-out entry (R355). -/
def wornOut (d : Dev) (i s v : Nat) : Bool := isRwp i s && decide (v ≠ dget d i s) && decide (wearOf d i s ≥ 100000)

/-- A refusal with ENDURANCE is counted, and recorded once per entry. -/
def noteEndurance (d : Dev) (i s : Nat) : Dev :=
  let d := dbump d 0x1002 6 1 32
  if fget false d.mgmt.enduranceNoted (ekey i s) then d
  else modMgmt (post d 0x0008 1 srcNor (natLe 2 i ++ natLe 1 s)) fun m => { m with enduranceNoted := fput false m.enduranceNoted (ekey i s) true }

/-- One commit that changes an entry wears it once. -/
def wear (d : Dev) (i s : Nat) : Dev := modMgmt d fun m => { m with wear := fmod 0 m.wear (ekey i s) (· + 1) }

/-! ### What a write does -/

def portOf (s : Nat) : Nat := s - 1

/-- A change of port mode, wiring or fabric address: the ports concerned train again (R280, R289), unless the device has fail-stopped (R304).
(Log entry 55, DESIGN CHOICE.) -/
def writePort (d : Dev) (i s v : Nat) : Dev :=
  let d := dset d i s v
  if !alive d then d else if i = 0x6001 then retrainAll d else retrainPort d (portOf s)

/-- A new mask of marked semaphores counts the waits that stand (R103, R382), and what the old one counted has been counted. -/
def writeMask (d : Dev) (v : Nat) : Dev :=
  (List.finRange 136).foldl remark (modCount (dset (tally d) 0x4013 1 v) fun c => { c with marked := [] })

/-- Applies a value to an entry: its own behaviour, or its new value. `b` holds the bytes of a BLOB. -/
def applyValue (d : Dev) (x : Option Session) (i s v : Nat) (b : List Byte) : Dev :=
  let ses := match x with | some x => x.id | none => 0
  let role := match x with | some x => x.role | none => 0
  match i, s with
  | 0x2105, q => if h : q - 1 < 64 then qEnable d ⟨q - 1, h⟩ (v == 1) else d
  | 0x4001, 1 => requestImage d v
  | 0x4010, c => eventSelect d false (c - 1) v
  | 0x4011, c => eventSelect d true (c - 1) v
  | 0x4013, _ => writeMask d v
  | 0x5001, 1 => modSession d ses fun x => { x with cursor := v }
  | 0x5002, 1 => if v = 1 then clearLog d ses role else d
  | 0x6001, _ | 0x6010, _ | 0x6020, _ => writePort d i s v
  | 0x6021, p => if v = 1 ∧ alive d then retrainPort d (portOf p) else d
  | 0x7001, 5 => if v = 1 then failStop d 8 else d
  | 0x7011, 1 => requestTest d (bitf v 8 1) (requestSlot v) false
  | 0x8001, 2 => requestTransition d v
  | 0x8010, k => setRoleKey d ses (k - 1) b
  | 0x8020, 1 => attestNonce d b
  | 0x8030, 1 => stageOffset d v
  | 0x8030, 2 => stageData d b
  | 0x8030, 3 => if v = 1 then fwCommit d else d
  | 0xB001, 1 => if v = 1 then armReset d else d
  | _, _ => dset d i s v

/-- Entries whose write only replaces the value. -/
def plainEntry (i s : Nat) : Bool :=
  match entryAt i s with
  | some e => (e.acc == 1 || e.acc == 2) && !(i ∈ [0x2105, 0x4010, 0x4011, 0x4013, 0x5001, 0x6001, 0x6010, 0x6020, 0x8030])
      && !(i == 0x3100 && (s == 3 || s == 4))
  | none => false

/-- Entries of access RW or RWP whose write does more than replace a value, and needs no session. -/
def actingEntry (i s : Nat) : Bool :=
  (entryAt i s).isSome && (i ∈ [0x2105, 0x4010, 0x4011, 0x4013, 0x6001, 0x6010, 0x6020])

/-- REGISTER_WRITE, once the persistent image has been loaded (R341, R356): the new value of a plain entry, or what the write of an acting
one does; a change of a persistent one is committed and wears it. -/
def registerWrite (d : Dev) (i s v : Nat) : Dev :=
  match entryAt i s with
  | none => d
  | some e =>
    if !(plainEntry i s || actingEntry i s) ∨ v ≥ 2 ^ (8 * e.len) ∨ valueStatus d i s e v ≠ stOk then d
    else if wornOut d i s v then noteEndurance d i s
    else
      let d' := if plainEntry i s then dset d i s v else applyValue d none i s v []
      if e.acc = 2 ∧ v ≠ dget d i s then commitImage (wear (keepOld d' i s v) i s) else d'

def execRegisterWrite (index : W16) (sub : Byte) (v : Nat) (s : State) : Host.Outcome State Fault Refusal :=
  run s fun d =>
    if powered d && d.mgmt.serving && (!d.sec.recovery || index == 0x1002 || index == 0x8030) then registerWrite d index.toNat sub.toNat v else d

/-! ### Addresses of the management port (R341, R348) -/

/-- fe80::/64 with the modified EUI-64 interface identifier of the MAC address. -/
def linkLocal : Nat :=
  let m := Config.mac.toNat
  0xFE80 * 2 ^ 112 + (m / 2 ^ 24 ^^^ 0x020000) * 2 ^ 40 + 0xFFFE * 2 ^ 24 + m % 2 ^ 24

/-- The further address as a number; none when the entry is zero. -/
def furtherAddr (d : Dev) : Option Nat := if dget d 0x3100 3 = 0 then none else some (addrOf (dget d 0x3100 3))

def ownIp (d : Dev) (a : Nat) : Bool := a == linkLocal || some a == furtherAddr d

/-- Ends the sessions opened to an address. -/
def endSessionsAt (d : Dev) (a : Option Nat) : Dev :=
  modMgmt d fun m => { m with sessions := m.sessions.filter fun x => match x.path, a with
    | .udp _ _ dst, some a => dst.toNat != a
    | _, _ => true }

/-- STATIC_IPV6_WRITE: a committed change of the further address or its prefix length ends the sessions opened to it;
a worn-out entry refuses it with ENDURANCE. -/
def staticWrite (d : Dev) (addr plen : Nat) : Dev :=
  let v := addrOf addr
  let good := staticOk v && decide (1 ≤ plen) && decide (plen ≤ 128)
  let bad := !good || wornOut d 0x3100 3 v || wornOut d 0x3100 4 plen
  let da := decide (v ≠ dget d 0x3100 3)
  let dp := decide (plen ≠ dget d 0x3100 4)
  let worn := (if wornOut d 0x3100 3 v then [3] else []) ++ (if wornOut d 0x3100 4 plen then [4] else [])
  if bad || !(da || dp) then (if good then worn.foldl (fun d s => noteEndurance d 0x3100 s) d else d)
  else
    let old := furtherAddr d
    let put := fun (d : Dev) (s n : Nat) => wear (keepOld (dset d 0x3100 s n) 0x3100 s n) 0x3100 s
    let d := if da then put d 3 v else d
    let d := if dp then put d 4 plen else d
    endSessionsAt (commitImage d) old

def execStaticIpv6Write (addr : BitVec 128) (plen : Byte) (s : State) : Host.Outcome State Fault Refusal :=
  run s fun d => if powered d && d.mgmt.serving && !d.sec.recovery then staticWrite d addr.toNat plen.toNat else d

end Sys2Proof.Machine
end

