-- ==== Sys2Proof/Machine/Mgmt.lean ====
section
/-!
DEFINITION. The management port, the mailbox and the Wealan Dictionary Protocol (chapters 14 and 15): frames, sessions,
READ and WRITE, commits of the persistent image. The frame at the head of the queue is handled by the command that bears
its OP; a head frame with an unlisted OP is answered by whichever of them comes (log entry 30, DESIGN CHOICE).
-/
namespace Sys2Proof.Machine

/-! ### Frames arrive (R336, R341-R343) -/

def discardFrame (d : Dev) : Dev := dbump d 0x2200 4 1 32
def authFail (d : Dev) : Dev := dbump d 0x2200 3 1 32

/-- The rules of R342 for a frame received: size, MAGIC, VERSION, KIND, LENGTH, and over the mailbox FRAME_ID. -/
def frameOk (p : Path) (b : List Byte) : Bool :=
  decide (64 ≤ b.length) && decide (b.length ≤ 1280) && b.length % 4 == 0 && recf b 0 2 == 0x5057 && recf b 2 1 == 1
    && recf b 3 1 == 1 && recf b 4 2 == b.length && (match p with | .mailbox id => recf b 6 2 == id | _ => true)

/-- A frame joins the queue of 16, or is discarded. -/
def frameIn (d : Dev) (p : Path) (b : List Byte) : Dev :=
  if !frameOk p b || decide (d.mgmt.frames.length ≥ 16) then discardFrame d
  else modMgmt d fun m => { m with frames := m.frames ++ [(p, b)] }

/-- The management port serves: from start-up step 4, but not in recovery. -/
def portServes (d : Dev) : Bool := powered d && d.mgmt.serving && !d.sec.recovery

/-- WDP_DATAGRAM: a bad checksum, a fragment, another port or another address discards it. -/
def datagram (d : Dev) (g : Datagram) : Dev :=
  if !portServes d || !ownIp d g.dst.toNat || !g.checksumOk || g.fragmented || g.dstPort != 4810 then d
  else frameIn d (.udp g.src g.srcPort g.dst) g.payload

def execWdpDatagram (g : Datagram) (s : State) : Host.Outcome State Fault Refusal := run s fun d => datagram d g

/-- NEIGHBOUR_SOLICITATION. -/
def execNeighbourSolicitation (src target : BitVec 128) (s : State) : Host.Outcome State Fault Refusal :=
  run s fun d => if portServes d && ownIp d target.toNat then modMgmt d fun m => { m with out := m.out ++ [.advert src target] } else d

/-- ECHO_REQUEST. -/
def execEchoRequest (src dst : BitVec 128) (payload : List Byte) (s : State) : Host.Outcome State Fault Refusal :=
  run s fun d => if portServes d && ownIp d dst.toNat then modMgmt d fun m => { m with out := m.out ++ [.echoReply src dst payload] } else d

/-- PLCA_BEACON: PLCA again, with the node settings as they now stand (R340). -/
def plcaBeacon (d : Dev) : Dev :=
  if !portServes d then d
  else modMgmt d fun m => { m with
    t1s := 1
    nodeActive := if dget d 0x3100 1 = 0xFF then 1 + Config.boardPos.val else dget d 0x3100 1
    nodeCount := dget d 0x3100 2 }

def execPlcaBeacon (s : State) : Host.Outcome State Fault Refusal := run s plcaBeacon

/-- PLCA_BEACON_LOSS: CSMA/CD after 4 ms without a beacon. -/
def execPlcaBeaconLoss (s : State) : Host.Outcome State Fault Refusal :=
  run s fun d => if portServes d then modMgmt d fun m => { m with t1s := 2 } else d

/-- The mailbox serves: in recovery, or once the image is loaded and SBINIT has begun (R336, R341). (Log entry 75, DESIGN CHOICE.) -/
def mailboxServes (d : Dev) : Bool := powered d && d.mgmt.serving && (d.sec.recovery || decide (d.power.step ≥ 7))

/-- MAILBOX_START_MESSAGE: a frame begins, and an incomplete one is discarded; [63:32] must be zero (R12). A length above 1,280,
and a length of 0, which no data message follows, break R342: that frame is discarded, and counted, at its start message. -/
def mailboxStart (d : Dev) (w : W64) : Dev :=
  if !mailboxServes d then d
  else
    let n := bitf w.toNat 0 16
    let ok := decide (w.toNat < 2 ^ 32) && decide (1 ≤ n) && decide (n ≤ 1280)
    modHost (if ok then d else discardFrame d) fun h => { h with mailLen := if ok then n else 0, mailId := bitf w.toNat 16 16, mailGot := [] }

def execMailboxStartMessage (w : W64) (s : State) : Host.Outcome State Fault Refusal := run s fun d => mailboxStart d w

/-- MAILBOX_DATA_MESSAGE: eight more bytes; the last message queues the frame. -/
def mailboxData (d : Dev) (w : W64) : Dev :=
  if !mailboxServes d || d.host.mailLen == 0 then d
  else
    let got := d.host.mailGot ++ natLe 8 w.toNat
    if got.length < d.host.mailLen then modHost d fun h => { h with mailGot := got }
    else
      frameIn (modHost d fun h => { h with mailLen := 0, mailGot := [] }) (.mailbox d.host.mailId) (got.take d.host.mailLen)

def execMailboxDataMessage (w : W64) (s : State) : Host.Outcome State Fault Refusal := run s fun d => mailboxData d w

/-! ### Responses (R342) -/

/-- A response to request `h`, with its TAG. -/
def respFrame (h key : List Byte) (ses status count expect fail : Nat) (body : List Byte) : List Byte :=
  let b := natLe 2 0x5057 ++ natLe 1 1 ++ natLe 1 2 ++ natLe 2 (64 + body.length) ++ (h.drop 6).take 2 ++ natLe 4 ses
    ++ (h.drop 0x0C).take 4 ++ (h.drop 0x10).take 1 ++ natLe 1 status ++ natLe 2 count ++ natLe 4 expect ++ natLe 2 fail ++ zbytes 6 ++ body
  b ++ hmac key b

def opOf (b : List Byte) : Nat := recf b 0x10 1
def bodyOf (b : List Byte) : List Byte := (b.drop 32).take (b.length - 64)
def tagOk (key b : List Byte) : Bool := hmac key (b.take (b.length - 32)) == b.drop (b.length - 32)
/-- Fields that must be zero in a request: STATUS, EXPECT_SEQ, FAIL_ITEM and the last six bytes. -/
def headReserved (b : List Byte) : Bool := !(zeros b 0x11 1 && zeros b 0x14 12)

def samePath (a b : Path) : Bool :=
  match a, b with
  | .mailbox _, .mailbox _ => true
  | .udp s p _, .udp t q _ => s == t && p == q
  | _, _ => false

/-! ### Lockouts (R346) -/

def recentFails (d : Dev) (r : Nat) : List Nat := (fget [] d.mgmt.failTimes r).filter fun m => decide (nowMs d < m + 60000)

/-- Locked out, or about to be: 8 failures within 60 s. -/
def locked (d : Dev) (r : Nat) : Bool := fget false d.mgmt.lockout r || decide ((recentFails d r).length ≥ 8)

def openFailed (d : Dev) (r : Nat) : Dev :=
  modMgmt (authFail d) fun m => { m with failTimes := fput [] m.failTimes r (recentFails d r ++ [nowMs d]) }

/-- ROLE_LOCKOUT. -/
def roleLockout (d : Dev) (r : Nat) : Dev :=
  if fget false d.mgmt.lockout r || decide ((recentFails d r).length < 8) then d
  else modMgmt (post d 0x0068 1 srcMgmt (natLe 1 r)) fun m => { m with
    lockout := fput false m.lockout r true
    failTimes := fput [] m.failTimes r [] }

def execRoleLockout (r : Fin 4) (s : State) : Host.Outcome State Fault Refusal :=
  run s fun d => if powered d then roleLockout d r.val else d

/-- ROLE_LOCKOUT_END: the count of failures starts again from zero. -/
def execRoleLockoutEnd (r : Fin 4) (s : State) : Host.Outcome State Fault Refusal :=
  run s fun d => if powered d && fget false d.mgmt.lockout r.val then
    modMgmt d fun m => { m with lockout := fput false m.lockout r.val false, failTimes := fput [] m.failTimes r.val [] } else d

/-! ### OPEN (R345, R346, R348, R368) -/

/-- The key that opens a role now, and whether it is the claim's; none where the role accepts no session. -/
def openKey (d : Dev) (p : Path) (r : Nat) : Option (List Byte × Bool) :=
  if !stateAccepts d.sec.lifecycle r || (d.sec.recovery && r != 2) then none
  else if keyIsSet d r then some (roleKeyOf d r, false)
  else if r = 2 ∧ claimable d then (match p with | .mailbox _ => some (zbytes 32, true) | _ => none)
  else none

/-- A session identifier that is not zero and that no open session holds: which one is free. (Log entry 86, DESIGN CHOICE.) -/
def newSession (d : Dev) : Nat × Dev :=
  let (v, d) := freeNat d
  let c := (List.range 10).map fun i => (v + i) % 2 ^ 32
  ((c.find? fun n => n != 0 && (findSession d n).isNone).getD 1, d)

def openBody (d : Dev) (p : Path) (b : List Byte) (r : Nat) (key : List Byte) (claim : Bool) : Dev :=
  let body := bodyOf b
  let refuse := fun (st : Nat) => reply d p (respFrame b key 0 st 0 0 0xFFFF [])
  if headReserved b || recf b 0x0C 4 != 0 || (body.length == 20 && !zeros body 1 3) then refuse stReserved
  else if body.length ≠ 20 ∨ recf b 0x12 2 ≠ 0 then refuse 0x0B
  else if d.mgmt.sessions.length ≥ 8 then refuse 0x0C
  else
    let (id, d) := newSession d
    let nonce := natLe 16 (Config.entropy d.sec.nonceDraws).toNat
    let d := modSec d fun s => { s with nonceDraws := s.nonceDraws + 1 }
    let k := hmac key (ascii [0x57, 0x44, 0x50, 0x31] ++ body.drop 4 ++ nonce ++ natLe 4 id)
    let d := modMgmt d fun m => { m with sessions := m.sessions ++ [{ id := id, role := r, key := k, path := p, claim := claim }] }
    reply d p (respFrame b k id stOk 0 1 0xFFFF (nonce ++ natLe 2 (dget d 0x3100 5) ++ zbytes 2))

/-- An OPEN with SESSION 0. -/
def openFrame (d : Dev) (p : Path) (b : List Byte) : Dev :=
  let r := if (bodyOf b).isEmpty then 4 else recf (bodyOf b) 0 1
  if r > 3 then authFail d
  else if locked d r then authFail d
  else match openKey d p r with
    | none => openFailed d r
    | some (key, claim) => if tagOk key b then openBody d p b r key claim else openFailed d r

/-! ### Requests of a session (R345-R347) -/

/-- What handling a request answers: the device, STATUS, COUNT, FAIL_ITEM, body; for a WRITE with persistent items or a
clear of the log, what the response waits for, and the body and first failing item if the commit fails. -/
structure Answer where
  dev : Dev
  status : Nat
  count : Nat := 0
  fail : Nat := 0xFFFF
  body : List Byte := []
  items : List (Nat × Nat × Nat) := []
  recno : Option Nat := none
  failItem : Nat := 0xFFFF
  failBody : List Byte := []

/-- Gives a verified request to `f` when its SEQ is the next one; resends the kept response of the last one; answers SEQ
otherwise. A frame that no open session verifies is not answered. -/
def sessionFrame (d : Dev) (p : Path) (b : List Byte) (f : Dev → Session → Nat → Answer) : Dev :=
  let seq := recf b 0x0C 4
  match findSession d (recf b 8 4) with
  | none => authFail d
  | some x =>
    if !samePath x.path p || !tagOk x.key b then authFail d
    else if seq = x.lastSeq ∧ b.drop (b.length - 32) = x.lastTag ∧ !x.kept.isEmpty then reply d p x.kept
    else if seq ≠ x.lastSeq + 1 then reply d p (respFrame b x.key x.id 9 0 ((x.lastSeq + 1) % 2 ^ 32) 0xFFFF [])
    else
      let d := modSession d x.id fun x => { x with lastSeq := seq, lastTag := b.drop (b.length - 32) }
      let a := if headReserved b then { dev := d, status := stReserved } else f d x seq
      let resp := respFrame b x.key x.id a.status a.count ((seq + 1) % 2 ^ 32) a.fail a.body
      if a.items.isEmpty && a.recno.isNone then
        modSession (reply a.dev p resp) x.id fun x => { x with kept := resp }
      else modMgmt a.dev fun m => { m with commit := some {
        path := p
        session := x.id
        resp := resp
        failResp := respFrame b x.key x.id stNorFail a.count ((seq + 1) % 2 ^ 32) a.failItem a.failBody
        items := a.items
        nor := !a.items.isEmpty
        recno := a.recno
        ahead := !d.log.queue.isEmpty } }

/-- The frame to handle: none while a WRITE awaits its commit or a reset is armed. -/
def headFrame (d : Dev) : Option (Path × List Byte) :=
  if powered d && d.mgmt.serving && !d.mgmt.resetArmed && d.mgmt.commit.isNone then d.mgmt.frames.head? else none

def listedOp (op : Nat) : Bool := op == 0x01 || op == 0x02 || op == 0x10 || op == 0x11

/-- Takes the head frame off the queue. -/
def takeFrame (d : Dev) : Dev := dieLCtr (modMgmt d fun m => { m with frames := m.frames.drop 1 }) 9 1

/-- Answers FRAME to head frames with an unlisted OP. -/
def skipUnlisted : Nat → Dev → Dev
  | 0, d => d
  | n + 1, d =>
    match headFrame d with
    | some (p, b) =>
      if listedOp (opOf b) then d
      else skipUnlisted n (sessionFrame (takeFrame d) p b fun d _ _ => { dev := d, status := 0x0B })
    | none => d

/-- Handles the head frame when it carries `op`. -/
def onFrame (d : Dev) (op : Nat) (f : Dev → Path → List Byte → Dev) : Dev :=
  let d := skipUnlisted d.mgmt.frames.length d
  match headFrame d with
  | some (p, b) => if opOf b = op then f (takeFrame d) p b else d
  | none => d

/-- OPEN: an OPEN on an open session is answered with FRAME. -/
def execWdpOpen (s : State) : Host.Outcome State Fault Refusal :=
  run s fun d => onFrame d 0x01 fun d p b =>
    if recf b 8 4 = 0 then openFrame d p b else sessionFrame d p b fun d _ _ => { dev := d, status := 0x0B }

/-- CLOSE: the session ends with its response. -/
def closeFrame (d : Dev) (p : Path) (b : List Byte) : Dev :=
  if (bodyOf b).isEmpty ∧ recf b 0x12 2 = 0 then
    sessionFrame d p b fun d x _ => { dev := modMgmt d fun m => { m with sessions := m.sessions.filter fun y => y.id != x.id }, status := stOk }
  else sessionFrame d p b fun d _ _ => { dev := d, status := 0x0B }

def execWdpClose (s : State) : Host.Outcome State Fault Refusal := run s fun d => onFrame d 0x02 closeFrame

/-- SESSION_IDLE_TIMEOUT (R348). -/
def execSessionIdleTimeout (ses : W32) (s : State) : Host.Outcome State Fault Refusal :=
  run s fun d => if powered d then modMgmt d fun m => { m with sessions := m.sessions.filter fun x => x.id != ses.toNat } else d

/-! ### READ (R350, R351) -/

/-- The entry as it is served: in recovery only those that R364 names. -/
def servedEntry (d : Dev) (i s : Nat) : Option Entry :=
  if d.sec.recovery ∧ !(i == 0x1000 || i == 0x1002 || (i == 0x8001 && s == 1) || i == 0x8030) then none else entryAt i s

/-- A response item: status, type, value bytes. -/
def readItemBytes (i s status ty : Nat) (v : List Byte) : List Byte :=
  natLe 2 i ++ natLe 1 s ++ natLe 1 status ++ natLe 1 ty ++ zbytes 1 ++ natLe 2 v.length ++ v ++ zbytes (roundUp v.length 4 - v.length)

/-- One item: its status, type, bytes, and the device that also has cleared an RC entry. -/
def readItem (d : Dev) (x : Session) (it : List Byte) : Nat × Nat × List Byte × Dev × Dev :=
  let i := recf it 0 2
  let s := recf it 2 1
  let fl := recf it 3 1
  let off := recf it 4 2
  let len := recf it 6 2
  match servedEntry d i s with
  | none => (stNoEntry, 0, [], d, d)
  | some e =>
    let about := bitAt fl 1 || bitAt fl 2
    if fl ≥ 8 ∨ (bitAt fl 1 ∧ bitAt fl 2) then (stReserved, e.ty, [], d, d)
    else if (off ≠ 0 ∨ len ≠ 0) ∧ (about ∨ e.ty < 8) then (stType, e.ty, [], d, d)
    else if bitAt fl 2 then (stOk, 5, natLe 1 e.ty ++ natLe 1 e.acc ++ natLe 1 e.role ++ zbytes 1 ++ natLe 4 e.len, d, d)
    else if bitAt fl 1 then (stOk, 4, natLe 4 (wearOf d i s), d, d)
    else if e.acc = 3 then (stAccess, e.ty, [], d, d)
    else
      let (st, b, d) := readValue d (some x) i s e
      if st ≠ stOk then (st, e.ty, [], d, d)
      else if e.ty ≥ 8 then
        if off > b.length then (stRange, e.ty, [], d, d)
        else
          let rest := b.drop off
          (stOk, e.ty, if len = 0 then rest else rest.take len, d, d)
      else (stOk, e.ty, b, d, if e.acc = 4 ∧ x.role > 0 ∧ !bitAt fl 0 then dset d i s 0 else d)

/-- The items in order; one that does not fit beside the headers of those still to come is NOT_APPLIED. -/
def readItems (x : Session) : List (List Byte) → Nat → List Byte → Option (Nat × Nat) → Dev → Dev × List Byte × Option (Nat × Nat)
  | [], _, out, bad, d => (d, out, bad)
  | it :: rest, n, out, bad, d =>
    let (st, ty, v, d1, d2) := readItem d x it
    let fits := decide (out.length + 8 + roundUp v.length 4 + 8 * rest.length ≤ 1216)
    let st := if fits then st else stNotApplied
    let d := if fits then d2 else d1
    let bad := if st ≠ stOk && bad.isNone then some (n, st) else bad
    readItems x rest (n + 1) (out ++ readItemBytes (recf it 0 2) (recf it 2 1) st ty (if fits then v else [])) bad d

def readFrame (d : Dev) (p : Path) (b : List Byte) : Dev :=
  sessionFrame d p b fun d x _ =>
    let n := recf b 0x12 2
    if (bodyOf b).length ≠ 8 * n then { dev := d, status := 0x0B }
    else
      let (d, out, bad) := readItems x (chunksOf 8 (8 * n) (bodyOf b)) 0 [] none d
      match bad with
      | some (i, st) => { dev := d, status := st, count := n, fail := i, body := out }
      | none => { dev := d, status := stOk, count := n, body := out }

def execWdpRead (s : State) : Host.Outcome State Fault Refusal := run s fun d => onFrame d 0x10 readFrame

/-! ### WRITE (R352-R355) -/

/-- An item of a WRITE: index, subindex, type, OFFSET, value bytes, and whether its padding is zero. -/
structure WItem where
  index : Nat
  sub : Nat
  ty : Nat
  off : Nat
  val : List Byte
  padOk : Bool

/-- The items of a body; none where COUNT disagrees with it. -/
def parseItems : Nat → List Byte → Option (List WItem)
  | 0, b => if b.isEmpty then some [] else none
  | n + 1, b =>
    let len := recf b 6 2
    let size := 8 + roundUp len 4
    if b.length < 8 ∨ b.length < size then none
    else (parseItems n (b.drop size)).map fun r =>
      { index := recf b 0 2, sub := recf b 2 1, ty := recf b 3 1, off := recf b 4 2, val := (b.drop 8).take len
        padOk := zeros b (8 + len) (size - 8 - len) } :: r

/-- The status of one item, before any is applied. (Log entry 85, DESIGN CHOICE.) -/
def itemStatus (d : Dev) (x : Session) (seq : Nat) (w : WItem) : Nat :=
  match servedEntry d w.index w.sub with
  | none => stNoEntry
  | some e =>
    let v := leNat w.val
    if e.acc = 0 ∨ e.acc = 4 then stAccess
    else if x.role < e.role ∨ (x.claim ∧ !(w.index == 0x8010 && w.sub == 3 && !keyIsSet d 2)) then stRole
    else if w.ty ≠ e.ty ∨ w.val.length ≠ e.len ∨ w.off ≠ 0 then stType
    else if !w.padOk then stReserved
    else if w.index = 0x8010 then roleKeyStatus d x (w.sub - 1) (xorBytes w.val (keyMask x (w.sub - 1) seq))
    else if w.index = 0x8001 then lifecycleStatus d x.role v
    else if valueStatus d w.index w.sub e v ≠ stOk then valueStatus d w.index w.sub e v
    else if wornOut d w.index w.sub v then stEndurance
    else stOk

def itemBytes (w : WItem) (st : Nat) : List Byte := natLe 2 w.index ++ natLe 1 w.sub ++ natLe 1 st

/-- Applies an item. -/
def applyItem (x : Session) (seq : Nat) (d : Dev) (w : WItem) : Dev :=
  applyValue d (some x) w.index w.sub (leNat w.val)
    (if w.index = 0x8010 then xorBytes w.val (keyMask x (w.sub - 1) seq) else w.val)

/-- The persistent entries of a frame whose value changed, each with its old value. -/
def changedItems (old new : Dev) (ws : List WItem) : List (Nat × Nat × Nat) :=
  (ws.map fun w => (w.index, w.sub)).eraseDups.filterMap fun k =>
    if isRwp k.1 k.2 ∧ dget old k.1 k.2 ≠ dget new k.1 k.2 then some (k.1, k.2, dget old k.1 k.2) else none

/-- The first item with a failing status, by index. -/
def firstFail : List Nat → Nat → Option (Nat × Nat)
  | [], _ => none
  | s :: r, n => if s = stOk then firstFail r (n + 1) else some (n, s)

def writeItems (d : Dev) (x : Session) (seq n : Nat) (ws : List WItem) : Answer :=
  match firstFail (ws.map (itemStatus d x seq)) 0 with
  | some (i, st) =>
    let d := if st = stEndurance then (match ws[i]? with | some w => noteEndurance d w.index w.sub | none => d) else d
    { dev := d, status := st, count := n, fail := i
      body := ws.zipIdx.flatMap fun w => itemBytes w.1 (if w.2 = i then st else stNotApplied) }
  | none =>
    let d' := ws.foldl (applyItem x seq) d
    let clears := ws.any fun w => w.index == 0x5002 && leNat w.val == 1
    let fails := ws.map fun w => if isRwp w.index w.sub then stNorFail else stOk
    { dev := d', status := stOk, count := n
      body := ws.flatMap fun w => itemBytes w stOk
      items := changedItems d d' ws
      recno := if clears && decide (d'.log.total > d.log.total) then some (d'.log.total - 1) else none
      failItem := (match firstFail fails 0 with | some (i, _) => i | none => 0xFFFF)
      failBody := (ws.zip fails).flatMap fun w => itemBytes w.1 w.2 }

def writeFrame (d : Dev) (p : Path) (b : List Byte) : Dev :=
  sessionFrame d p b fun d x seq =>
    let n := recf b 0x12 2
    match parseItems n (bodyOf b) with
    | none => { dev := d, status := 0x0B }
    | some ws => writeItems d x seq n ws

def execWdpWrite (s : State) : Host.Outcome State Fault Refusal := run s fun d => onFrame d 0x11 writeFrame

/-- NOR_COMMIT_COMPLETE: the values are in NOR, those that the commit changes are worn once each (R355), and the response goes out; or every
persistent item of the frame has its old value again (R354). A record whose program had begun before it is in NOR too (R391). (Log entry 87,
DESIGN CHOICE.) -/
def norCommit (d : Dev) (ok : Bool) : Dev :=
  match d.mgmt.commit with
  | none => d
  | some c =>
    if !c.nor then d
    else
    let d := if c.ahead then programHead d else d
    if ok then
      let new := c.items.filter fun i => dget d i.1 i.2.1 != i.2.2
      let d := commitImage (modMgmt d fun m => { m with commit := m.commit.map fun c => { c with nor := false } })
      let d := releaseWrite (new.foldl (fun d i => wear d i.1 i.2.1) d)
      match new.find? fun i => i.1 == 0x3100 && i.2.1 == 3, new.any fun i => i.1 == 0x3100 && i.2.1 == 4 with
      | some i, _ => endSessionsAt d (if i.2.2 = 0 then none else some (addrOf i.2.2))
      | none, true => endSessionsAt d (furtherAddr d)
      | none, false => d
    else
      let d := c.items.foldl (fun d i => dset d i.1 i.2.1 i.2.2) (writeCopy d 0 [] false)
      let d := match c.items with | i :: _ => post d 0x0007 2 srcNor (natLe 2 i.1 ++ natLe 1 i.2.1) | [] => d
      releaseWrite (modMgmt d fun m => { m with commit := m.commit.map fun c => { c with nor := false, resp := c.failResp } })

def execNorCommitComplete (ok : Bool) (s : State) : Host.Outcome State Fault Refusal :=
  run s fun d => if powered d then norCommit d ok else d

end Sys2Proof.Machine
end

