-- ==== Sys2Proof/Machine/Dispatch.lean ====
section
/-! DEFINITION. The dispatch: one arm per command, each one direct call of its meaning. -/
namespace Sys2Proof.Machine

/-- The effect of a command on everything but the queue of commands waiting. -/
def exec (i : Instr) (s : State) : Host.Outcome State Fault Refusal :=
  match i with
  | .add t th d a b => Sys2Proof.Machine.execAdd t th d a b s
  | .sub t th d a b => Sys2Proof.Machine.execSub t th d a b s
  | .and t th d a b => Sys2Proof.Machine.execAnd t th d a b s
  | .or t th d a b => Sys2Proof.Machine.execOr t th d a b s
  | .xor t th d a b => Sys2Proof.Machine.execXor t th d a b s
  | .shl t th d a b => Sys2Proof.Machine.execShl t th d a b s
  | .shru t th d a b => Sys2Proof.Machine.execShru t th d a b s
  | .shrs t th d a b => Sys2Proof.Machine.execShrs t th d a b s
  | .mul t th d a b => Sys2Proof.Machine.execMul t th d a b s
  | .mulhu t th d a b => Sys2Proof.Machine.execMulhu t th d a b s
  | .cmps t th d a b => Sys2Proof.Machine.execCmps t th d a b s
  | .cmpu t th d a b => Sys2Proof.Machine.execCmpu t th d a b s
  | .mins t th d a b => Sys2Proof.Machine.execMins t th d a b s
  | .maxs t th d a b => Sys2Proof.Machine.execMaxs t th d a b s
  | .minu t th d a b => Sys2Proof.Machine.execMinu t th d a b s
  | .maxu t th d a b => Sys2Proof.Machine.execMaxu t th d a b s
  | .addk t th d a k => Sys2Proof.Machine.execAddk t th d a k s
  | .andk t th d a k => Sys2Proof.Machine.execAndk t th d a k s
  | .ork t th d a k => Sys2Proof.Machine.execOrk t th d a k s
  | .xork t th d a k => Sys2Proof.Machine.execXork t th d a k s
  | .shk t th d a kind n => Sys2Proof.Machine.execShk t th d a kind n s
  | .cmpsk t th d a k => Sys2Proof.Machine.execCmpsk t th d a k s
  | .setk t th d k => Sys2Proof.Machine.execSetk t th d k s
  | .insk t th d p k => Sys2Proof.Machine.execInsk t th d p k s
  | .ld t th d a w sg ofs => Sys2Proof.Machine.execLd t th d a w sg ofs s
  | .st t th d a w ofs => Sys2Proof.Machine.execSt t th d a w ofs s
  | .storeWritten t th => Sys2Proof.Machine.execStoreWritten t th s
  | .brz t th c a k => Sys2Proof.Machine.execBrz t th c a k s
  | .call t th d k => Sys2Proof.Machine.execCall t th d k s
  | .jumpr t th d a k => Sys2Proof.Machine.execJumpr t th d a k s
  | .csrRead t th d a sel => Sys2Proof.Machine.execCsrRead t th d a sel s
  | .csrWrite t th d a sel => Sys2Proof.Machine.execCsrWrite t th d a sel s
  | .csrSetBits t th d a sel => Sys2Proof.Machine.execCsrSetBits t th d a sel s
  | .csrClearBits t th d a sel => Sys2Proof.Machine.execCsrClearBits t th d a sel s
  | .swait t th d a b sel k => Sys2Proof.Machine.execSwait t th d a b sel k s
  | .sdec t th d a b sel k => Sys2Proof.Machine.execSdec t th d a b sel k s
  | .ssig t th d a b sel k => Sys2Proof.Machine.execSsig t th d a b sel k s
  | .sset t th d a b sel k => Sys2Proof.Machine.execSset t th d a b sel k s
  | .sread t th d a b sel k => Sys2Proof.Machine.execSread t th d a b sel k s
  | .ssigt t th d a b sel k => Sys2Proof.Machine.execSsigt t th d a b sel k s
  | .ssigr t th d a b sel k => Sys2Proof.Machine.execSsigr t th d a b sel k s
  | .tstart t th d a b => Sys2Proof.Machine.execTstart t th d a b s
  | .texit t th d a b => Sys2Proof.Machine.execTexit t th d a b s
  | .twake t th d a b => Sys2Proof.Machine.execTwake t th d a b s
  | .tstop t th d a b => Sys2Proof.Machine.execTstop t th d a b s
  | .issue t th d a b u k => Sys2Proof.Machine.execIssue t th d a b u k s
  | .issueQueueEntry t th => Sys2Proof.Machine.execIssueQueueEntry t th s
  | .qcancel t th d u own => Sys2Proof.Machine.execQcancel t th d u own s
  | .fence t th d m => Sys2Proof.Machine.execFence t th d m s
  | .fenceEnd t th => Sys2Proof.Machine.execFenceEnd t th s
  | .issueSelect t => Sys2Proof.Machine.execIssueSelect t s
  | .blockTimeEnd t th => Sys2Proof.Machine.execBlockTimeEnd t th s
  | .icacheMissFill t th evict => Sys2Proof.Machine.execIcacheMissFill t th evict s
  | .signalTakesEffect t sm which => Sys2Proof.Machine.execSignalTakesEffect t sm which s
  | .waitLimitExpiry t th => Sys2Proof.Machine.execWaitLimitExpiry t th s
  | .descriptorWaitSem t u idx => Sys2Proof.Machine.execDescriptorWaitSem t u idx s
  | .matrixProduct t idx ecc => Sys2Proof.Machine.execMatrixProduct t idx ecc s
  | .quadGangStart t idx ecc => Sys2Proof.Machine.execQuadGangStart t idx ecc s
  | .matrixDrain t idx blk flt => Sys2Proof.Machine.execMatrixDrain t idx blk flt s
  | .epilogueBeat t idx upset => Sys2Proof.Machine.execEpilogueBeat t idx upset s
  | .matrixWriteBackComplete t idx => Sys2Proof.Machine.execMatrixWriteBackComplete t idx s
  | .vadd t f => Sys2Proof.Machine.execVadd t f s
  | .vsub t f => Sys2Proof.Machine.execVsub t f s
  | .vmul t f => Sys2Proof.Machine.execVmul t f s
  | .vfma t f => Sys2Proof.Machine.execVfma t f s
  | .vmin t f => Sys2Proof.Machine.execVmin t f s
  | .vmax t f => Sys2Proof.Machine.execVmax t f s
  | .vabs t f => Sys2Proof.Machine.execVabs t f s
  | .vneg t f => Sys2Proof.Machine.execVneg t f s
  | .vsel t f => Sys2Proof.Machine.execVsel t f s
  | .vcvt t f => Sys2Proof.Machine.execVcvt t f s
  | .vrcp t f => Sys2Proof.Machine.execVrcp t f s
  | .vrsqrt t f => Sys2Proof.Machine.execVrsqrt t f s
  | .vsqrt t f => Sys2Proof.Machine.execVsqrt t f s
  | .vdiv t f => Sys2Proof.Machine.execVdiv t f s
  | .vexp t f => Sys2Proof.Machine.execVexp t f s
  | .vlog t f => Sys2Proof.Machine.execVlog t f s
  | .vact t f => Sys2Proof.Machine.execVact t f s
  | .vdact t f => Sys2Proof.Machine.execVdact t f s
  | .vrsum t f => Sys2Proof.Machine.execVrsum t f s
  | .vrmax t f => Sys2Proof.Machine.execVrmax t f s
  | .vrssq t f => Sys2Proof.Machine.execVrssq t f s
  | .vrdot t f => Sys2Proof.Machine.execVrdot t f s
  | .vlnf t f => Sys2Proof.Machine.execVlnf t f s
  | .vrnf t f => Sys2Proof.Machine.execVrnf t f s
  | .vlnb t f => Sys2Proof.Machine.execVlnb t f s
  | .vrnb t f => Sys2Proof.Machine.execVrnb t f s
  | .vsmf t f => Sys2Proof.Machine.execVsmf t f s
  | .vsmb t f => Sys2Proof.Machine.execVsmb t f s
  | .padd t f => Sys2Proof.Machine.execPadd t f s
  | .pmul t f => Sys2Proof.Machine.execPmul t f s
  | .pfma t f => Sys2Proof.Machine.execPfma t f s
  | .vreduce t f => Sys2Proof.Machine.execVreduce t f s
  | .vtload t => Sys2Proof.Machine.execVtload t s
  | .vtread t => Sys2Proof.Machine.execVtread t s
  | .vectorInstructionEnd t => Sys2Proof.Machine.execVectorInstructionEnd t s
  | .update t => Sys2Proof.Machine.execUpdate t s
  | .updateComplete t => Sys2Proof.Machine.execUpdateComplete t s
  | .precondition t lane => Sys2Proof.Machine.execPrecondition t lane s
  | .slowTierQueueEntry t => Sys2Proof.Machine.execSlowTierQueueEntry t s
  | .slowTierCommit => Sys2Proof.Machine.execSlowTierCommit s
  | .alloc src => Sys2Proof.Machine.execAlloc src s
  | .allocFillComplete src code => Sys2Proof.Machine.execAllocFillComplete src code s
  | .free src => Sys2Proof.Machine.execFree src s
  | .query src => Sys2Proof.Machine.execQuery src s
  | .clearInvalid src => Sys2Proof.Machine.execClearInvalid src s
  | .clearTorn src => Sys2Proof.Machine.execClearTorn src s
  | .setCounter src => Sys2Proof.Machine.execSetCounter src s
  | .flashOpen src => Sys2Proof.Machine.execFlashOpen src s
  | .flashClose src => Sys2Proof.Machine.execFlashClose src s
  | .tierMove src ecc => Sys2Proof.Machine.execTierMove src ecc s
  | .tierMoveComplete src => Sys2Proof.Machine.execTierMoveComplete src s
  | .transferUnitDeadline r done => Sys2Proof.Machine.execTransferUnitDeadline r done s
  | .eccCorrectedRewrite u => Sys2Proof.Machine.execEccCorrectedRewrite u s
  | .patrolScrub u res => Sys2Proof.Machine.execPatrolScrub u res s
  | .launchGrinderProgram t => Sys2Proof.Machine.execLaunchGrinderProgram t s
  | .launchPercolatorScript t => Sys2Proof.Machine.execLaunchPercolatorScript t s
  | .launchCollectiveProgram t => Sys2Proof.Machine.execLaunchCollectiveProgram t s
  | .launchQueueEntry t => Sys2Proof.Machine.execLaunchQueueEntry t s
  | .sopen c => Sys2Proof.Machine.execSopen c s
  | .sclose c => Sys2Proof.Machine.execSclose c s
  | .scloseComplete c => Sys2Proof.Machine.execScloseComplete c s
  | .ema c lane => Sys2Proof.Machine.execEma c lane s
  | .damp c lane => Sys2Proof.Machine.execDamp c lane s
  | .srelease c => Sys2Proof.Machine.execSrelease c s
  | .fzero c => Sys2Proof.Machine.execFzero c s
  | .tree c => Sys2Proof.Machine.execTree c s
  | .grinderWait c => Sys2Proof.Machine.execGrinderWait c s
  | .grinderSignal c => Sys2Proof.Machine.execGrinderSignal c s
  | .grinderEnd c => Sys2Proof.Machine.execGrinderEnd c s
  | .tapOpenRecord c => Sys2Proof.Machine.execTapOpenRecord c s
  | .tapRow c => Sys2Proof.Machine.execTapRow c s
  | .poolHalfSwap c => Sys2Proof.Machine.execPoolHalfSwap c s
  | .sweepEnd c st bad => Sys2Proof.Machine.execSweepEnd c st bad s
  | .job c => Sys2Proof.Machine.execJob c s
  | .scriptWait c => Sys2Proof.Machine.execScriptWait c s
  | .scriptSignal c => Sys2Proof.Machine.execScriptSignal c s
  | .scriptEnd c => Sys2Proof.Machine.execScriptEnd c s
  | .root c lane => Sys2Proof.Machine.execRoot c lane s
  | .chol c lane => Sys2Proof.Machine.execChol c lane s
  | .cholsolve c lane => Sys2Proof.Machine.execCholsolve c lane s
  | .treesolve c => Sys2Proof.Machine.execTreesolve c s
  | .rootIterationEnd c elapsed lane => Sys2Proof.Machine.execRootIterationEnd c elapsed lane s
  | .hardLimitExpiry c => Sys2Proof.Machine.execHardLimitExpiry c s
  | .blockJobEnd c elapsed => Sys2Proof.Machine.execBlockJobEnd c elapsed s
  | .allreduce p => Sys2Proof.Machine.execAllreduce p s
  | .reducescatter p => Sys2Proof.Machine.execReducescatter p s
  | .allgather p => Sys2Proof.Machine.execAllgather p s
  | .alltoall p => Sys2Proof.Machine.execAlltoall p s
  | .broadcast p => Sys2Proof.Machine.execBroadcast p s
  | .reshard r => Sys2Proof.Machine.execReshard r s
  | .barrier p => Sys2Proof.Machine.execBarrier p s
  | .setranks p => Sys2Proof.Machine.execSetranks p s
  | .collEnd p => Sys2Proof.Machine.execCollEnd p s
  | .collEntryComplete p => Sys2Proof.Machine.execCollEntryComplete p s
  | .chunkStagedComplete p k => Sys2Proof.Machine.execChunkStagedComplete p k s
  | .dataPacket p => Sys2Proof.Machine.execDataPacket p s
  | .ackPacket p => Sys2Proof.Machine.execAckPacket p s
  | .abortPacket p => Sys2Proof.Machine.execAbortPacket p s
  | .arrive p => Sys2Proof.Machine.execArrive p s
  | .release p => Sys2Proof.Machine.execRelease p s
  | .signalPacket p => Sys2Proof.Machine.execSignalPacket p s
  | .heartbeatSignal p => Sys2Proof.Machine.execHeartbeatSignal p s
  | .fenceSignal p => Sys2Proof.Machine.execFenceSignal p s
  | .chunkRetransmitTimeout n => Sys2Proof.Machine.execChunkRetransmitTimeout n s
  | .chunkResendExhausted n => Sys2Proof.Machine.execChunkResendExhausted n s
  | .ackSendTimer n => Sys2Proof.Machine.execAckSendTimer n s
  | .earlyArrivalExpiry n => Sys2Proof.Machine.execEarlyArrivalExpiry n s
  | .idleFlit p decodes bytes => Sys2Proof.Machine.execIdleFlit p decodes bytes s
  | .dataFlit p decodes bytes => Sys2Proof.Machine.execDataFlit p decodes bytes s
  | .replayReq p decodes bytes => Sys2Proof.Machine.execReplayReq p decodes bytes s
  | .flitReplayExhausted p => Sys2Proof.Machine.execFlitReplayExhausted p s
  | .ident p rec => Sys2Proof.Machine.execIdent p rec s
  | .identAck p rec => Sys2Proof.Machine.execIdentAck p rec s
  | .down p rec => Sys2Proof.Machine.execDown p rec s
  | .unreach p rec => Sys2Proof.Machine.execUnreach p rec s
  | .reach p rec => Sys2Proof.Machine.execReach p rec s
  | .portmap p rec => Sys2Proof.Machine.execPortmap p rec s
  | .identSendTimer p => Sys2Proof.Machine.execIdentSendTimer p s
  | .identTimeout p => Sys2Proof.Machine.execIdentTimeout p s
  | .retrainTimer p => Sys2Proof.Machine.execRetrainTimer p s
  | .flapping p => Sys2Proof.Machine.execFlapping p s
  | .portSilent p => Sys2Proof.Machine.execPortSilent p s
  | .laneFailure p lane => Sys2Proof.Machine.execLaneFailure p lane s
  | .laneRecalibration p lane => Sys2Proof.Machine.execLaneRecalibration p lane s
  | .laneRecalibrationEnd p => Sys2Proof.Machine.execLaneRecalibrationEnd p s
  | .hbmChannelRecalibration stack ch => Sys2Proof.Machine.execHbmChannelRecalibration stack ch s
  | .mirrorData => Sys2Proof.Machine.execMirrorData s
  | .commitBegin => Sys2Proof.Machine.execCommitBegin s
  | .commitEnd => Sys2Proof.Machine.execCommitEnd s
  | .mirrorAck => Sys2Proof.Machine.execMirrorAck s
  | .mirrorHeartbeat => Sys2Proof.Machine.execMirrorHeartbeat s
  | .failstop => Sys2Proof.Machine.execFailstop s
  | .fenceSubtype => Sys2Proof.Machine.execFenceSubtype s
  | .repairReq => Sys2Proof.Machine.execRepairReq s
  | .repairData => Sys2Proof.Machine.execRepairData s
  | .region => Sys2Proof.Machine.execRegion s
  | .joinCopy => Sys2Proof.Machine.execJoinCopy s
  | .heartbeatSendTimer => Sys2Proof.Machine.execHeartbeatSendTimer s
  | .heartbeatSilence => Sys2Proof.Machine.execHeartbeatSilence s
  | .pairJoin => Sys2Proof.Machine.execPairJoin s
  | .fatalFault code => Sys2Proof.Machine.execFatalFault code s
  | .failStopRequest => Sys2Proof.Machine.execFailStopRequest s
  | .selftestRequest v => Sys2Proof.Machine.execSelftestRequest v s
  | .selftestTakeover die => Sys2Proof.Machine.execSelftestTakeover die s
  | .selftestEnd die pass => Sys2Proof.Machine.execSelftestEnd die pass s
  | .selftestMoveBack die => Sys2Proof.Machine.execSelftestMoveBack die s
  | .selftestTurnPassed die => Sys2Proof.Machine.execSelftestTurnPassed die s
  | .curvatureSelftestStart die => Sys2Proof.Machine.execCurvatureSelftestStart die s
  | .curvatureSelftestEnd die pass => Sys2Proof.Machine.execCurvatureSelftestEnd die pass s
  | .linkupPhaseTimeout mods => Sys2Proof.Machine.execLinkupPhaseTimeout mods s
  | .hello m via => Sys2Proof.Machine.execHello m via s
  | .nop m => Sys2Proof.Machine.execNop m s
  | .nak m => Sys2Proof.Machine.execNak m s
  | .hreadData m => Sys2Proof.Machine.execHreadData m s
  | .qdoorbell m => Sys2Proof.Machine.execQdoorbell m s
  | .tdoorbellStart m => Sys2Proof.Machine.execTdoorbellStart m s
  | .tdoorbellWake m => Sys2Proof.Machine.execTdoorbellWake m s
  | .tdoorbellStop m => Sys2Proof.Machine.execTdoorbellStop m s
  | .phyretrain => Sys2Proof.Machine.execPhyretrain s
  | .phyretrainComplete ok mods => Sys2Proof.Machine.execPhyretrainComplete ok mods s
  | .interruptIntervalExpiry v => Sys2Proof.Machine.execInterruptIntervalExpiry v s
  | .mailboxStartMessage d => Sys2Proof.Machine.execMailboxStartMessage d s
  | .mailboxDataMessage d => Sys2Proof.Machine.execMailboxDataMessage d s
  | .wdpDatagram d => Sys2Proof.Machine.execWdpDatagram d s
  | .neighbourSolicitation src target => Sys2Proof.Machine.execNeighbourSolicitation src target s
  | .echoRequest src dst payload => Sys2Proof.Machine.execEchoRequest src dst payload s
  | .plcaBeacon => Sys2Proof.Machine.execPlcaBeacon s
  | .plcaBeaconLoss => Sys2Proof.Machine.execPlcaBeaconLoss s
  | .wdpOpen => Sys2Proof.Machine.execWdpOpen s
  | .wdpClose => Sys2Proof.Machine.execWdpClose s
  | .wdpRead => Sys2Proof.Machine.execWdpRead s
  | .wdpWrite => Sys2Proof.Machine.execWdpWrite s
  | .registerWrite index sub v => Sys2Proof.Machine.execRegisterWrite index sub v s
  | .norCommitComplete ok => Sys2Proof.Machine.execNorCommitComplete ok s
  | .sessionIdleTimeout ses => Sys2Proof.Machine.execSessionIdleTimeout ses s
  | .roleLockout r => Sys2Proof.Machine.execRoleLockout r s
  | .roleLockoutEnd r => Sys2Proof.Machine.execRoleLockoutEnd r s
  | .staticIpv6Write addr plen => Sys2Proof.Machine.execStaticIpv6Write addr plen s
  | .roleKey ses r v => Sys2Proof.Machine.execRoleKey ses r v s
  | .lifecycleRequest ses target => Sys2Proof.Machine.execLifecycleRequest ses target s
  | .lifecycleTransition => Sys2Proof.Machine.execLifecycleTransition s
  | .attestNonce nonce => Sys2Proof.Machine.execAttestNonce nonce s
  | .attestReportReady => Sys2Proof.Machine.execAttestReportReady s
  | .fwStageOffset v => Sys2Proof.Machine.execFwStageOffset v s
  | .fwStageData data => Sys2Proof.Machine.execFwStageData data s
  | .fwCommit => Sys2Proof.Machine.execFwCommit s
  | .fwCheckComplete => Sys2Proof.Machine.execFwCheckComplete s
  | .imageRequestSnapshot => Sys2Proof.Machine.execImageRequestSnapshot s
  | .imageRequestDump => Sys2Proof.Machine.execImageRequestDump s
  | .imagePeriodTick => Sys2Proof.Machine.execImagePeriodTick s
  | .imageComplete => Sys2Proof.Machine.execImageComplete s
  | .tileEventSelect curv ctr code => Sys2Proof.Machine.execTileEventSelect curv ctr code s
  | .logCursor ses v => Sys2Proof.Machine.execLogCursor ses v s
  | .logClear ses => Sys2Proof.Machine.execLogClear ses s
  | .qEnable q v => Sys2Proof.Machine.execQEnable q v s
  | .eventRecord n => Sys2Proof.Machine.execEventRecord n s
  | .recordProgram => Sys2Proof.Machine.execRecordProgram s
  | .foldWindowClose n => Sys2Proof.Machine.execFoldWindowClose n s
  | .opSecondsJournal => Sys2Proof.Machine.execOpSecondsJournal s
  | .droopDetect q mv => Sys2Proof.Machine.execDroopDetect q mv s
  | .neighbourLimitCheck q r m => Sys2Proof.Machine.execNeighbourLimitCheck q r m s
  | .throttleStepTimer q => Sys2Proof.Machine.execThrottleStepTimer q s
  | .throttleReleaseTimer q => Sys2Proof.Machine.execThrottleReleaseTimer q s
  | .thermalSample q milliC => Sys2Proof.Machine.execThermalSample q milliC s
  | .powerSample milliW => Sys2Proof.Machine.execPowerSample milliW s
  | .pwrGoodRise => Sys2Proof.Machine.execPwrGoodRise s
  | .pwrGoodFall => Sys2Proof.Machine.execPwrGoodFall s
  | .resetNAssert => Sys2Proof.Machine.execResetNAssert s
  | .resetNRelease => Sys2Proof.Machine.execResetNRelease s
  | .deviceReset => Sys2Proof.Machine.execDeviceReset s
  | .dictionaryReset => Sys2Proof.Machine.execDictionaryReset s
  | .startupTimeout => Sys2Proof.Machine.execStartupTimeout s
  | .startupStepComplete ok => Sys2Proof.Machine.execStartupStepComplete ok s
  | .portRetrain p => Sys2Proof.Machine.execPortRetrain p s
  | .fwStageBufferProgrammed n => Sys2Proof.Machine.execFwStageBufferProgrammed n s
  | .droopEnd q => Sys2Proof.Machine.execDroopEnd q s
  | .hbmChannelRecalibrationEnd stack ch => Sys2Proof.Machine.execHbmChannelRecalibrationEnd stack ch s
  | .tapInstruction x => Sys2Proof.Machine.execTapInstruction x s

end Sys2Proof.Machine
end

