-- ==== Sys2Proof/Machine/Step.lean ====
section
/-!
DEFINITION. One step: the command at the front of the queue is taken and its effect applied with the queue's rest;
with no command waiting, one TCLK cycle passes (log entry 7, DESIGN CHOICE).
-/
namespace Sys2Proof.Machine

/-- A TCLK cycle in which no command comes: the powered-time count advances, and the host tier goes offline once it has been unreachable for
longer than its deadline (R207); with the rails off nothing runs (R409). -/
def idleTick (d : Dev) : Dev := if d.power.pwrGood then noteUnreachable { d with tc := d.tc + 1 } else d

def step (s : State) : Host.Outcome State Fault Refusal :=
  match s.pending with
  | [] => .next { s with dev := idleTick s.dev }
  | c :: rest => exec c { s with pending := rest }

/-- The command that a table word spells, put at the front of the queue: no row has bits, so the state stands. (Log entry 1, DESIGN CHOICE.)
-/
def State.withFetchWord (s : State) (nbits w : Nat) : State :=
  match decodeTableWord nbits w with
  | some c => { s with pending := c :: s.pending }
  | none => s

end Sys2Proof.Machine
end

