-- ==== Sys2Proof/Safety.lean ====
section
/-!
DEFINITION. What a safe run means, and the terms in which claims speak: the canonical form of the memories, and what
a command leaves as it was.
-/
namespace Sys2Proof.Machine

/-- The memories of the device in canonical form. -/
def MemSt.wf (m : MemSt) : Bool := memWf m.scratch && memWf m.tier

/-- The step of a state answers a next state. -/
def State.runs (s : State) : Prop := ∃ t, step s = .next t

/-- A state whose memories are in canonical form. -/
def State.Inv (s : State) : Prop := s.dev.mem.wf = true

/-- The command completes: it answers a next state of which `p` holds. -/
def completes (c : Instr) (s : State) (p : State → Prop) : Prop := ∃ n, exec c s = .next n ∧ p n

/-! ### Frames -/

/-- Nothing differs but the tiles and the counters. -/
def onlyTiles (s n : State) : Prop :=
  n = { s with dev := { s.dev with tiles := n.dev.tiles, count := n.dev.count } }

/-- Every other tile, and of tile `t` everything but its threads and its turns to issue, is as before. -/
def ownTile (s n : State) (t : TileId) : Prop :=
  (∀ u, u ≠ t → getTile n.dev u = getTile s.dev u) ∧
  getTile n.dev t = { getTile s.dev t with threads := (getTile n.dev t).threads, lastIssue := (getTile n.dev t).lastIssue }

/-- Every other thread of the tile is as before. -/
def otherThreads (s n : State) (t : TileId) (th : Thr) : Prop :=
  ∀ x, x ≠ th → getThread n.dev t x = getThread s.dev t x

/-- A thread after an instruction without fault: the next PC, and BLOCKED for the listed tc (R216). -/
def Thread.issued (k : Thread) : Thread := { k with pc := k.pc + 4, st := .blocked, busy := true, wait := .none }

/-- An instruction that changes nothing but its own thread, to `k`. -/
def threadOnly (s n : State) (t : TileId) (th : Thr) (k : Thread) : Prop :=
  onlyTiles s n ∧ ownTile s n t ∧ otherThreads s n t th ∧ getThread n.dev t th = k

/-- An instruction that writes register `d` and no other, and advances the PC. -/
def wroteReg (s n : State) (t : TileId) (th : Thr) (d : Reg) (v : W64) : Prop :=
  onlyTiles s n ∧ ownTile s n t ∧ otherThreads s n t th ∧
  (∀ q, getReg (getThread n.dev t th) q = if q = d then v else getReg (getThread s.dev t th) q) ∧
  getThread n.dev t th = { (getThread s.dev t th).issued with regs := (getThread n.dev t th).regs }

/-- Of all scratchpads, the bytes from address `a` of tile `t` on read as `b`, and every other byte reads as before. -/
def wroteBytes (s n : State) (t : TileId) (a : Nat) (b : List Byte) : Prop :=
  (∀ i, i < b.length → spRead n.dev t (a + i) 1 = [b.getD i 0]) ∧
  (∀ u y, spKey u y < spKey t a ∨ spKey t a + b.length ≤ spKey u y → spRead n.dev u y 1 = spRead s.dev u y 1)

/-- Entry `e` has left queue `u` of tile `t` and `r` stands there. Of a thread's descriptor: with `signals` its signal is made
and brings its record of Table 10-8; else no signal is made and the record is written. -/
def ended (s n : State) (t : TileId) (u : Nat) (e : QEnt) (r : List QEnt) (signals : Bool) (code status count alloc off : Nat) :
    Prop :=
  getQueue n.dev t u = r ∧
  ∀ (th : Thr) (q : W32) (rec : Option Nat), e.org = .thread th q rec →
    let record := rec.map fun a : Nat => (⟨t, a, u, code, status, count, alloc, e.aux, off, q.toNat, th.val⟩ : Rec)
    (∀ sm : SemId, sm.val = signalSemOf e.words → signals = true →
      n.dev.sigs = s.dev.sigs ++ [⟨t, sm, 1, .desc, record, some t⟩]) ∧
    (signals = false ∨ 48 ≤ signalSemOf e.words → n.dev.sigs = s.dev.sigs ∧
      ∀ x, record = some x → ∀ i, i < 32 → spRead n.dev t (x.addr + i) 1 = [(recBytes x).getD i 0])

/-- The Grinder of curvature tile `c` stands at instruction `w` of program `p` and may run it: what it waits for is there, and the host tier
takes the transfers of the allocations that it works on (R337). -/
def grindsAt (d : Dev) (c : CTile) (p : Prog) (w : Nat) : Prop :=
  (getCurv d c.val).grind = some p ∧ p.waiting = false ∧ p.scPending = none ∧ (getCurv d c.val).testing = false ∧
  progWord d (ctileNat c.val) p = .inl w ∧ grindReserved w = false ∧ bitf w 13 6 < 48 ∧ anyWaits d (grindAllocs d c.val p) = false

/-- The Grinder's program has gone on to its next instruction. -/
def grindsOn (n : State) (c : CTile) (p : Prog) : Prop :=
  ∃ st, (getCurv n.dev c.val).grind = some { p with idx := p.idx + 1, status := st }

/-- The Percolator of curvature tile `c` stands at instruction `w` of script `p` and may run it. -/
def scriptAt (d : Dev) (c : CTile) (p : Prog) (w : Nat) : Prop :=
  (getCurv d c.val).script = some p ∧ p.waiting = false ∧ (getCurv d c.val).job = none ∧ (getCurv d c.val).testing = false ∧
  fetchProg d (ctileNat c.val) p = .inl w ∧ scriptReserved w = false ∧ bitf w 13 6 < 48

/-- An allocation whose SIZE fits the 64 bits of its descriptor's field (Table 9-3). -/
def small (d : Dev) (id : Nat) : Prop := ∀ a, getAlloc d id = some a → a.size ≤ 2 ^ 64

/-- The vector engine of a curvature tile is free for its Grinder: its queue is empty, or the Grinder's own entry stands at its
head (R78, R129). -/
def engineFree (d : Dev) (t : TileId) : Prop := ∀ e, (getQueue d t 1).head? = some e → e.org = .grinder

/-- Bytes of an allocation that read as `b`. -/
def holds (d : Dev) (id off : Nat) (b : List Byte) : Prop := allocRead d id off b.length = b

end Sys2Proof.Machine
end

