-- ==== Sys2Proof/Certificates/Slice0/Obligations.lean ====
section
/-!
DEFINITION. The statements for the provers. Each docstring names the rules of spec/ that its statement rests on. Where a
statement quantifies over states, its hypotheses are conditions on the state and the operands alone; `completes c s p`
says that the command answers a next state and what holds of it.
-/
open Sys2Proof Sys2Proof.Machine

/-! ### The machine -/

/-- A step takes the command at the front of the queue and has its effect with the queue's rest; with no command waiting, a
step is one TCLK cycle of powered time, in which the host tier, once it has been unreachable for longer than its deadline, goes offline
with one event, and nothing else (the model's own order of commands; log entry 7, DESIGN CHOICE). -/
def Obligations.StepRunsFrontCommand : Prop :=
  (∀ (c : Instr) (s : State), step { s with pending := c :: s.pending } = exec c s) ∧
  (∀ (s : State), s.pending = [] →
    let late := s.dev.power.devState = 1 ∧ s.dev.mem.offlineNoted = false ∧ s.dev.host.up = false ∧
      dget s.dev 0xA002 2 * Config.tclkMhz < s.dev.tc + 1 - s.dev.mem.hostDown
    (s.dev.power.pwrGood = false → step s = .next s) ∧
    (s.dev.power.pwrGood = true → ¬ late → step s = .next { s with dev := { s.dev with tc := s.dev.tc + 1 } }) ∧
    (s.dev.power.pwrGood = true → late → ∃ n, step s = .next n ∧
      n = { s with dev := { s.dev with tc := s.dev.tc + 1, mem := { s.dev.mem with offlineNoted := true }, log := n.dev.log } } ∧
      ∃ e, n.dev.log.inbox = s.dev.log.inbox ++ [e] ∧ e.code = 0x0031))

/-- No command touches the queue of commands that wait. -/
def Obligations.CommandsLeaveQueue : Prop :=
  ∀ (c : Instr) (s n : State), exec c s = .next n → n.pending = s.pending

/-- Every command, well-formed or not, but the two that name a unit of memory answers a next state in every state; those two
answer one for every unit that exists. This is the model's own choice: an ill-timed or ill-formed command changes nothing (log entries 8
and 9, DESIGN CHOICE), and an event of a unit that does not exist stops (log entry 88, DESIGN CHOICE). -/
def Obligations.CommandsComplete : Prop :=
  ∀ (c : Instr) (s : State),
    ((∀ u, c ≠ .eccCorrectedRewrite u) → (∀ u r, c ≠ .patrolScrub u r) → completes c s fun _ => True) ∧
    (∀ u, unitExists s.dev u = true → completes (.eccCorrectedRewrite u) s (fun _ => True) ∧
      ∀ r, completes (.patrolScrub u r) s fun _ => True)

/-- The memories hold their canonical form right after reset. -/
def Obligations.ResetMemoryCanonical : Prop := State.reset.Inv

/-- Every step keeps the canonical form of the memories, from every state that has it. -/
def Obligations.StepsKeepMemoryCanonical : Prop :=
  ∀ (s n : State), s.Inv → step s = .next n → n.Inv

/-- Decoding the word of any sequencer instruction gives the instruction back (R220). -/
def Obligations.DecodeOfEncode : Prop := ∀ (i : SeqInstr), decodeSeq (encodeSeq i) = some i

/-- The words of Table 10-12, and the word 0, which is ILLEGAL (R220). -/
def Obligations.ExampleWords : Prop :=
  decodeSeq 0x0C0000D7 = some (.setk 3 0x0C00) ∧ decodeSeq 0x000408D8 = some (.insk 3 1 4) ∧
  decodeSeq 0x00401911 = some (.aluK .addk 4 3 64) ∧ decodeSeq 0x40041968 = some (.issue 5 3 4 0 true) ∧
  decodeSeq 0x000A285C = some (.brz .nonzero 5 10) ∧ decodeSeq 0x00C001A4 = some (.sem .swait 6 0 0 6 false) ∧
  decodeSeq 0 = none

/-! ### Sequencers (chapter 10) -/

/-- The three-register instructions (R220, Table 10-4): D receives A op B, the PC advances, nothing else changes.
The register-and-constant instructions (R220, Table 10-3); INSK replaces the named 16 bits of D and keeps the others. -/
def Obligations.RegisterResults : Prop :=
  (∀ (s : State) (t : TileId) (th : Thr) (d a b : Reg), mayIssue s.dev t th = true →
     let x := getReg (getThread s.dev t th) a
     let y := getReg (getThread s.dev t th) b
     let k := y.toNat % 64
     let put := fun (c : Instr) (v : W64) => completes c s fun n => wroteReg s n t th d v
     put (.add t th d a b) (BitVec.ofNat 64 (x.toNat + y.toNat)) ∧
     put (.sub t th d a b) (BitVec.ofInt 64 (x.toNat - y.toNat)) ∧
     put (.and t th d a b) (x &&& y) ∧
     put (.or t th d a b) (x ||| y) ∧
     put (.xor t th d a b) (x ^^^ y) ∧
     put (.shl t th d a b) (BitVec.ofNat 64 (x.toNat * 2 ^ k)) ∧
     put (.shru t th d a b) (BitVec.ofNat 64 (x.toNat / 2 ^ k)) ∧
     put (.shrs t th d a b) (BitVec.ofInt 64 (x.toInt / 2 ^ k)) ∧
     put (.mul t th d a b) (BitVec.ofNat 64 (x.toNat * y.toNat)) ∧
     put (.mulhu t th d a b) (BitVec.ofNat 64 (x.toNat * y.toNat / 2 ^ 64)) ∧
     put (.cmps t th d a b) (if x.toInt < y.toInt then BitVec.ofInt 64 (-1) else if x = y then 0 else 1) ∧
     put (.cmpu t th d a b) (if x.toNat < y.toNat then BitVec.ofInt 64 (-1) else if x = y then 0 else 1) ∧
     put (.mins t th d a b) (BitVec.ofInt 64 (min x.toInt y.toInt)) ∧
     put (.maxs t th d a b) (BitVec.ofInt 64 (max x.toInt y.toInt)) ∧
     put (.minu t th d a b) (BitVec.ofNat 64 (min x.toNat y.toNat)) ∧
     put (.maxu t th d a b) (BitVec.ofNat 64 (max x.toNat y.toNat))) ∧
  (∀ (s : State) (t : TileId) (th : Thr) (d a : Reg) (c : W16), mayIssue s.dev t th = true →
     let x := getReg (getThread s.dev t th) a
     let put := fun (i : Instr) (v : W64) => completes i s fun n => wroteReg s n t th d v
     put (.addk t th d a c) (BitVec.ofInt 64 (x.toNat + c.toInt)) ∧
     put (.andk t th d a c) (x &&& BitVec.ofNat 64 c.toNat) ∧
     put (.ork t th d a c) (x ||| BitVec.ofNat 64 c.toNat) ∧
     put (.xork t th d a c) (x ^^^ BitVec.ofNat 64 c.toNat) ∧
     put (.cmpsk t th d a c) (if x.toInt < c.toInt then BitVec.ofInt 64 (-1) else if x.toInt = c.toInt then 0 else 1) ∧
     put (.setk t th d c) (BitVec.ofInt 64 c.toInt) ∧
     (∀ m : Fin 64,
       put (.shk t th d a .shl m) (BitVec.ofNat 64 (x.toNat * 2 ^ m.val)) ∧
       put (.shk t th d a .shru m) (BitVec.ofNat 64 (x.toNat / 2 ^ m.val)) ∧
       put (.shk t th d a .shrs m) (BitVec.ofInt 64 (x.toInt / 2 ^ m.val))) ∧
     (∀ p : Fin 4, ∃ v : W64, put (.insk t th d p c) v ∧ ∀ q : Fin 4, v.toNat / 2 ^ (16 * q.val) % 65536 =
       if q = p then c.toNat else (getReg (getThread s.dev t th) d).toNat / 2 ^ (16 * q.val) % 65536))

/-- LD (R220): an aligned access inside the scratchpad that touches no poisoned line loads its bytes, zero- or sign-extended, and its own
posted stores are seen (R238). A thread's loads see its own earlier stores (R238): they read what the scratchpad would hold once those are
written. ST posts the low bytes of D and writes no memory yet; STORE_WRITTEN writes the thread's oldest posted store, and only those bytes
(R220, R238). That a store to a line poisoned since it was posted leaves memory as it is, is the model's own choice (log entry 34, DESIGN
CHOICE). -/
def Obligations.LoadStoreResults : Prop :=
  (∀ (s : State) (t : TileId) (th : Thr) (d a : Reg) (w : Width) (o : BitVec 13), mayIssue s.dev t th = true →
     let m := widthBytes w
     let ad := (BitVec.ofInt 64 ((getReg (getThread s.dev t th) a).toNat + o.toInt * m)).toNat
     let v := leNat (loadBytes s.dev t th ad m)
     ad % m = 0 → ad + m ≤ scratchSize t → spPoisonAt s.dev t ad m = none →
       completes (.ld t th d a w false o) s (fun n => wroteReg s n t th d (BitVec.ofNat 64 v)) ∧
       completes (.ld t th d a w true o) s (fun n => wroteReg s n t th d
         (BitVec.ofInt 64 (if v < 2 ^ (8 * m - 1) then (v : Int) else v - 2 ^ (8 * m))))) ∧
  (∀ (d : Dev) (t : TileId) (th : Thr) (a m top : Nat),
     (∀ p ∈ (getThread d t th).posted, p.1 < top ∧ spPoisonAt d t p.2.1 p.2.2.length = none) →
     loadBytes d t th a m = spRead (flushStores d t th top) t a m) ∧
  (∀ (s : State) (t : TileId) (th : Thr) (d a : Reg) (w : Width) (o : BitVec 13), mayIssue s.dev t th = true →
    let k := getThread s.dev t th
    let m := widthBytes w
    let ad := (BitVec.ofInt 64 ((getReg k a).toNat + o.toInt * m)).toNat
    ad % m = 0 → ad + m ≤ scratchSize t → spPoisonAt s.dev t ad m = none →
      completes (.st t th d a w o) s fun n => threadOnly s n t th
        { k.issued with posted := k.posted ++ [(k.stNext, ad, natLe m (getReg k d).toNat)], stNext := k.stNext + 1 }) ∧
  (∀ (s : State) (t : TileId) (th : Thr) (x : Nat × Nat × List Byte) (r : List (Nat × Nat × List Byte)),
    tileActs s.dev t = true → (getThread s.dev t th).posted = x :: r → (∀ y ∈ r, x.1 < y.1) →
      completes (.storeWritten t th) s fun n =>
        n = { s with dev := { s.dev with tiles := n.dev.tiles, mem := n.dev.mem } } ∧ ownTile s n t ∧
        otherThreads s n t th ∧ getThread n.dev t th = { getThread s.dev t th with posted := r } ∧
        n.dev.mem.tier = s.dev.mem.tier ∧ n.dev.mem.allocs = s.dev.mem.allocs ∧
        (spPoisonAt s.dev t x.2.1 x.2.2.length = none → wroteBytes s n t x.2.1 x.2.2) ∧
        (spPoisonAt s.dev t x.2.1 x.2.2.length ≠ none → n.dev.mem = s.dev.mem))

/-- BRZ, CALL and JUMPR (R220, Table 10-3): the PC, the link register, and nothing else. -/
def Obligations.BranchResults : Prop :=
  ∀ (s : State) (t : TileId) (th : Thr) (d a : Reg) (c : W16), mayIssue s.dev t th = true →
    let k := getThread s.dev t th
    let x := getReg k a
    let go := fun (base : W64) => base + 4 * BitVec.ofInt 64 c.toInt
    let brz := fun (cond : Cond) (p : Prop) =>
      (p → completes (.brz t th cond a c) s fun n => threadOnly s n t th { k.issued with pc := go k.pc }) ∧
      (¬ p → completes (.brz t th cond a c) s fun n => threadOnly s n t th k.issued)
    let link := fun (i : Instr) (pc : W64) => completes i s fun n =>
      onlyTiles s n ∧ ownTile s n t ∧ otherThreads s n t th ∧
      (∀ q, getReg (getThread n.dev t th) q = if q = d then k.pc + 4 else getReg k q) ∧
      getThread n.dev t th = { k.issued with regs := (getThread n.dev t th).regs, pc := pc }
    brz .zero (x.toInt = 0) ∧ brz .nonzero (x.toInt ≠ 0) ∧ brz .neg (x.toInt < 0) ∧ brz .nonneg (0 ≤ x.toInt) ∧
    brz .pos (0 < x.toInt) ∧ brz .nonpos (x.toInt ≤ 0) ∧
    link (.call t th d c) (go k.pc) ∧ link (.jumpr t th d a c) (go x)

/-- CSR (R220, R221): D receives the register's old value; a new value inside the register's fields is taken.
Which values the control registers take (R221): only FAULT_BASE, FAULT_SEM, WAIT_LIMIT and PRIORITY, inside their fields. -/
def Obligations.ControlRegisters : Prop :=
  (∀ (s : State) (t : TileId) (th : Thr) (d a : Reg) (sel : BitVec 6) (old : Nat), mayIssue s.dev t th = true →
     csrVal s.dev t th sel.toNat = some old →
     let x := getReg (getThread s.dev t th) a
     let put := fun (i : Instr) (v : Nat) => csrTakes t sel.toNat v = true → completes i s fun n =>
       onlyTiles s n ∧ (∀ u, u ≠ t → getTile n.dev u = getTile s.dev u) ∧ otherThreads s n t th ∧
       (∀ q, getReg (getThread n.dev t th) q = if q = d then BitVec.ofNat 64 old else getReg (getThread s.dev t th) q) ∧
       getThread n.dev t th = { (getThread s.dev t th).issued with
         regs := (getThread n.dev t th).regs
         waitLimit := if sel = 5 then v else (getThread s.dev t th).waitLimit
         prio := if sel = 6 then v else (getThread s.dev t th).prio } ∧
       getTile n.dev t = { getTile s.dev t with
         threads := (getTile n.dev t).threads
         lastIssue := (getTile n.dev t).lastIssue
         faultBase := if sel = 3 then BitVec.ofNat 64 v else (getTile s.dev t).faultBase
         faultSem := if sel = 4 then v else (getTile s.dev t).faultSem }
     completes (.csrRead t th d a sel) s (fun n => wroteReg s n t th d (BitVec.ofNat 64 old)) ∧
     put (.csrWrite t th d a sel) x.toNat ∧
     put (.csrSetBits t th d a sel) (old ||| x.toNat) ∧
     put (.csrClearBits t th d a sel) (BitVec.ofNat 64 old &&& ~~~x).toNat) ∧
  (∀ (t : TileId) (r v : Nat), csrTakes t r v = true ↔
     (r = 3 ∧ v < 2 ^ 23 ∧ v % 64 < 2 ∧ (v % 2 = 1 → v / 64 * 64 + 1024 ≤ scratchSize t)) ∨
     (r = 4 ∧ (v < 48 ∨ v = 63)) ∨ (r = 5 ∧ v < 2 ^ 24) ∨ (r = 6 ∧ v < 4))

/-- SEM (R220, R228, R229, R231, R232, Table 10-5): the counts, the signals made, the register written, the wait begun.
SSIGR (R220, R267): a rank of the own device is signalled on the device; a rank of another device is sent a SIGNAL packet,
which waits in the retention area; every earlier store of the thread is written first, in both cases (R230).
The waiters of a semaphore are served in order (R231): the head takes its n as soon as the count holds it, and no later
waiter overtakes a head that does not. An SSET, and an SWAIT that joins the line, serve the line so. -/
def Obligations.SemaphoreResults : Prop :=
  (∀ (s : State) (t : TileId) (th : Thr) (d a b : Reg) (sel : BitVec 6) (kb : Bool) (sm : SemId),
     mayIssue s.dev t th = true → sm.val = sel.toNat →
     let k := getThread s.dev t th
     let m := if kb then (getReg k a).toNat % 65536 else 1
     let x := getSem s.dev t sm
     let signal := fun (u : TileId) (src : SigSrc) (n : State) =>
       n = { s with dev := { s.dev with tiles := n.dev.tiles, count := n.dev.count, sigs := s.dev.sigs ++ [⟨u, sm, m, src, none, some t⟩] } } ∧
       ownTile s n t ∧ otherThreads s n t th ∧ getThread n.dev t th = k.issued
     let sem := fun (n : State) (y : Sem) =>
       onlyTiles s n ∧ (∀ u j, (u ≠ t ∨ j ≠ sm) → getSem n.dev u j = getSem s.dev u j) ∧ getSem n.dev t sm = y ∧
       otherThreads s n t th ∧ (∀ u, u ≠ t → getTile n.dev u = getTile s.dev u)
     let alone := fun (n : State) (y : Sem) =>
       onlyTiles s n ∧ (∀ u j, (u ≠ t ∨ j ≠ sm) → getSem n.dev u j = getSem s.dev u j) ∧ getSem n.dev t sm = y ∧
       (∀ u, u ≠ t → getTile n.dev u = getTile s.dev u)
     let served := fun (n : State) (y : Thr) (r : Reg) =>
       (∀ z, z ≠ th → z ≠ y → getThread n.dev t z = getThread s.dev t z) ∧
       (∀ q, getReg (getThread n.dev t y) q = if q = r then 0 else getReg (getThread s.dev t y) q) ∧
       getThread n.dev t y = { getThread s.dev t y with
         regs := (getThread n.dev t y).regs, wait := .none, st := (getThread s.dev t y).woken }
     completes (.ssig t th d a b sel kb) s (signal t (.thread t th k.pc (encodeSeq (.sem .ssig d a b sel kb)) k.stNext)) ∧
     (∀ u, tileOfCode t ((getReg k b).toNat % 128) ((getReg k b).toNat / 128 % 2 == 1) = some u →
       completes (.ssigt t th d a b sel kb) s (signal u (.thread t th k.pc (encodeSeq (.sem .ssigt d a b sel kb)) k.stNext))) ∧
     completes (.sread t th d a b sel kb) s (fun n => wroteReg s n t th d (BitVec.ofNat 64 (x.count + if x.ovf then 65536 else 0))) ∧
     (m ≤ x.count → completes (.sdec t th d a b sel kb) s fun n =>
       sem n { x with count := x.count - m } ∧ getThread n.dev t th = k.issued) ∧
     ((∀ w, x.waiters.head? = some w → m < waiterN w) → completes (.sset t th d a b sel kb) s fun n =>
       sem n { count := m, ovf := false, waiters := x.waiters } ∧ getThread n.dev t th = k.issued) ∧
     completes (.sset t th d a b sel kb) s (fun n =>
       n.dev = serveSem (setSem (seqDone (takeSlot s.dev t th) t th id) t sm m) t sm) ∧
     (∀ y j r, x.waiters = [.thread y j] → y ≠ th → (getThread s.dev t y).wait = .swait r sm → j ≤ m →
       completes (.sset t th d a b sel kb) s fun n =>
         alone n { count := m - j, ovf := false, waiters := [] } ∧ served n y r ∧ getThread n.dev t th = k.issued) ∧
     (m = 0 → completes (.swait t th d a b sel kb) s fun n => wroteReg s n t th d 0) ∧
     (m ≠ 0 → x.waiters = [] → m ≤ x.count → completes (.swait t th d a b sel kb) s fun n =>
       sem n { x with count := x.count - m } ∧
       (∀ q, getReg (getThread n.dev t th) q = if q = d then 0 else getReg k q) ∧
       getThread n.dev t th = { k.issued with regs := (getThread n.dev t th).regs }) ∧
     (m ≠ 0 → (match x.waiters with | [] => x.count < m | w :: _ => x.count < waiterN w) →
       completes (.swait t th d a b sel kb) s fun n =>
         sem n { x with waiters := x.waiters ++ [.thread th m] } ∧ getThread n.dev t th = { k.issued with wait := .swait d sm }) ∧
     (m ≠ 0 → completes (.swait t th d a b sel kb) s fun n =>
       let joined := modSem (modThread (seqDone (takeSlot s.dev t th) t th id) t th fun y => { y with wait := .swait d sm }) t sm
         fun y => { y with waiters := y.waiters ++ [.thread th m] }
       n.dev.mem = s.dev.mem ∧ n.dev.sigs = s.dev.sigs ∧ n.dev.log = s.dev.log ∧
       getSem n.dev t sm = getSem (serveSem joined t sm) t sm ∧ ∀ y, getThread n.dev t y = getThread (serveSem joined t sm) t y) ∧
     (∀ y j r, m ≠ 0 → x.waiters = [.thread y j] → y ≠ th → (getThread s.dev t y).wait = .swait r sm → j ≤ x.count →
       (x.count - j < m → completes (.swait t th d a b sel kb) s fun n =>
         alone n { x with count := x.count - j, waiters := [.thread th m] } ∧ served n y r ∧
         getThread n.dev t th = { k.issued with wait := .swait d sm }) ∧
       (m ≤ x.count - j → completes (.swait t th d a b sel kb) s fun n =>
         alone n { x with count := x.count - j - m, waiters := [] } ∧ served n y r ∧
         (∀ q, getReg (getThread n.dev t th) q = if q = d then 0 else getReg k q) ∧
         getThread n.dev t th = { k.issued with regs := (getThread n.dev t th).regs }))) ∧
  (∀ (s : State) (t u : TileId) (th : Thr) (d a b : Reg) (sel : BitVec 6) (kb : Bool) (sm : SemId)
     (tab : List (Nat × Bool)) (dst : Nat),
     mayIssue s.dev t th = true → sm.val = sel.toNat → s.dev.fab.ranks = some tab →
     let k := getThread s.dev t th
     let m := if kb then (getReg k a).toNat % 65536 else 1
     let code := (getReg k b).toNat % 256
     tab[(getReg k b).toNat / 256 % 65536]? = some (dst, true) → remoteTile code = some u →
     (dst = ownAddr s.dev → completes (.ssigr t th d a b sel kb) s fun n =>
       n.dev.sigs = s.dev.sigs ++ [⟨u, sm, m, .program, none, none⟩] ∧
       n.dev.mem = (flushStores (takeSlot s.dev t th) t th k.stNext).mem ∧
       getThread n.dev t th = { k.issued with posted := k.posted.filter fun p => !decide (p.1 < k.stNext) }) ∧
     (dst ≠ ownAddr s.dev → completes (.ssigr t th d a b sel kb) s fun n =>
       n.dev.sigs = s.dev.sigs ∧ fget 0 n.dev.fab.sigSeq dst = fget 0 s.dev.fab.sigSeq dst + 1 ∧
       n.dev.mem = (flushStores (takeSlot s.dev t th) t th k.stNext).mem ∧
       (∃ r ∈ n.dev.fab.retained, r.pkt.type = 6 ∧ r.pkt.dst = dst ∧ r.pkt.seq = fget 0 s.dev.fab.sigSeq dst ∧
         r.pkt.payload = natLe 1 code ++ natLe 1 sm.val ++ natLe 2 m) ∧
       getThread n.dev t th = { k.issued with posted := k.posted.filter fun p => !decide (p.1 < k.stNext) })) ∧
  (∀ (d : Dev) (t : TileId) (sm : SemId) (w : Waiter) (ws : List Waiter), (getSem d t sm).waiters = w :: ws →
     ((getSem d t sm).count < waiterN w → serveSem d t sm = d) ∧
     (waiterN w ≤ (getSem d t sm).count → serveSem d t sm =
       serveSem (grant (modSem d t sm fun x => { x with count := x.count - waiterN w, waiters := ws }) t w) t sm))

/-- THR (R217, R236, Table 10-5): TEXIT and a TSTOP of itself leave the thread IDLE; TSTART starts an IDLE or FAULTED thread at
the PC given and answers 0, or 1 where it runs (a FAULTED thread's wait that R233 left standing is abandoned: log entry 148, the model's
own choice); TWAKE ends another thread's SWAIT with 1 and gives its count to nobody; TSTOP
leaves another thread IDLE and takes it out of the semaphore's line. -/
def Obligations.ThreadControl : Prop :=
  ∀ (s : State) (t : TileId) (th x : Thr) (d a b : Reg), mayIssue s.dev t th = true →
    let k := getThread s.dev t th
    let g := getThread s.dev t x
    let exits := fun (n : State) => threadOnly s n t th { k.issued with st := .idle, busy := false }
    let answers := fun (n : State) (v : W64) => (∀ q, getReg (getThread n.dev t th) q = if q = d then v else getReg k q) ∧
      getThread n.dev t th = { k.issued with regs := (getThread n.dev t th).regs }
    completes (.texit t th d a b) s exits ∧
    ((getReg k a).toNat = x.val →
      ((g.st = .idle ∨ g.st = .faulted) → (∀ r m, g.wait ≠ .swait r m) → completes (.tstart t th d a b) s fun n =>
        onlyTiles s n ∧ ownTile s n t ∧ (∀ y, y ≠ th → y ≠ x → getThread n.dev t y = getThread s.dev t y) ∧
        getThread n.dev t x = { g with pc := getReg k b, st := .ready, busy := false, wait := .none, held := false } ∧ answers n 0) ∧
      (∀ r sm, (g.st = .idle ∨ g.st = .faulted) → k.wait = .none → g.wait = .swait r sm → completes (.tstart t th d a b) s fun n =>
        n.dev.mem = s.dev.mem ∧ n.dev.sigs = s.dev.sigs ∧ n.dev.log = s.dev.log ∧ answers n 0 ∧
        getThread n.dev t x = { g with pc := getReg k b, st := .ready, busy := false, wait := .none, held := false } ∧
        ∀ m, Waiter.thread x m ∉ (getSem n.dev t sm).waiters) ∧
      (g.st ≠ .idle → g.st ≠ .faulted → completes (.tstart t th d a b) s fun n => wroteReg s n t th d 1) ∧
      (∀ r sm, x ≠ th → k.wait = .none → g.wait = .swait r sm → completes (.twake t th d a b) s fun n =>
        n.dev.mem = s.dev.mem ∧ n.dev.sigs = s.dev.sigs ∧ n.dev.log = s.dev.log ∧ answers n 0 ∧ (∀ m, Waiter.thread x m ∉ (getSem n.dev t sm).waiters) ∧
        ((∀ w ∈ (getSem s.dev t sm).waiters, ∃ m, w = .thread x m) → (getSem n.dev t sm).count = (getSem s.dev t sm).count) ∧
        (∀ q, getReg (getThread n.dev t x) q = if q = r then 1 else getReg g q) ∧
        getThread n.dev t x = { g with regs := (getThread n.dev t x).regs, wait := .none, st := g.woken }) ∧
      ((∀ r sm, g.wait ≠ .swait r sm) → completes (.twake t th d a b) s fun n => wroteReg s n t th d 1) ∧
      (x ≠ th → k.wait = .none → completes (.tstop t th d a b) s fun n =>
        n.dev.mem = s.dev.mem ∧ n.dev.sigs = s.dev.sigs ∧ n.dev.log = s.dev.log ∧ answers n 0 ∧ getThread n.dev t x = { g with st := .idle, wait := .none, busy := false } ∧
        (∀ r sm, g.wait = .swait r sm → ∀ m, Waiter.thread x m ∉ (getSem n.dev t sm).waiters)) ∧
      (x = th → completes (.tstop t th d a b) s exits))

/-- ISSUE, ISSUE_QUEUE_ENTRY and QCANCEL (R223, R237): earlier stores are written, the descriptor is read and checked; refused,
D receives the code and nothing is queued; otherwise the thread waits, and the descriptor is accepted when its queue has a free
entry (log entry 100, DEDUCED). QCANCEL leaves in the queue exactly the entries that it may not remove, as they were where no wait on a
semaphore could have been served before. -/
def Obligations.IssueResults : Prop :=
  (∀ (s : State) (t : TileId) (th : Thr) (d a b : Reg) (u : BitVec 3) (kb : Bool), mayIssue s.dev t th = true →
    let k := getThread s.dev t th
    let ad := (getReg k a).toNat
    let rd := (getReg k b).toNat
    let e1 := flushStores (takeSlot s.dev t th) t th k.stNext
    let words := toWords 16 (spRead e1 t ad 64)
    let code := checkDesc e1 t u.toNat words
    let ent : QEnt := { id := 0, unit := u.toNat, words := words, phase := .waiting
                        org := .thread th (BitVec.ofNat 32 (k.issueSeq + 1)) (if kb then some rd else none) }
    ad % 64 = 0 → ad + 64 ≤ scratchSize t → (kb = true → rd % 32 = 0 ∧ rd + 32 ≤ scratchSize t) →
    spPoisonAt e1 t ad 64 = none →
    (code ≠ 0 → completes (.issue t th d a b u kb) s fun n =>
      (∀ j, getQueue n.dev t j = getQueue e1 t j) ∧ n.dev.sigs = s.dev.sigs ∧
      getReg (getThread n.dev t th) d = BitVec.ofNat 64 code ∧ (getThread n.dev t th).issueSeq = k.issueSeq ∧
      (getThread n.dev t th).pc = k.pc + 4 ∧ (kb = false → n.dev.mem = e1.mem)) ∧
    (code = 0 → completes (.issue t th d a b u kb) s fun n =>
      (∀ j, getQueue n.dev t j = getQueue e1 t j) ∧ (getThread n.dev t th).issueSeq = k.issueSeq ∧
      (getThread n.dev t th).wait = .queue d ent ∧ (getThread n.dev t th).pc = k.pc + 4 ∧ n.dev.mem = e1.mem)) ∧
  (∀ (s : State) (t : TileId) (th : Thr) (d : Reg) (e : QEnt), tileActs s.dev t = true →
    (getThread s.dev t th).wait = .queue d e → hasRoom s.dev t e = true → completes (.issueQueueEntry t th) s fun n =>
      (∀ j, getQueue n.dev t j = if j = e.unit then getQueue s.dev t j ++ [{ e with id := s.dev.stamp, late := waitOpen s.dev t e }]
        else getQueue s.dev t j) ∧
      n.dev.stamp = s.dev.stamp + 1 ∧ getReg (getThread n.dev t th) d = 0 ∧
      (getThread n.dev t th).issueSeq = ((getThread s.dev t th).issueSeq + 1) % 2 ^ 32 ∧ (getThread n.dev t th).wait = .none ∧
      otherThreads s n t th) ∧
  (∀ (s : State) (t : TileId) (th : Thr) (d : Reg) (u : BitVec 3) (own : Bool), mayIssue s.dev t th = true →
    let l := (getQueue s.dev t u.toNat).filter (cancellable th own)
    completes (.qcancel t th d u own) s fun n =>
      getReg (getThread n.dev t th) d = BitVec.ofNat 64 l.length ∧ n.dev.sigs = s.dev.sigs ∧
      (l = [] → wroteReg s n t th d 0) ∧
      ((∀ e ∈ getQueue s.dev t u.toNat, e.unit = u.toNat) → ((getQueue s.dev t u.toNat).map QEnt.id).Nodup →
        let left := (getQueue s.dev t u.toNat).filter fun e => !cancellable th own e
        (getQueue n.dev t u.toNat).map (fun e => (e.id, e.words, e.org)) = left.map (fun e => (e.id, e.words, e.org)) ∧
        ((∀ sm w, w ∈ (getSem s.dev t sm).waiters → 1 ≤ waiterN w ∧
            ((getSem s.dev t sm).waiters.head? = some w → (getSem s.dev t sm).count < waiterN w)) →
          getQueue n.dev t u.toNat = left)))

/-- FENCE and FENCE_END (R238), BLOCK_TIME_END (R216): what a thread waits for, and the end of the wait. -/
def Obligations.FenceAndBlocks : Prop :=
  (∀ (s : State) (t : TileId) (th : Thr) (d : Reg) (m : BitVec 3), mayIssue s.dev t th = true →
    completes (.fence t th d m) s fun n =>
      threadOnly s n t th { (getThread s.dev t th).issued with busy := false, wait := .fence m }) ∧
  (∀ (s : State) (t : TileId) (th : Thr) (m : BitVec 3), tileActs s.dev t = true → (getThread s.dev t th).wait = .fence m →
    (m.getLsbD 0 = true → (getThread s.dev t th).posted = []) → (m.getLsbD 1 = true → hasOpen s.dev t th = false) →
    completes (.fenceEnd t th) s fun n =>
      onlyTiles s n ∧ otherThreads s n t th ∧
      getThread n.dev t th = { getThread s.dev t th with wait := .none, st := (getThread s.dev t th).woken } ∧
      (getTile n.dev t).icache = (if m.getLsbD 2 then [] else (getTile s.dev t).icache)) ∧
  (∀ (s : State) (t : TileId) (th : Thr), tileActs s.dev t = true → (getThread s.dev t th).busy = true →
    let k := getThread s.dev t th
    completes (.blockTimeEnd t th) s fun n => threadOnly s n t th
      { k with busy := false, st := if k.st = .blocked ∧ k.wait = .none ∧ k.held = false then .ready else k.st })

/-- The thread that issues next (R215): READY, of the highest PRIORITY present, and within it the next in turn.
ISSUE_SELECT and ICACHE_MISS_FILL (R215, R219): the selected thread issues the cached word at its PC, or waits for the line,
which is then read from the tile's scratchpad. -/
def Obligations.SelectionRule : Prop :=
  (∀ (d : Dev) (t : TileId),
     (selectThread d t = none ↔ ∀ x, (getThread d t x).st ≠ .ready) ∧
     (∀ th, selectThread d t = some th →
       let p := (getThread d t th).prio
       let last := fget 0 (getTile d t).lastIssue p
       (getThread d t th).st = .ready ∧
       (∀ x, (getThread d t x).st = .ready → (getThread d t x).prio ≤ p) ∧
       (∀ x, (getThread d t x).st = .ready → (getThread d t x).prio = p →
         (last ≤ th.val → last ≤ x.val → th ≤ x) ∧ (th.val < last → x.val < last ∧ th ≤ x)))) ∧
  ((∀ (s : State) (t : TileId) (th : Thr) (b : Byte) (l : List Byte), tileActs s.dev t = true → selectThread s.dev t = some th →
     let pc := (getThread s.dev t th).pc.toNat
     pc % 4 = 0 → pc + 4 ≤ scratchSize t → hitsPool s.dev t pc 4 = false →
     (fget [] (getTile s.dev t).icache (pc / 64) = b :: l → ∀ i,
       decodeSeq (BitVec.ofNat 32 (recf (b :: l) (pc % 64) 4)) = some i →
       completes (.issueSelect t) s fun n =>
         n = { s with dev := seqEffect (takeSlot s.dev t th) t th (BitVec.ofNat 32 (recf (b :: l) (pc % 64) 4)) i }) ∧
     (fget [] (getTile s.dev t).icache (pc / 64) = [] → completes (.issueSelect t) s fun n => threadOnly s n t th
       { getThread s.dev t th with st := .blocked, busy := false, wait := .icache (pc / 64) })) ∧
   (∀ (s : State) (t : TileId) (th : Thr) (line : Nat), tileActs s.dev t = true → (getThread s.dev t th).wait = .icache line →
     spPoisonAt s.dev t (line * 64) 64 = none → (getTile s.dev t).icache.length < 256 →
     completes (.icacheMissFill t th none) s fun n =>
       onlyTiles s n ∧ otherThreads s n t th ∧
       (∀ j, fget [] (getTile n.dev t).icache j =
         if j = line then spRead s.dev t (line * 64) 64 else fget [] (getTile s.dev t).icache j) ∧
       getThread n.dev t th = { getThread s.dev t th with wait := .none, st := (getThread s.dev t th).woken }))

/-- SIGNAL_TAKES_EFFECT (R229, R233), WAIT_LIMIT_EXPIRY (R235) and DESCRIPTOR_WAIT_SEM (R224): where nobody waits, the count takes
the sum of the signals, held at 65,535 with OVF and an event; an SSET of the same tc acts before the sum, an SDEC after it; an
expired wait leaves its line and writes 2; a descriptor passes its WAIT_SEM, takes one count, or joins the line. -/
def Obligations.SignalsAndWaits : Prop :=
  (∀ (s : State) (t : TileId) (sm : SemId) (which : List Nat), alive s.dev = true →
    let got := (pickSigs t sm which [] 0 s.dev.sigs).1
    let x := getSem s.dev t sm
    let sum := (got.map (·.n)).sum
    let total := x.count + sum
    got ≠ [] → x.waiters = [] →
      (total ≤ 65535 → completes (.signalTakesEffect t sm ⟨which, false⟩) s fun n =>
        n.dev.sigs = (pickSigs t sm which [] 0 s.dev.sigs).2 ∧ getSem n.dev t sm = { x with count := total }) ∧
      (65535 < total → completes (.signalTakesEffect t sm ⟨which, false⟩) s fun n =>
        getSem n.dev t sm = { x with count := 65535, ovf := true } ∧
        (∃ e ∈ n.dev.log.inbox, e.code = 0x0012 ∧ e.source = tileSource s.dev t 0)) ∧
      (∀ (th : Thr) (w : W32) (d a b : Reg) (sel : BitVec 6) (kb : Bool),
        let k := getThread s.dev t th
        let m := if kb then (getReg k a).toNat % 65536 else 1
        (sameTc s.dev t sm = some (th, w, .sem .sset d a b sel kb) → m + sum ≤ 65535 →
          completes (.signalTakesEffect t sm ⟨which, true⟩) s fun n =>
            getSem n.dev t sm = { x with count := m + sum, ovf := false } ∧ (getThread n.dev t th).pc = k.pc + 4) ∧
        (sameTc s.dev t sm = some (th, w, .sem .sdec d a b sel kb) → m ≤ total → total ≤ 65535 →
          completes (.signalTakesEffect t sm ⟨which, true⟩) s fun n =>
            getSem n.dev t sm = { x with count := total - m } ∧ (getThread n.dev t th).pc = k.pc + 4))) ∧
  (∀ (s : State) (t : TileId) (th : Thr) (r : Reg) (sm : SemId), tileActs s.dev t = true →
    let k := getThread s.dev t th
    k.wait = .swait r sm → k.waitLimit ≠ 0 → completes (.waitLimitExpiry t th) s fun n =>
      n.dev.mem = s.dev.mem ∧ n.dev.sigs = s.dev.sigs ∧ n.dev.log = s.dev.log ∧ (∀ m, Waiter.thread th m ∉ (getSem n.dev t sm).waiters) ∧
      (∀ q, getReg (getThread n.dev t th) q = if q = r then 2 else getReg k q) ∧
      getThread n.dev t th = { k with regs := (getThread n.dev t th).regs, wait := .none, st := k.woken }) ∧
  (∀ (s : State) (t : TileId) (u : Fin 5) (e : QEnt) (r : List QEnt), tileActs s.dev t = true →
    getQueue s.dev t u = e :: r → e.phase = .waiting → atHead s.dev t e = true →
    let w := waitSemOf e.words
    (48 ≤ w → completes (.descriptorWaitSem t u 0) s fun n =>
      onlyTiles s n ∧ getQueue n.dev t u = { e with phase := .ready } :: r) ∧
    (∀ sm : SemId, sm.val = w → (getSem s.dev t sm).waiters = [] →
      (1 ≤ (getSem s.dev t sm).count → completes (.descriptorWaitSem t u 0) s fun n =>
        onlyTiles s n ∧ getQueue n.dev t u = { e with phase := .ready } :: r ∧
        getSem n.dev t sm = { getSem s.dev t sm with count := (getSem s.dev t sm).count - 1 }) ∧
      ((getSem s.dev t sm).count = 0 → completes (.descriptorWaitSem t u 0) s fun n =>
        onlyTiles s n ∧ getQueue n.dev t u = (({ e with phase := .joined } :: r).map fun f =>
          if u = 2 ∧ dfield f.words 0 0 8 = 0x94 ∧ signalSemOf f.words = w then { f with late := true } else f) ∧
        getSem n.dev t sm = { getSem s.dev t sm with waiters := [.desc u e.id] })))

/-- Thread faults (R239): SDEC below zero, a semaphore number above 47, a control register that does not take the value, a
misaligned, outside or poisoned access. The thread is FAULTED with its registers, PC and posted stores kept, the record is
written where FAULT_BASE enables it, FAULT_SEM is signalled, and an event is recorded. -/
def Obligations.ThreadFaults : Prop :=
  ∀ (s : State) (t : TileId) (th : Thr) (d a b : Reg), mayIssue s.dev t th = true → (getThread s.dev t th).wait = .none →
    let k := getThread s.dev t th
    let base := (getTile s.dev t).faultBase.toNat
    let faults := fun (i : SeqInstr) (c : Instr) (code detail : Nat) =>
      let record := natLe 1 code ++ zbytes 3 ++ natLe 4 k.pc.toNat ++ natLe 4 (encodeSeq i).toNat ++ natLe 4 detail
      completes c s fun n =>
        otherThreads s n t th ∧ (∀ u m, getSem n.dev u m = getSem s.dev u m) ∧ (∀ u j, getQueue n.dev u j = getQueue s.dev u j) ∧
        getThread n.dev t th = { k with st := .faulted, wait := .none, busy := false } ∧
        n.dev.sigs = s.dev.sigs ++ (if h : (getTile s.dev t).faultSem < 48 then [⟨t, ⟨_, h⟩, 1, .fault, none, some t⟩] else []) ∧
        (∃ e ∈ n.dev.log.inbox, e.code = 0x0011 ∧ e.detail.take 16 = record) ∧
        (base % 2 = 0 → n.dev.mem = s.dev.mem) ∧
        (base % 2 = 1 → spPartial s.dev t (base / 64 * 64 + 16 * th.val) 16 = none →
          wroteBytes s n t (base / 64 * 64 + 16 * th.val) record)
    (∀ (sel : BitVec 6) (kb : Bool) (sm : SemId), sm.val = sel.toNat →
      (getSem s.dev t sm).count < semN (getReg k a) kb →
      faults (.sem .sdec d a b sel kb) (.sdec t th d a b sel kb) 5 sm.val) ∧
    (∀ (sel : BitVec 6) (kb : Bool), 48 ≤ sel.toNat → faults (.sem .ssig d a b sel kb) (.ssig t th d a b sel kb) 4 sel.toNat) ∧
    (∀ (sel : BitVec 6), 11 ≤ sel.toNat → faults (.csr .read d a sel) (.csrRead t th d a sel) 8 sel.toNat) ∧
    (∀ (sel : BitVec 6), (∃ old, csrVal s.dev t th sel.toNat = some old) → csrTakes t sel.toNat (getReg k a).toNat = false →
      faults (.csr .write d a sel) (.csrWrite t th d a sel) 8 sel.toNat) ∧
    (∀ (w : Width) (o : BitVec 13),
      let m := widthBytes w
      let ad := (BitVec.ofInt 64 ((getReg k a).toNat + o.toInt * m)).toNat
      (ad % m ≠ 0 → faults (.ld d a w false o) (.ld t th d a w false o) 3 ad ∧ faults (.st d a w o) (.st t th d a w o) 3 ad) ∧
      (ad % m = 0 → scratchSize t < ad + m → faults (.ld d a w false o) (.ld t th d a w false o) 2 ad ∧
        faults (.st d a w o) (.st t th d a w o) 2 ad) ∧
      (ad % m = 0 → ad + m ≤ scratchSize t → spPoisonAt s.dev t ad m ≠ none →
        faults (.ld d a w false o) (.ld t th d a w false o) 7 ad ∧ faults (.st d a w o) (.st t th d a w o) 7 ad))

/-! ### Matrix operations (chapter 3) -/

/-- MATRIX_PRODUCT and QUAD_GANG_START (R57, R65, R110): the operation at the head that has passed WAIT_SEM runs, and its taps
send their rows, the forward tap first. -/
def Obligations.MatrixStart : Prop :=
  ∀ (s : State) (t : TileId) (e : QEnt) (r : List QEnt), alive s.dev = true → getQueue s.dev t 0 = e :: r →
    e.phase = .ready → loadAhead s.dev t e = false →
    let w := e.words
    (bitAt (wordAt w 13) 12 = true → slotEmpty s.dev t (dfield w 13 4 8) = false) →
    (dfield w 0 15 1 = 1 → ∀ i, i < matM w → spIsInvalid s.dev (matDest t w) (cAddr w i 0) (4 * matN w) = false) →
    let taps := (if bitAt (wordAt w 0) 18 then [tapOf s.dev t w e.id false] else []) ++
      (if bitAt (wordAt w 0) 19 then [tapOf s.dev t w e.id true] else [])
    completes (if isQuad e then .quadGangStart t 0 none else .matrixProduct t 0 none) s fun n =>
      n = { s with dev := { s.dev with tiles := n.dev.tiles, curv := n.dev.curv } } ∧
      (∀ u, getTile n.dev u = { getTile s.dev u with queues := (getTile n.dev u).queues, feedQ := (getTile n.dev u).feedQ }) ∧
      (∀ u j, u ≠ t → getQueue n.dev u j = getQueue s.dev u j) ∧ (dfield w 0 12 1 = 0 → ∀ u, (getTile n.dev u).feedQ = (getTile s.dev u).feedQ) ∧
      getQueue n.dev t 0 = { e with phase := .running } :: r ∧ (∀ j, j ≠ 0 → getQueue n.dev t j = getQueue s.dev t j) ∧
      (∀ c, getCurv n.dev c = if c = dfield w 15 12 3 then { getCurv s.dev c with openRecs := (getCurv s.dev c).openRecs ++ taps }
        else getCurv s.dev c)

/-- MATRIX_DRAIN (R34-R37, R68, R90): the block's elements are the combined block sums of its operand rows and columns, from +0 or from C
with ACCUM; without an epilogue they are narrowed and stored row by row, and no other byte changes; with one they are held. EPILOGUE_BEAT
(R90, R91): the next 256 results of the held block pass through the element of E and the table; the last beat of a block ends its hold.
MATRIX_WRITE_BACK_COMPLETE (R69, R225): the operation whose blocks have all drained leaves its queue with OK; its signal carries its record,
or without a signal the record is written. -/
def Obligations.MatrixDrainResult : Prop :=
  (∀ (s : State) (t : TileId) (e : QEnt) (r : List QEnt) (blk : Nat), alive s.dev = true → getQueue s.dev t 0 = e :: r →
     e.phase = .running → blk ∉ e.blks → blk < matBlocks e.words → e.bufBlk = none → earlierOp s.dev t e = false →
     let w := e.words
     let r0 := (matBlock w blk).1
     let rn := (matBlock w blk).2.1
     tapsHold s.dev w e.id r0 rn = false →
     let c0 := (matBlock w blk).2.2.1
     let cn := (matBlock w blk).2.2.2
     let u := matDest t w
     let acc := dfield w 0 15 1 = 1
     let as := rowsA s.dev t w r0 rn
     let bs := colsB s.dev t w c0 cn
     let start := fun (i j : Nat) => if acc then (row32 8 false (spRead s.dev u (cAddr w (r0 + i) c0) (4 * cn)) [] cn).getD j 0 else 0
     let row := fun (i : Nat) => (List.range cn).map fun j => matElem w (start i j) (as.getD i []) (bs.getD j [])
     let bytes := fun (i : Nat) => (rowOut (dfield w 1 8 4) (bitAt (wordAt w 1) 14) (row i)).1
     spansPoison s.dev t (operandSpans w r0 rn c0 cn) = none →
     (acc → ∀ i, i < rn → spPoisonAt s.dev u (cAddr w (r0 + i) c0) (4 * cn) = none ∧
       spIsInvalid s.dev u (cAddr w (r0 + i) c0) (4 * cn) = false) →
     (hasEpilogue w = true → completes (.matrixDrain t 0 blk .none) s fun n =>
       onlyTiles s n ∧
       getQueue n.dev t 0 = { e with bufBlk := some blk, buf := (List.range rn).flatMap row, bufPos := 0 } :: r) ∧
     (hasEpilogue w = false → isMx (dfield w 1 8 4) = false → addsIntoC s.dev t w = false → 0 < cn →
       (∀ i, i < rn → spPartial s.dev u (cAddr w (r0 + i) c0) (bytes i).length = none) →
       (∀ i, i < rn → (bytes i).length ≤ dfield w 10 0 21) →
       completes (.matrixDrain t 0 blk .none) s fun n =>
         n = { s with dev := { s.dev with tiles := n.dev.tiles, count := n.dev.count, mem := n.dev.mem } } ∧
         n.dev.mem.tier = s.dev.mem.tier ∧ n.dev.mem.allocs = s.dev.mem.allocs ∧
         (∃ f, getQueue n.dev t 0 = f :: r ∧ f.id = e.id ∧ f.phase = .running ∧ f.words = w ∧ f.blks = e.blks ++ [blk]) ∧
         (∀ i, i < rn → ∀ j, j < (bytes i).length → spRead n.dev u (cAddr w (r0 + i) c0 + j) 1 = [(bytes i).getD j 0]) ∧
         (∀ v y, (∀ i, i < rn → spKey v y < spKey u (cAddr w (r0 + i) c0) ∨
             spKey u (cAddr w (r0 + i) c0) + (bytes i).length ≤ spKey v y) →
           spRead n.dev v y 1 = spRead s.dev v y 1))) ∧
  (∀ (s : State) (t : TileId) (e : QEnt) (r : List QEnt) (blk : Nat), alive s.dev = true → getQueue s.dev t 0 = e :: r →
     e.bufBlk = some blk →
     let w := e.words
     let cn := (matBlock w blk).2.2.2
     let at_ := fun (j : Nat) => eAddr w ((matBlock w blk).1 + (e.bufPos + j) / cn) ((matBlock w blk).2.2.1 + (e.bufPos + j) % cn)
     let beat := (e.buf.drop e.bufPos).take 256
     let size := fmtBits (dfield w 1 8 4) / 8
     let elem := fun (j : Nat) => if dfield w 13 0 4 = 0 then 0
       else rne32 (elemVal (dfield w 1 8 4) false 0 (leNat (spRead s.dev t (at_ j) size)))
     let out := (List.range beat.length).map fun j => epiVal (getTile s.dev t).slots w (beat.getD j 0) (elem j)
     (dfield w 13 0 4 ≠ 0 → ∀ j, j < beat.length → spPoisonAt s.dev t (at_ j) size = none) →
     (e.bufPos + 256 < e.buf.length → completes (.epilogueBeat t 0 none) s fun n =>
       onlyTiles s n ∧ (getTile n.dev t).shadow = ((getTile s.dev t).shadow + 1) % 256 ∧ getQueue n.dev t 0 =
         { e with buf := e.buf.take e.bufPos ++ out ++ e.buf.drop (e.bufPos + 256), bufPos := e.bufPos + 256 } :: r) ∧
     (e.buf.length ≤ e.bufPos + 256 → (∀ u a m, spPartial s.dev u a m = none ∧ spPoisonAt s.dev u a m = none) →
       completes (.epilogueBeat t 0 none) s fun n =>
         ∃ f, getQueue n.dev t 0 = f :: r ∧ f.bufBlk = none ∧ f.blks = e.blks ++ [blk] ∧ f.phase = e.phase)) ∧
  (∀ (s : State) (t : TileId) (e : QEnt) (r : List QEnt) (th : Thr) (q : W32) (rec : Option Nat), alive s.dev = true →
     getQueue s.dev t 0 = e :: r → e.unit = 0 → e.phase = .running → matBlocks e.words ≤ e.blks.length →
     earlierOp s.dev t e = false → tapsOpen s.dev e.words e.id = false → e.org = .thread th q rec →
     let record := rec.map fun a : Nat =>
       (⟨t, a, 0, 0, e.status, e.blks.length, e.alloc, e.aux, e.off, q.toNat, th.val⟩ : Rec)
     completes (.matrixWriteBackComplete t 0) s fun n =>
       getQueue n.dev t 0 = r ∧
       (∀ sm : SemId, sm.val = signalSemOf e.words →
         n.dev.sigs = s.dev.sigs ++ [⟨t, sm, 1, .desc, record, some t⟩] ∧ n.dev.mem = s.dev.mem) ∧
       (48 ≤ signalSemOf e.words → n.dev.sigs = s.dev.sigs ∧ (rec = none → n.dev.mem = s.dev.mem) ∧
         (∀ a, rec = some a → spPartial s.dev t a 32 = none →
           wroteBytes s n t a (natLe 1 0 ++ natLe 1 0 ++ natLe 2 e.status ++ natLe 4 e.blks.length ++ natLe 4 e.alloc ++
             natLe 4 e.aux ++ natLe 8 e.off ++ natLe 4 q.toNat ++ zbytes 4))))

/-! ### Vector instructions (chapter 4) -/

/-- Element-wise, conversion and table opcodes (R73, R76, R85, Table 4-3) on a row of at most 256 elements: each element of Z is the
opcode's function of the elements of X, Y and W, where Y is a row, IMM or the row's ROWVEC value; no other byte changes, and the instruction
stands done with OK. The pair opcodes PADD, PMUL and PFMA (R40, R41) on a row of at most 256 elements. -/
def Obligations.VectorElementResults : Prop :=
  (∀ (s : State) (t : TileId) (e : QEnt) (r : List QEnt), tileActs s.dev t = true → getQueue s.dev t 1 = e :: r →
     e.phase = .ready → s.dev.mem.spPoison = [] →
     let w := e.words
     let len := dfield w 2 0 24
     let fz := dfield w 1 8 4
     let el := bitAt (wordAt w 0) 14
     let tab := dfield w 0 15 8
     let slots := (getTile s.dev t).slots
     let xs := row32 (dfield w 1 0 4) el (spRead s.dev t (dfield w 4 0 23) (rowBytes (dfield w 1 0 4) len)) [] len
     let ys := row32 (dfield w 1 4 4) false (spRead s.dev t (dfield w 6 0 23) (rowBytes (dfield w 1 4 4) len)) [] len
     let ws := row32 (dfield w 1 12 4) false (spRead s.dev t (dfield w 10 0 23) (rowBytes (dfield w 1 12 4) len)) [] len
     let y := fun (j : Nat) => if bitAt (wordAt w 0) 11 then BitVec.ofNat 32 (leNat (spRead s.dev t (dfield w 14 0 23) 4))
       else if bitAt (wordAt w 0) 10 then w.getD 13 0 else ys.getD j 0
     0 < len → len ≤ 256 → dfield w 3 0 24 = 1 → isMx (dfield w 1 0 4) = false → isMx fz = false → fz ≠ 9 →
     (opcodeOf w = 0x40 ∨ opcodeOf w = 0x41 → slotEmpty s.dev t tab = false) → (opcodeOf w = 0x40 → bitAt (wordAt w 0) 13 = false) →
     let table : List (Nat × Instr × (W32 → W32 → W32 → W32)) :=
       [(0x20, .vadd t .none, fun x y _ => fadd x y), (0x21, .vsub t .none, fun x y _ => fsub x y),
        (0x22, .vmul t .none, fun x y _ => fmul x y), (0x23, .vfma t .none, fun x y w => ffma x y w),
        (0x24, .vmin t .none, fun x y _ => fmin x y), (0x25, .vmax t .none, fun x y _ => fmax x y),
        (0x26, .vabs t .none, fun x _ _ => fabs x), (0x27, .vneg t .none, fun x _ _ => fneg x),
        (0x28, .vsel t .none, fun x y w => canon (if flt 0 x then y else w)), (0x30, .vcvt t .none, fun x _ _ => canon x),
        (0x38, .vrcp t .none, fun x _ _ => frcp x), (0x39, .vrsqrt t .none, fun x _ _ => frsqrt x),
        (0x3A, .vsqrt t .none, fun x _ _ => fsqrt x), (0x3B, .vdiv t .none, fun x y _ => fdiv x y),
        (0x3C, .vexp t .none, fun x _ _ => fexp x), (0x3D, .vlog t .none, fun x _ _ => flog x),
        (0x40, .vact t .none, fun x _ _ => actFn slots tab false x),
        (0x41, .vdact t .none, fun x y _ => fmul y (actFn slots tab true x))]
     ∀ p ∈ table, opcodeOf w = p.1 → completes p.2.1 s fun n =>
       n = { s with dev := { s.dev with tiles := n.dev.tiles, count := n.dev.count, mem := n.dev.mem } } ∧
       n.dev.mem.tier = s.dev.mem.tier ∧ n.dev.mem.allocs = s.dev.mem.allocs ∧
       wroteBytes s n t (dfield w 8 0 23) (rowOut fz el ((List.range len).map fun j => p.2.2 (xs.getD j 0) (y j) (ws.getD j 0))).1 ∧
       ∃ f, getQueue n.dev t 1 = f :: r ∧ f.id = e.id ∧ f.words = w ∧ f.phase = .done ∧ f.code = 0 ∧ f.count = 1) ∧
  (∀ (s : State) (t : TileId) (e : QEnt) (r : List QEnt), tileActs s.dev t = true → getQueue s.dev t 1 = e :: r →
     e.phase = .ready → s.dev.mem.spPoison = [] →
     let w := e.words
     let len := dfield w 2 0 24
     let row := fun (a f : Nat) => rowPairs f (spRead s.dev t a (rowBytes f len)) len
     let xs := row (dfield w 4 0 23) (dfield w 1 0 4)
     let ys := row (dfield w 6 0 23) (dfield w 1 4 4)
     let ws := row (dfield w 10 0 23) (dfield w 1 12 4)
     0 < len → len ≤ 256 → dfield w 3 0 24 = 1 → isMx (dfield w 1 0 4) = false → isMx (dfield w 1 8 4) = false →
     bitAt (wordAt w 0) 10 = false → bitAt (wordAt w 0) 11 = false →
     let table : List (Nat × Instr × (Pair → Pair → Pair → Pair)) :=
       [(0x54, .padd t .none, fun x y _ => padd x y), (0x55, .pmul t .none, fun x y _ => pmul x y), (0x56, .pfma t .none, pfma)]
     ∀ p ∈ table, opcodeOf w = p.1 → completes p.2.1 s fun n =>
       wroteBytes s n t (dfield w 8 0 23) (pairsOut (dfield w 1 8 4)
         ((List.range len).map fun j => p.2.2 (xs.getD j (0, 0)) (ys.getD j (0, 0)) (ws.getD j (0, 0)))) ∧
       n.dev.mem.tier = s.dev.mem.tier ∧
       ∃ f, getQueue n.dev t 1 = f :: r ∧ f.id = e.id ∧ f.phase = .done ∧ f.code = 0)

/-- The row opcodes (R80, R88, R89, Table 4-3) on one row: the reductions write the row's ROWVEC value; normalisation and
softmax write the row, and VLNF and VRNF their ROWVEC value as well. EXACT where REDUCE or the destination's EXACT_RED asks
for it (R44). -/
def Obligations.VectorRowResults : Prop :=
  ∀ (s : State) (t : TileId) (e : QEnt) (r : List QEnt), tileActs s.dev t = true → getQueue s.dev t 1 = e :: r →
    e.phase = .ready → s.dev.mem.spPoison = [] →
    let w := e.words
    let len := dfield w 2 0 24
    let fz := dfield w 1 8 4
    let za := dfield w 8 0 23
    let rv := dfield w 14 0 23
    let x := row32 (dfield w 1 0 4) false (spRead s.dev t (dfield w 4 0 23) (rowBytes (dfield w 1 0 4) len)) [] len
    let y := row32 (dfield w 1 4 4) false (spRead s.dev t (dfield w 6 0 23) (rowBytes (dfield w 1 4 4) len)) [] len
    let old := BitVec.ofNat 32 (leNat (spRead s.dev t rv 4))
    let c := f32OfNat len
    let eps := w.getD 13 0
    let done := fun (n : State) => n.dev.mem.tier = s.dev.mem.tier ∧ n.dev.sigs = s.dev.sigs ∧
      ∃ f, getQueue n.dev t 1 = f :: r ∧ f.id = e.id ∧ f.phase = .done ∧ f.code = 0 ∧ f.count = 1
    dfield w 3 0 24 = 1 → 0 < len →
    let exR := (modeAt s.dev t w rv).1
    let exZ := (modeAt s.dev t w za).1
    let reductions : List (Nat × Instr × W32) :=
      [(0x48, .vrsum t .none, rowSum exR x), (0x49, .vrmax t .none, x.foldl fmax (inf32 true)),
       (0x4A, .vrssq t .none, rowSsq exR x), (0x4B, .vrdot t .none, rowDot exR x y)]
    let softmax := x.map fun v => fexp (fsub v (x.foldl fmax (inf32 true)))
    let rowsOnly : List (Nat × Instr × List W32) :=
      [(0x4E, .vlnb t .none, List.zipWith (fun h g => fmul old (ffma (fneg h) (fdiv (rowDot exZ y x) c)
          (fsub g (fdiv (rowSum exZ y) c)))) x y),
       (0x4F, .vrnb t .none, List.zipWith (fun h g => fmul old (ffma (fneg h) (fdiv (rowDot exZ y x) c) g)) x y),
       (0x50, .vsmf t .none, softmax.map fun v => fdiv v (rowSum exZ softmax)),
       (0x51, .vsmb t .none, List.zipWith (fun h g => fmul h (fsub g (rowDot exZ y x))) x y)]
    let mean := x.map fun v => fsub v (fdiv (rowSum exZ x) c)
    let scales : List (Nat × Instr × List W32 × W32) :=
      [(0x4C, .vlnf t .none, mean, frsqrt (fadd (fdiv (rowSsq exZ mean) c) eps)),
       (0x4D, .vrnf t .none, x, frsqrt (fadd (fdiv (rowSsq exZ x) c) eps))]
    (∀ p ∈ reductions, opcodeOf w = p.1 → completes p.2.1 s fun n => done n ∧ wroteBytes s n t rv (natLe 4 p.2.2.toNat)) ∧
    (∀ p ∈ rowsOnly, opcodeOf w = p.1 → completes p.2.1 s fun n => done n ∧ wroteBytes s n t za (rowOut fz false p.2.2).1) ∧
    (∀ p ∈ scales, opcodeOf w = p.1 → completes p.2.1 s fun n =>
      let z := (rowOut fz false (p.2.2.1.map fun v => fmul v p.2.2.2)).1
      done n ∧ (∀ i, i < 4 → spRead n.dev t (rv + i) 1 = [(natLe 4 p.2.2.2.toNat).getD i 0]) ∧
      (rv + 4 ≤ za ∨ za + z.length ≤ rv → ∀ i, i < z.length → spRead n.dev t (za + i) 1 = [z.getD i 0]) ∧
      (∀ u a, (spKey u a < spKey t za ∨ spKey t za + z.length ≤ spKey u a) → (spKey u a < spKey t rv ∨ spKey t rv + 4 ≤ spKey u a) →
        spRead n.dev u a 1 = spRead s.dev u a 1))

/-- VREDUCE (R46-R48, R82) on at most 256 elements: each element is the ordered sum of its partials, or one rounding of the
exact sum of them all. -/
def Obligations.VectorReduceResult : Prop :=
  ∀ (s : State) (t : TileId) (e : QEnt) (r : List QEnt), tileActs s.dev t = true → getQueue s.dev t 1 = e :: r →
    e.phase = .ready → s.dev.mem.spPoison = [] → opcodeOf e.words = 0x58 →
    let w := e.words
    let len := dfield w 2 0 24
    let fx := dfield w 1 0 4
    let fz := dfield w 1 8 4
    let accum := bitAt (wordAt w 0) 12
    let bytes := fun (i : Nat) => spRead s.dev t (dfield w 4 0 23 + i * dfield w 5 0 23) (rowBytes fx len)
    let zb := spRead s.dev t (dfield w 8 0 23) (rowBytes fz len)
    let parts := (if accum then [(fz, zb)] else []) ++ (List.range (dfield w 3 0 24)).map fun i => (fx, bytes i)
    0 < len → len ≤ 256 → 0 < dfield w 3 0 24 → isMx fz = false →
    completes (.vreduce t .none) s fun n =>
      n.dev.mem.tier = s.dev.mem.tier ∧ n.dev.sigs = s.dev.sigs ∧
      (∃ f, getQueue n.dev t 1 = f :: r ∧ f.id = e.id ∧ f.phase = .done ∧ f.code = 0) ∧
      ((modeAt s.dev t w (dfield w 8 0 23)).1 = false → wroteBytes s n t (dfield w 8 0 23)
        (rowOut fz false ((List.range len).map fun j =>
          match parts.map fun p => (row32 p.1 false p.2 [] len).getD j 0 with | [] => 0 | v :: vs => vs.foldl fadd v)).1) ∧
      ((modeAt s.dev t w (dfield w 8 0 23)).1 = true → fz ≠ 10 → wroteBytes s n t (dfield w 8 0 23)
        (rowOut fz false ((List.range len).map fun j => accRound (parts.foldl (fun a p => accOf p.1 p.2 a j) accEmpty))).1)

/-- VTLOAD, VTREAD and VECTOR_INSTRUCTION_END (R79, R84, R86, R87, R92): a valid image fills its slot; a table pair's image is
written; an ended instruction leaves the queue and signals when its code is OK. -/
def Obligations.VectorTablesAndEnd : Prop :=
  (∀ (s : State) (t : TileId) (e : QEnt) (r : List QEnt), tileActs s.dev t = true → getQueue s.dev t 1 = e :: r → e.phase = .ready →
    let w := e.words
    let idx := dfield w 0 15 8
    (opcodeOf w = 0x60 → matrixAhead s.dev t e = false → spPoisonAt s.dev t (dfield w 4 0 23) 32896 = none →
      let im := toWords 8224 (spRead s.dev t (dfield w 4 0 23) 32896)
      completes (.vtload t) s fun n => n.dev.mem = s.dev.mem ∧
        (∀ j, fget [] (getTile n.dev t).slots j = if imageValid im = true ∧ j = idx - 0x80 then im else fget [] (getTile s.dev t).slots j) ∧
        ∃ f, getQueue n.dev t 1 = f :: r ∧ f.phase = .done ∧ f.code = if imageValid im then 0 else 9) ∧
    (opcodeOf w = 0x61 → slotEmpty s.dev t idx = false → completes (.vtread t) s fun n =>
      wroteBytes s n t (dfield w 8 0 23) ((tableImage (getTile s.dev t).slots idx).flatMap fun x => natLe 4 x.toNat) ∧
      ∃ f, getQueue n.dev t 1 = f :: r ∧ f.phase = .done ∧ f.code = 0)) ∧
  (∀ (s : State) (t : TileId) (e : QEnt) (r : List QEnt) (th : Thr) (q : W32), tileActs s.dev t = true →
    getQueue s.dev t 1 = e :: r → e.unit = 1 → e.phase = .done → e.org = .thread th q none →
    opcodeOf e.words ≠ 0x80 → opcodeOf e.words ≠ 0x72 →
    completes (.vectorInstructionEnd t) s fun n =>
      getQueue n.dev t 1 = r ∧ n.dev.mem = s.dev.mem ∧ (e.code ≠ 0 → n.dev.sigs = s.dev.sigs) ∧
      (∀ sm : SemId, sm.val = signalSemOf e.words → e.code = 0 → n.dev.sigs = s.dev.sigs ++ [⟨t, sm, 1, .desc, none, some t⟩]))

/-! ### Updates and preconditioning (chapter 8) -/

/-- UPDATE at its start (R179-R181, R183, R185, R186): a SKIP decision ends it untouched, a HALT decision sets 0x9010:03, an
update of a DELAY master takes an entry of the slow tier and swaps the gradient's regions or waits for one, and any other runs
with the hyperparameters, the norm record and the counters of its start. -/
def Obligations.UpdateStart : Prop :=
  ∀ (s : State) (t : TileId) (e : QEnt) (r : List QEnt), tileActs s.dev t = true → getQueue s.dev t 1 = e :: r →
    e.phase = .ready → opcodeOf e.words = 0x80 → mirrorOwed s.dev e.words = false → counterBefore s.dev e.words e.id = false →
    s.dev.mem.spPoison = [] →
    let w := e.words
    let hp := spRead s.dev t (dfield w 8 0 23) (if updSgd w then 32 else 40)
    let norm := spRead s.dev t (dfield w 9 0 23) 64
    let decision := recf norm 0x0C 1
    let done := fun (n : State) (code alloc off count status : Nat) => getQueue n.dev t 1 =
      { e with phase := .done, code := code, alloc := alloc, off := off, count := count, status := status } :: r
    hyperReserved hp (updSgd w) = false → updMarks (asBefore s.dev e.id) w = 0 → dget s.dev 0x9010 3 = 0 →
    recf norm 0x20 8 = dget s.dev 0x9010 8 →
    (decision = 1 → completes (.update t) s fun n => onlyTiles s n ∧ done n 0 0 0 0 0x10) ∧
    (decision = 3 → completes (.update t) s fun n => done n 0x31 0 0 0 0 ∧ dget n.dev 0x9010 3 = 1 ∧ n.dev.mem = s.dev.mem) ∧
    (decision ≠ 1 → decision ≠ 3 → isDelay s.dev w = false → completes (.update t) s fun n =>
      let u := updOf s.dev w hp norm 0 []
      n.dev.mem = s.dev.mem ∧ n.dev.sigs = s.dev.sigs ∧
      ∃ sent, getQueue n.dev t 1 = { e with phase := .running, buf := updHold u hp norm, bufPos := sent } :: r ∧
        (updHostReads s.dev u = [] → sent = 0 ∧ onlyTiles s n)) ∧
    (∀ g, decision ≠ 1 → decision ≠ 3 → isDelay s.dev w = true → getAlloc s.dev (wordAt w 7) = some g →
      (mayClose s.dev w = true → completes (.update t) s fun n =>
        getQueue n.dev t 1 = r ∧
        (∃ x, n.dev.mem.slow = s.dev.mem.slow ++ [x] ∧ x.words = w ∧ x.region = g.fillRegion ∧ x.from_ = some (t, e)) ∧
        getAlloc n.dev (wordAt w 7) = some { g with fillRegion := 1 - g.fillRegion }) ∧
      (mayClose s.dev w = false → completes (.update t) s fun n =>
        onlyTiles s n ∧ getQueue n.dev t 1 = { e with phase := .running } :: r))

/-- UPDATE_COMPLETE (R179, R181, R188, R189): a running update whose operands are there runs its chunks in order until one fails,
leaves its scratch area undefined and ends; a commit advances the counters by one; a failed element or a poisoned operand leaves
the allocations torn at that element; the descriptor ends and signals with every code above the refusals.
SLOW_TIER_QUEUE_ENTRY and SLOW_TIER_COMMIT (R184-R187, R207): a waiting update takes a freed entry; the engine applies the
entry at its head and its version is committed, or with the host tier offline it ends and changes no allocation. The scratch area's free
values (log entry 3) and the slow update that ends unapplied (log entry 44) are the model's own choices.
A chunk (R166, R167, R178, R179) of an update in HBM4: every element takes the moments and the master that the rule's pair arithmetic gives,
rounded by R166 or R42, and an FP8 working copy is narrowed from the master written. -/
def Obligations.UpdateEnd : Prop :=
  (∀ (s : State) (t : TileId) (e : QEnt) (r : List QEnt), tileActs s.dev t = true → getQueue s.dev t 1 = e :: r → e.unit = 1 →
     e.phase = .done → opcodeOf e.words = 0x80 → s.dev.mem.spPoison = [] →
     completes (.updateComplete t) s fun n =>
       ended s n t 1 e r (e.code == 0 || decide (8 < e.code)) e.code e.status e.count e.alloc e.off ∧
       (e.code = 0 → e.status ≠ 0x10 → bitAt (wordAt e.words 0) 17 = true → (updNames e.words).Nodup →
         ∀ i ∈ updNames e.words, (getAlloc n.dev i).map (·.counter) = (getAlloc s.dev i).map fun a => (a.counter + 1) % 2 ^ 64) ∧
       (e.code = 0x30 ∨ e.code = 0x33 ∨ e.code = 0x11 → ∀ i ∈ updNames e.words, ∀ a, getAlloc n.dev i = some a →
         a.torn = true ∧ a.tornIndex = e.off) ∧
       (e.code = 0 → e.status = 0x10 → ∀ i, getAlloc n.dev i = getAlloc s.dev i)) ∧
  (∀ (s : State) (t : TileId) (e : QEnt) (r : List QEnt), tileActs s.dev t = true → getQueue s.dev t 1 = e :: r → e.unit = 1 →
     e.phase = .running → opcodeOf e.words = 0x80 → e.buf ≠ [] → updWaits s.dev e = false → s.dev.mem.spPoison = [] →
     (s.dev.mem.offlineNoted = false ∨ anyTier s.dev (wordAt e.words 7 :: updNames e.words) 2 = false) →
     let x := updChunks (heldRun s.dev e) (updSpans e.words) 0 s.dev
     let c := x.2.2.getD (0, 0, 0)
     completes (.updateComplete t) s fun n =>
       ended s n t 1 e r true c.1 (clippedBit (heldNorm e)) x.2.1 c.2.1 c.2.2 ∧
       (∀ th q rec, e.org = .thread th q rec → n.dev.mem.tier = x.1.mem.tier) ∧
       (∀ th q sm, x.2.2 = none → bitAt (wordAt e.words 0) 17 = false → e.org = .thread th q none → signalSemOf e.words = sm → sm < 48 →
         n.dev.mem = (spUndefine x.1 t (dfield e.words 10 0 23) 0x30000).mem) ∧
       (x.2.2 ≠ none → ∀ i ∈ updNames e.words, ∀ a, getAlloc n.dev i = some a → a.torn = true ∧ a.tornIndex = c.2.2) ∧
       (x.2.2 = none → bitAt (wordAt e.words 0) 17 = true → (updNames e.words).Nodup →
         ∀ i ∈ updNames e.words, (getAlloc n.dev i).map (·.counter) = (getAlloc s.dev i).map fun a => (a.counter + 1) % 2 ^ 64)) ∧
  ((∀ (s : State) (t : TileId) (e : QEnt) (r : List QEnt) (g : Alloc), alive s.dev = true → getQueue s.dev t 1 = e :: r →
     e.phase = .running → e.unit = 1 → opcodeOf e.words = 0x80 → e.buf = [] → mayClose s.dev e.words = true →
     someAlloc s.dev (wordAt e.words 7 :: updNames e.words) (·.torn) = false →
     getAlloc s.dev (wordAt e.words 7) = some g →
     completes (.slowTierQueueEntry t) s fun n => getQueue n.dev t 1 = r ∧
       (∃ x, n.dev.mem.slow = s.dev.mem.slow ++ [x] ∧ x.words = e.words ∧ x.region = g.fillRegion ∧ x.from_ = some (t, e)) ∧
       getAlloc n.dev (wordAt e.words 7) = some { g with fillRegion := 1 - g.fillRegion }) ∧
   (∀ (s : State) (x : SlowEnt) (r : List SlowEnt) (t : TileId) (e : QEnt) (th : Thr) (q : W32) (sm : SemId), alive s.dev = true →
     let u := updOf s.dev x.words x.hp x.norm x.region x.data
     s.dev.mem.slow = x :: r → x.ackWait = false → x.from_ = some (t, e) → e.org = .thread th q none →
     (updHostReads s.dev u).length ≤ x.reqs → readsOpen s.dev x.id = false → (s.dev.mem.offlineNoted = false → s.dev.host.up = true) →
     sm.val = signalSemOf e.words → completes .slowTierCommit s fun n =>
       n.dev.mem.slow = r ∧ n.dev.sigs = s.dev.sigs ++ [⟨t, sm, 1, .desc, none, some t⟩] ∧
       (s.dev.mem.offlineNoted = true → n.dev.mem.tier = s.dev.mem.tier ∧
         ∀ i, (getAlloc n.dev i).map (fun a => { a with dirty := false }) = (getAlloc s.dev i).map fun a => { a with dirty := false }) ∧
       (s.dev.mem.offlineNoted = false → bitAt (wordAt x.words 0) 17 = true → (updNames x.words).Nodup →
         someAlloc s.dev (wordAt x.words 7 :: updNames x.words) (·.torn) = false → (updChunks u (updSpans x.words) 0 s.dev).2.2 = none →
         ∀ i ∈ updNames x.words, (getAlloc n.dev i).map (·.counter) = (getAlloc s.dev i).map fun a => (a.counter + 1) % 2 ^ 64))) ∧
  (∀ (d : Dev) (u : UpdRun) (s c : Nat),
     let w := u.words
     let hbm := fun (i : Nat) => ∃ a, getAlloc d i = some a ∧ tierOf a = 1
     let half := match getAlloc d (wordAt w 7) with | some g => g.size / 2 | none => 0
     let corr := roundUp (2 * u.n) 64
     let second := roundUp (4 * u.n) 64
     let old := fun (id off : Nat) => (BitVec.ofNat 32 (leNat (allocRead d id off 4)) : W32)
     let hi := fun (i : Nat) => leNat (allocRead d (wordAt w 1) (2 * (s + i)) 2)
     let co := fun (i : Nat) => corrInt (leNat (allocRead d (wordAt w 1) (corr + 2 * (s + i)) 2))
     let p := pair32
     let h := u.hyper
     let g := fun (i : Nat) => pmul (p (old (wordAt w 7) (u.region * half + 4 * (s + i)))) (p u.scale)
     let m := fun (i : Nat) => pfma (p h.b1) (p (old (wordAt w 2) (4 * (s + i)))) (pmul (p h.omb1) (g i))
     let v := fun (i : Nat) => pfma (p h.b2) (p (old (wordAt w 2) (second + 4 * (s + i)))) (pmul (p h.omb2) (pmul (g i) (g i)))
     let step := fun (i : Nat) => if updSgd w then m i
       else pdiv (pdiv (m i) (p h.bc1)) (padd (psqrt (pdiv (v i) (p h.bc2))) (p h.eps))
     let x := fun (i : Nat) => let y := p (master32 (hi i) (co i))
       padd y (pmul (p (fneg h.lr)) (padd (step i) (pmul (p h.wd) y)))
     let new := fun (i : Nat) => if bitAt (wordAt w 0) 10 then masterStoch (xpair (x i)) (roundThreshold (w.getD 1 0) (s + i) u.ctr)
       else masterRound (xpair (x i))
     hbm (wordAt w 1) → hbm (wordAt w 2) → wordAt w 1 ≠ wordAt w 2 →
     updWcf w = 0 ∨ (hbm (wordAt w 3) ∧ wordAt w 3 ≠ wordAt w 1 ∧ wordAt w 3 ≠ wordAt w 2) →
     s + c ≤ u.n → u.n ≤ 2 ^ 32 → u.data = [] → updPoison d u s c = none →
     (∀ i, i < c → masterOk (hi i) (co i) = true ∧ isFin32 (m i).1 = true ∧ (updSgd w = false → isFin32 (v i).1 = true) ∧
       pfin (x i) = true ∧ (new i).isSome = true) →
     ∃ n, updChunk d u s c = .inl n ∧ ∀ i, i < c → ∀ a b, new i = some (a, b) →
       allocRead n (wordAt w 1) (2 * (s + i)) 2 = natLe 2 a ∧
       allocRead n (wordAt w 1) (corr + 2 * (s + i)) 2 = natLe 2 (b % 65536).toNat ∧
       allocRead n (wordAt w 2) (4 * (s + i)) 4 = natLe 4 (m i).1.toNat ∧
       (updSgd w = false → allocRead n (wordAt w 2) (second + 4 * (s + i)) 4 = natLe 4 (v i).1.toNat) ∧
       (updWcf w = 2 ∨ updWcf w = 3 → bitAt (wordAt w 0) 11 = false →
         allocRead n (wordAt w 3) (s + i) 1 = natLe 1 (narrowTo (updWcf w) (x32 (master32 a b)))))

/-- PRECONDITION (R173-R176, R337): the head of the Dot-Product Unit queue ends, unless an allocation that it names lies in a host tier that
takes no transfers now; with no COMPLETE bank every selected map block falls back and is counted in 0x9010:07. That the counter takes one
for each selected map block, and not one for each product, is the model's own choice (log entry 45, DESIGN CHOICE). With a COMPLETE bank,
one block each way and a gradient in HBM4, T = R_A · dW and P = T · R_G overwrite the gradient, each product rounded to binary32; the
identity stands for a side that is not selected or whose root may not be used; a P with a non-finite element leaves the raw gradient. -/
def Obligations.PreconditionResult : Prop :=
  (∀ (s : State) (t : TileId) (e : QEnt) (r : List QEnt) (lane : Option (Nat × LaneFault)), tileActs s.dev t = true →
    getQueue s.dev t 3 = e :: r → e.unit = 3 → e.phase = .ready → opcodeOf e.words = 0x72 →
    anyWaits s.dev [wordAt e.words 1, wordAt e.words 5] = false →
    let w := e.words
    let words := fun (i : Nat) => toWords (dfield w i 23 6 + 1) (spRead s.dev t (dfield w i 0 23) (4 * (dfield w i 23 6 + 1)))
    let h := allocRead s.dev (wordAt w 5) 0 64
    completes (.precondition t lane) s fun n =>
      getQueue n.dev t 3 = r ∧
      (∀ c x, s.dev.mem.spPoison = [] → mapReserved (words 6) = false → mapReserved (words 7) = false →
        mapOk (dfield w 3 0 18) (mapSizes (words 6)) = true → mapOk (dfield w 4 0 18) (mapSizes (words 7)) = true →
        getAlloc s.dev (wordAt w 5) = some x → 64 + 2 * recf h 0x1C 4 ≤ x.size → preSmall s.dev w = false →
        imgsBytes 8 (mapSizes (words 6)) + imgsBytes 8 (mapSizes (words 7)) ≤ recf h 0x1C 4 →
        (firstUse [rangeRead (asBefore s.dev e.id) (wordAt w 1) 0 0, rangeRead (asBefore s.dev e.id) (wordAt w 5) 0 64]).1 = 0 →
        getAlloc s.dev (recf h 0x18 4) = some c → rootBank h c.counter = none →
        dget n.dev 0x9010 7 = (dget s.dev 0x9010 7 + (if dfield w 0 9 1 = 1 then (mapSizes (words 6)).length else 0) +
          (if dfield w 0 10 1 = 1 then (mapSizes (words 7)).length else 0)) % 2 ^ 32)) ∧
  (∀ (s : State) (t : TileId) (e : QEnt) (r : List QEnt) (th : Thr) (q : W32) (rec : Option Nat) (x y ca : Alloc) (b : Nat),
    tileActs s.dev t = true → getQueue s.dev t 3 = e :: r → e.unit = 3 → e.phase = .ready → opcodeOf e.words = 0x72 →
    e.org = .thread th q rec → s.dev.mem.spPoison = [] → s.dev.mem.tierPoison = [] →
    let w := e.words
    let words := fun (i : Nat) => toWords (dfield w i 23 6 + 1) (spRead s.dev t (dfield w i 0 23) (4 * (dfield w i 23 6 + 1)))
    let grad := wordAt w 1
    let roots := wordAt w 5
    let k := dfield w 3 0 18
    let n := dfield w 4 0 18
    let h := allocRead s.dev roots 0 64
    let bank := recf h 0x1C 4
    let atA := 64 + b * bank
    let atG := atA + imgBytes 8 k
    let usable := fun (side at_ : Nat) => dfield w 0 (9 + side) 1 = 1 ∧
      rootUsable (recf (allocRead s.dev roots at_ 64) 0x18 4) (bitAt (wordAt w 0) 8) = true
    let missed := fun (side at_ : Nat) => if dfield w 0 (9 + side) 1 = 1 ∧ ¬ usable side at_ then 1 else 0
    let row := fun (i : Nat) => wordAt w 2 + 4 * (i * roundUp n 16)
    let ra := fun (i : Nat) => (readSym s.dev roots atA 8 k).getD i []
    let rg := fun (i : Nat) => (readSym s.dev roots atG 8 n).getD i []
    let dw := fun (i j : Nat) => (rowPairs 8 (allocRead s.dev grad (row i) (4 * n)) n).getD j (0, 0)
    let left := fun (i j : Nat) => if usable 0 atA then pair32 (pdot (ra i) ((List.range k).map fun l => dw l j)).1 else dw i j
    let full := fun (i j : Nat) => if usable 1 atG
      then pair32 (pdot ((List.range n).map (left i)) ((List.range n).map fun l => (rg l).getD j (0, 0))).1 else left i j
    let finite := ∀ i j, i < k → j < n → pfin (full i j) = true
    mapReserved (words 6) = false → mapReserved (words 7) = false → mapSizes (words 6) = [k] → mapSizes (words 7) = [n] →
    mapOk k [k] = true → mapOk n [n] = true → getAlloc s.dev grad = some y → tierOf y = 1 → getAlloc s.dev roots = some x → tierOf x = 1 →
    64 + 2 * bank ≤ x.size → imgBytes 8 k + imgBytes 8 n ≤ bank → preSmall s.dev w = false → small s.dev grad →
    (firstUse [rangeRead (asBefore s.dev e.id) grad 0 0, rangeRead (asBefore s.dev e.id) roots 0 64]).1 = 0 →
    getAlloc s.dev (recf h 0x18 4) = some ca → rootBank h ca.counter = some b →
    completes (.precondition t none) s fun m => getQueue m.dev t 3 = r ∧
      dget m.dev 0x9010 7 = (dget s.dev 0x9010 7 + missed 0 atA + missed 1 atG) % 2 ^ 32 ∧
      (finite → ∀ i j, i < k → j < n → allocRead m.dev grad (row i + 4 * j) 4 = natLe 4 (full i j).1.toNat) ∧
      (¬ finite → m.dev.mem.tier = s.dev.mem.tier))

/-! ### Allocations, tier moves, error correction (chapter 9) -/

/-- ALLOC, ALLOC_FILL_COMPLETE and FREE (R195-R198, R200): an allocation is entered and fills, its bytes then read as zero and
the request ends; a failed fill or a FREE removes it, once no request is at work on it.
QUERY writes its status record, and each CTL operation changes in the allocation what it names and nothing else: a mark, TORN with its index,
or the counter. That SET_COUNTER sets beside the counter the version that counts as acknowledged is the model's own choice (log entry 97,
DESIGN CHOICE) (R197, R199, R201, Tables 9-6 and 9-7). -/
def Obligations.AllocationLife : Prop :=
  (∀ (s : State) (t : TileId) (e : QEnt) (r : List QEnt), tileActs s.dev t = true → getQueue s.dev t 2 = e :: r → e.unit = 2 →
     s.dev.mem.spPoison = [] →
     let w := e.words
     let id := wordAt w 1
     (∀ a, e.phase = .ready → opcodeOf w = 0x90 → id ≠ 0 → getAlloc s.dev id = none → (allocList s.dev).length < 16384 →
       (dfield w 2 0 2 = 2 → s.dev.mem.offlineNoted = false) → placeAlloc s.dev (some t) w = some a →
       let mark := hasMirror a && s.dev.safety.pairState != 1
       completes (.alloc (.tile t 0)) s fun n =>
         (∀ j, j ≠ id → getAlloc n.dev j = getAlloc s.dev j) ∧
         (tierOf a ≠ 3 → getAlloc n.dev id = some { a with filling := true, unmirrored := mark } ∧
           getQueue n.dev t 2 = { e with phase := .running } :: r) ∧
         (tierOf a = 3 → getAlloc n.dev id = some { a with filling := false, unmirrored := mark } ∧
           ended s n t 2 e r true 0 e.status 0 0 0)) ∧
     (∀ a c, e.phase = .running → opcodeOf w = 0x90 → getAlloc s.dev id = some a → fillCodeOk s.dev a c.toNat = true →
       completes (.allocFillComplete (.tile t 0) c) s fun n =>
         ended s n t 2 e r (c == 0) c.toNat e.status 0 0 0 ∧ (∀ j, j ≠ id → getAlloc n.dev j = getAlloc s.dev j) ∧
         (c ≠ 0 → getAlloc n.dev id = none) ∧
         (c = 0 → (∃ b, getAlloc n.dev id = some { a with filling := false, dirty := b }) ∧
           (tierOf a ≠ 0 → ∀ o m, o + m ≤ 2 ^ 64 → allocRead n.dev id o m = zbytes m))) ∧
     (∀ a, e.phase = .ready → opcodeOf w = 0x91 → getAlloc s.dev id = some a → a.freeing = false → a.mirrorCopy = false →
       completes (.free (.tile t 0)) s fun n =>
         (∀ j, j ≠ id → getAlloc n.dev j = getAlloc s.dev j) ∧
         (a.busy = false → inUse s.dev id e.id = false → getAlloc n.dev id = none ∧ ended s n t 2 e r true 0 e.status 0 0 0) ∧
         (a.busy = true ∨ inUse s.dev id e.id = true → getAlloc n.dev id = some { a with freeing := true } ∧
           getQueue n.dev t 2 = { e with phase := .running } :: r))) ∧
  (∀ (s : State) (t : TileId) (e : QEnt) (r : List QEnt) (a : Alloc), tileActs s.dev t = true → getQueue s.dev t 2 = e :: r →
     e.unit = 2 → e.phase = .ready → s.dev.mem.spPoison = [] → getAlloc s.dev (wordAt e.words 1) = some a → a.freeing = false →
     let w := e.words
     let id := wordAt w 1
     let op := fun (c : Instr) (k : Nat) (b : Alloc) => opcodeOf w = 0x92 → dfield w 0 8 4 = k → completes c s fun n =>
       getAlloc n.dev id = some b ∧ (∀ j, j ≠ id → getAlloc n.dev j = getAlloc s.dev j) ∧ ended s n t 2 e r true 0 e.status 0 0 0
     (opcodeOf w = 0x93 → completes (.query (.tile t 0)) s fun n => ended s n t 2 e r true 0 e.status 0 0 0 ∧
       (∀ th q, e.org = .thread th q none → wroteBytes s n t (dfield w 10 0 23) (statusRecord s.dev id a))) ∧
     op (.clearInvalid (.tile t 0)) 1 { a with invalid := false } ∧
     op (.clearTorn (.tile t 0)) 2 { a with torn := false, tornIndex := 0 } ∧
     (updatesBefore s.dev id e.id = false → delayOf a = 0 ∨ hostWaits s.dev a = false → op (.setCounter (.tile t 0)) 3 { a with
       counter := dword w 8
       mirrorAck := ackAfterSet s.dev id a (dword w 8) }) ∧
     (tierOf a = 3 → readsOn s.dev id = false → op (.flashOpen (.tile t 0)) 4 { a with flashOpen := true }) ∧
     (tierOf a = 3 → writesOn s.dev id = false → op (.flashClose (.tile t 0)) 5 { a with flashOpen := false }) ∧
     (opcodeOf w = 0x92 → dfield w 0 8 4 = 1 → tierOf a = 0 → 0 < a.size → completes (.clearInvalid (.tile t 0)) s fun n =>
       spIsInvalid n.dev (tileOfNat a.spTile) a.spAddr a.size = false) ∧
     (opcodeOf w = 0x92 → dfield w 0 8 4 = 4 → tierOf a ≠ 3 → completes (.flashOpen (.tile t 0)) s fun n =>
       ended s n t 2 e r false 0x43 e.status 0 0 0))

/-- TIER_MOVE, TIER_MOVE_COMPLETE and TRANSFER_UNIT_DEADLINE (R202-R206): a move runs once its allocations may be read and
written; a row within the device's tiers is copied byte for byte; a transfer unit past its deadline ends the move. -/
def Obligations.TierMoves : Prop :=
  ∀ (s : State) (t : TileId) (e : QEnt) (r : List QEnt) (a b : Alloc), tileActs s.dev t = true → getQueue s.dev t 2 = e :: r →
    e.unit = 2 → opcodeOf e.words = 0x94 → getAlloc s.dev (wordAt e.words 1) = some a → getAlloc s.dev (wordAt e.words 4) = some b →
    s.dev.mem.spPoison = [] →
    let w := e.words
    (e.phase = .ready → moveAllocs s.dev w = 0 → moveInvalid (asBefore s.dev e.id) w = false → bitAt (wordAt w 0) 8 = false → checkAllocRead (asBefore s.dev e.id) (wordAt w 1) 0 0 = (0, 0) →
      checkAllocWrite (asBefore s.dev e.id) (wordAt w 4) 0 0 = (0, 0) → completes (.tierMove (.tile t 0) none) s fun n =>
        n.dev.mem = s.dev.mem ∧ n.dev.sigs = s.dev.sigs ∧
        (tierOf a ≠ 2 → getQueue n.dev t 2 = { e with phase := .running, bufPos := 0 } :: r) ∧
        (tierOf a = 2 → ∃ k, getQueue n.dev t 2 = { e with phase := .running, bufPos := k } :: r)) ∧
    (e.phase = .running → (tierOf a = 1 ∨ tierOf a = 3) → tierOf b = 1 → delayOf b = 0 → a.poisonFull = false → b.poisonFull = false →
      s.dev.mem.tierPoison = [] → dfield w 8 0 24 = 1 → readsOpen s.dev e.id = false → recordsHeld s.dev = false →
      completes (.tierMoveComplete (.tile t 0)) s fun n =>
        ended s n t 2 e r true 0 e.status 1 0 0 ∧
        allocRead n.dev (wordAt w 4) (dword w 5) (dfield w 7 0 24) =
          allocReadSlot s.dev (wordAt w 1) (moveSlot w a) (dword w 2) (dfield w 7 0 24) ∧
        (∀ k, k < tierKey (wordAt w 4) 0 (dword w 5) ∨ tierKey (wordAt w 4) 0 (dword w 5) + dfield w 7 0 24 ≤ k →
          fget 0 n.dev.mem.tier k = fget 0 s.dev.mem.tier k)) ∧
    (e.phase = .running → tierOf a = 1 → tierOf b = 1 → 0 < dfield w 8 0 24 → completes (.transferUnitDeadline (.mem (.tile t 0)) 0) s fun n =>
      ended s n t 2 e r false 0x16 e.status 0 0 0 ∧ dget n.dev 0xA003 4 = (dget s.dev 0xA003 4 + 1) % 2 ^ 32)

/-- ECC_CORRECTED_REWRITE and PATROL_SCRUB (R208, R209): a corrected error is counted and changes no byte; an uncorrectable one
in HBM4 poisons its unit, is counted, and is recorded; a line of a stack outside the allocations is scrubbed too. A scrub that finds no
uncorrectable error changes no byte and no poison mark, for only a write that covers the unit clears one (R209). That an event of a unit
that does not exist stops is the model's own choice (log entry 88, DESIGN CHOICE). -/
def Obligations.ErrorCorrection : Prop :=
  (∀ (s : State) (t : TileId) (a : Nat), alive s.dev = true → a < scratchSize t → completes (.eccCorrectedRewrite (.scratch t a)) s fun n =>
    n.dev.mem = s.dev.mem ∧ n.dev.tiles = s.dev.tiles ∧ dget n.dev 0xA003 1 = (dget s.dev 0xA003 1 + 1) % 2 ^ 64) ∧
  (∀ (s : State) (id : W32) (off : Nat) (x : Alloc), alive s.dev = true → getAlloc s.dev id.toNat = some x → off < x.size →
    tierOf x = 1 →
    completes (.eccCorrectedRewrite (.alloc id off)) s (fun n =>
      n.dev.mem = s.dev.mem ∧ dget n.dev 0xA003 1 = (dget s.dev 0xA003 1 + 1) % 2 ^ 64) ∧
    completes (.patrolScrub (.alloc id off) .clean) s (fun n => n.dev.mem = s.dev.mem ∧ n.dev.log = s.dev.log) ∧
    completes (.patrolScrub (.alloc id off) .corrected) s (fun n =>
      n.dev.mem = s.dev.mem ∧ dget n.dev 0xA003 1 = (dget s.dev 0xA003 1 + 1) % 2 ^ 64) ∧
    (allocPoisonAt s.dev id.toNat off 1 = none → completes (.patrolScrub (.alloc id off) .uncorrectable) s fun n =>
      (∃ o, allocPoisonAt n.dev id.toNat off 1 = some o) ∧ n.dev.mem.tier = s.dev.mem.tier ∧
      dget n.dev 0xA003 2 = (dget s.dev 0xA003 2 + 1) % 2 ^ 32 ∧ ∃ v ∈ n.dev.log.inbox, v.code = 0x0030 ∧ v.sev = 2)) ∧
  (∀ (s : State) (k : Fin 8) (ad : Nat), alive s.dev = true → ad < 48 * 2 ^ 30 →
    completes (.eccCorrectedRewrite (.hbm k ad)) s (fun n =>
      n.dev.mem = s.dev.mem ∧ dget n.dev 0xA003 1 = (dget s.dev 0xA003 1 + 1) % 2 ^ 64) ∧
    completes (.patrolScrub (.hbm k ad) .uncorrectable) s (fun n => fget false n.dev.mem.tierPoison (hbmKey k ad) = true ∧
      n.dev.mem.tier = s.dev.mem.tier) ∧
    completes (.patrolScrub (.hbm k ad) .clean) s (fun n => n.dev.mem = s.dev.mem ∧ n.dev.log = s.dev.log) ∧
    completes (.patrolScrub (.hbm k ad) .corrected) s (fun n => n.dev.mem = s.dev.mem ∧
      dget n.dev 0xA003 1 = (dget s.dev 0xA003 1 + 1) % 2 ^ 64)) ∧
  (∀ (s : State) (u : MemUnit) (x : ScrubResult), unitExists s.dev u = false →
    exec (.eccCorrectedRewrite u) s = .fault .noSuchUnit ∧ exec (.patrolScrub u x) s = .fault .noSuchUnit)

/-! ### Launches and the Grinder (chapters 6, 10) -/

/-- The launches and LAUNCH_QUEUE_ENTRY (R226, R227, R258): a launch past WAIT_SEM leaves its queue for the target's, and starts
where nothing runs there; while the target's queue is full it is held at the head. -/
def Obligations.LaunchResults : Prop :=
  ∀ (s : State) (t : TileId) (e : QEnt) (r : List QEnt), tileActs s.dev t = true → getQueue s.dev t 4 = e :: r →
    let w := e.words
    let tgt := dfield w 0 8 4
    let l : Launch := ⟨t, { e with phase := .running }⟩
    let sent := fun (op : Nat) (n : State) => getQueue n.dev t 4 = r ∧ n.dev.mem = s.dev.mem ∧
      (op = 0xA0 → if (getCurv s.dev tgt).grind = none ∧ (getCurv s.dev tgt).grindQ = []
        then getCurv n.dev tgt = { getCurv s.dev tgt with grind := some { launch := l, addr := dfield w 1 0 23, idx := 0 } }
        else (getCurv s.dev tgt).grind ≠ none → getCurv n.dev tgt =
          { getCurv s.dev tgt with grindQ := (getCurv s.dev tgt).grindQ ++ [l] }) ∧
      (op = 0xA1 → if (getCurv s.dev tgt).script = none ∧ (getCurv s.dev tgt).scriptQ = []
        then getCurv n.dev tgt = { getCurv s.dev tgt with script := some { launch := l, addr := dfield w 1 0 23, idx := 0 } }
        else (getCurv s.dev tgt).script ≠ none → getCurv n.dev tgt =
          { getCurv s.dev tgt with scriptQ := (getCurv s.dev tgt).scriptQ ++ [l] }) ∧
      (op = 0xA2 → if fget none s.dev.fab.engines tgt = none ∧ fget [] s.dev.fab.engineQ tgt = []
        then fget none n.dev.fab.engines tgt = some { launch := l, alloc := wordAt w 2, off := dword w 3, resOff := wordAt w 5 }
        else fget none s.dev.fab.engines tgt ≠ none → fget [] n.dev.fab.engineQ tgt = fget [] s.dev.fab.engineQ tgt ++ [l])
    let rows : List (Nat × Instr) :=
      [(0xA0, .launchGrinderProgram t), (0xA1, .launchPercolatorScript t), (0xA2, .launchCollectiveProgram t)]
    (∀ x ∈ rows, opcodeOf w = x.1 → e.phase = .ready →
      (launchRoom s.dev w = true → completes x.2 s (sent x.1)) ∧
      (launchRoom s.dev w = false → completes x.2 s fun n =>
        onlyTiles s n ∧ getQueue n.dev t 4 = { e with phase := .running } :: r)) ∧
    (∀ x ∈ rows, opcodeOf w = x.1 → e.phase = .running → launchRoom s.dev w = true →
      completes (.launchQueueEntry t) s (sent x.1))

/-- The Grinder's stream instructions (R114, R122, R125, R126, Table 6-4): SOPEN opens a stream over zeroed S images, SCLOSE
closes it and SCLOSE_COMPLETE ends the close once its rows are swept, SRELEASE unbinds it, FZERO zeroes its F images. -/
def Obligations.GrinderStreams : Prop :=
  ∀ (s : State) (c : CTile) (p : Prog) (w : Nat), alive s.dev = true →
    let st := bitf w 8 5
    let t := ctileNat c.val
    let x := getStream s.dev c.val st
    (∀ (a : Nat) (ws : List W32), grindsAt s.dev c p w → w % 256 = 1 → a = bitf w 32 23 → (x.st = .unbound ∨ x.st = .closed) →
      a % 64 = 0 → a + 64 ≤ scratchSize t → hitsPool s.dev t a 64 = false → s.dev.mem.spPoison = [] →
      ws = toWords 16 (spRead s.dev t a 64) →
      let map := toWords (strNblk ws) (spRead s.dev t (dfield ws 2 0 23) (4 * strNblk ws))
      checkStream s.dev t ws map = 0 → (imgsWrite s.dev (strImg ws 0) (mapSizes map)).1 = 0 → small s.dev (strImg ws 0).1 →
      completes (.sopen c) s fun n => grindsOn n c p ∧
        getStream n.dev c.val st = { st := .open_, words := ws, sizes := mapSizes map } ∧
        (∀ j, j ≠ st → getStream n.dev c.val j = getStream s.dev c.val j) ∧
        holds n.dev (strImg ws 0).1 (strImg ws 0).2 (zbytes (imgsBytes 8 (mapSizes map)))) ∧
    (grindsAt s.dev c p w → w % 256 = 2 → x.st = .open_ → imgsFit s.dev (strImg x.words 0) x.sizes = true →
      (imgsWrite s.dev (strImg x.words 0) x.sizes).1 ≠ 0x15 → (imgsWrite s.dev (strImg x.words 0) x.sizes).1 ≠ 0x40 → completes (.sclose c) s fun n =>
        n.dev.mem = s.dev.mem ∧ getStream n.dev c.val st = { x with st := .closing } ∧
        (getCurv n.dev c.val).grind = some { p with scPending := some st }) ∧
    (∀ st, (getCurv s.dev c.val).grind = some p → p.scPending = some st → (getCurv s.dev c.val).testing = false →
      let x := getStream s.dev c.val st
      (∀ y ∈ (getCurv s.dev c.val).openRecs, y.arrived = true → y.stream ≠ st) →
      (∀ y ∈ (getCurv s.dev c.val).adm, y.tap.stream ≠ st) →
      groupsOf st (getCurv s.dev c.val).fill = [] → groupsOf st (getCurv s.dev c.val).sweep = [] →
      closePoison s.dev x = none → x.disc = 0 → x.residue = false → anyWaits s.dev [(strImg x.words 0).1] = false →
      completes (.scloseComplete c) s fun n =>
        getStream n.dev c.val st = { x with st := .closed } ∧
        ∃ q, (getCurv n.dev c.val).grind = some { p with idx := p.idx + 1, status := q, scPending := none }) ∧
    (grindsAt s.dev c p w → w % 256 = 5 → x.st = .closed → completes (.srelease c) s fun n => grindsOn n c p ∧
      getStream n.dev c.val st = {} ∧ (∀ j, j ≠ st → getStream n.dev c.val j = getStream s.dev c.val j) ∧
      n.dev.mem.tier = s.dev.mem.tier) ∧
    (grindsAt s.dev c p w → w % 256 = 6 → x.st = .closed → imgsFit s.dev (strImg x.words 1) x.sizes = true →
      (imgsWrite s.dev (strImg x.words 1) x.sizes).1 = 0 → small s.dev (strImg x.words 1).1 → completes (.fzero c) s fun n => grindsOn n c p ∧
        holds n.dev (strImg x.words 1).1 (strImg x.words 1).2 (zbytes (imgsBytes 8 x.sizes)))

/-- EMA and DAMP on a stream of one block (R123, R124): f ← fl(fl(β × f) + fl(c × s)) with β zero for the first update, and D
the copy of F with λ_eff added on the diagonal; each image is written with its header.
TREE (R132-R134): with sound inputs the tree system image is written, its header first, and the program goes on where every element is finite.
ROWS, BETA and the VALID or NONFINITE flag of the header of F, and the flag of D (log entry 48, DESIGN CHOICE), and how the work passes the
vector queue (log entry 105, DEDUCED) are the model's own choices. -/
def Obligations.GrinderFactors : Prop :=
  (∀ (s : State) (c : CTile) (p : Prog) (w b : Nat), alive s.dev = true → grindsAt s.dev c p w →
     let x := getStream s.dev c.val (bitf w 8 5)
     let img := fun (k : Nat) => strImg x.words k
     let mat := fun (k i j : Nat) => (((readSym s.dev (img k).1 (img k).2 8 b).getD i []).getD j (0, 0)).1
     let hd := fun (k o m : Nat) => recf (allocRead s.dev (img k).1 (img k).2 64) o m
     let cells := fun (f : Nat → Nat → W32) => (List.range b).map fun i => (List.range b).map fun j => (f i j, (0 : W32))
     let flags := fun (m : Mat) => if matFin m then 1 else 2
     engineFree s.dev (ctileNat c.val) → (∀ k, small s.dev (img k).1) → x.st = .closed → x.sizes = [b] → imgsFit s.dev (img 0) [b] = true → imgsFit s.dev (img 1) [b] = true →
     (w % 256 = 3 → bitAt w 19 = false → (imgsRead s.dev (img 0) [b]).1 = 0 → (emaReadsF s.dev (img 1) [b]).1 = 0 →
       (imgsWrite s.dev (img 1) [b]).1 = 0 → matFin (readSym s.dev (img 0).1 (img 0).2 8 b) = true → bitAt (hd 0 0x18 4) 0 = true →
       let rows := f32OfNat (hd 0 8 8)
       isZero32 rows = false → isFin32 rows = true →
       let beta : W32 := if hd 1 0x10 8 = 0 then 0 else x.words.getD 9 0
       let m := cells fun i j => fadd (if hd 1 0x10 8 = 0 then 0 else fmul beta (mat 1 i j))
         (fmul (fdiv (fsub one32 beta) rows) (mat 0 i j))
       completes (.ema c none) s fun n => grindsOn n c p ∧
         holds n.dev (img 1).1 (img 1).2
           (imgHeader b 1 (hd 0 8 8) ((hd 1 0x10 8 + 1) % 2 ^ 64) (flags m) 0 beta 0 0 ++ symBytes 8 b m)) ∧
     (w % 256 = 4 → imgsFit s.dev (img 2) [b] = true → (imgsRead s.dev (img 1) [b]).1 = 0 → (imgsWrite s.dev (img 2) [b]).1 = 0 →
       bitAt (hd 1 0x18 4) 0 = true → hd 1 0x10 8 ≠ 0 →
       let lam := lambdaEff x b (readSym s.dev (img 1).1 (img 1).2 8 b)
       isFin32 lam = true →
       let m := cells fun i j => if j = i then fadd (mat 1 i j) lam else mat 1 i j
       completes (.damp c none) s fun n => grindsOn n c p ∧
         holds n.dev (img 2).1 (img 2).2
           (imgHeader b 2 (hd 1 8 8) (hd 1 0x10 8) (flags m) lam (BitVec.ofNat 32 (hd 1 0x20 4)) 0 0 ++ symBytes 8 b m))) ∧
  (∀ (s : State) (c : CTile) (p : Prog) (w : Nat), alive s.dev = true → grindsAt s.dev c p w → w % 256 = 8 →
     let t := ctileNat c.val
     let a := bitf w 32 23
     let ws := toWords 16 (spRead s.dev t a 64)
     let k := dfield ws 0 0 16
     let out := (wordAt ws 7, wordAt ws 8)
     let bodies := (List.range k).map fun i => allocRead s.dev (wordAt ws 3) (wordAt ws 4 + 128 * i) 128
     let states := (List.range k).map fun i => allocRead s.dev (wordAt ws 5) (wordAt ws 6 + 32 * i) 32
     let fits := fun (i o m : Nat) => (∃ x, getAlloc s.dev i = some x ∧ o + m ≤ x.size) ∧ allocInPool s.dev i o m = false
     engineFree s.dev t → small s.dev out.1 → a % 64 = 0 → a + 64 ≤ scratchSize t → hitsPool s.dev t a 64 = false → s.dev.mem.spPoison = [] →
     anySet ws ([(0, 16, 16)] ++ (List.range 7).map fun i => (9 + i, 0, 32)) = false →
     (∀ i, i < k → zeros (bodies.getD i []) 2 2 = true ∧ zeros (bodies.getD i []) 0x5C 36 = true ∧ zeros (states.getD i []) 0x1C 4 = true ∧
       bodyOk (bodies.getD i []) (states.getD i []) i = true) →
     wordAt ws 4 % 64 = 0 → wordAt ws 6 % 64 = 0 → wordAt ws 8 % 64 = 0 → fits (wordAt ws 3) (wordAt ws 4) (128 * k) →
     fits (wordAt ws 5) (wordAt ws 6) (32 * k) → fits out.1 out.2 (treeBytes k) →
     (rangeRead s.dev (wordAt ws 3) (wordAt ws 4) (128 * k)).1 = 0 → (rangeRead s.dev (wordAt ws 5) (wordAt ws 6) (32 * k)).1 = 0 →
     (rangeWrite s.dev out.1 out.2 (treeBytes k)).1 = 0 →
     0 < k → isFin32 (ws.getD 1 0) = true → flt 0 (ws.getD 1 0) = true → isFin32 (ws.getD 2 0) = true → fle 0 (ws.getD 2 0) = true →
     let sys := treeSystem (ws.getD 1 0) (ws.getD 2 0) bodies states
     let el := (sys.1 ++ sys.2).flatMap fun m => m.flatMap fun r => r
     let fin := el.all isFin32
     completes (.tree c) s fun n =>
       (fin = true → grindsOn n c p) ∧
       holds n.dev out.1 out.2 (imgHeader k 3 0 0 (if fin then 1 else 2) 0 0 0 0 ++
         padTo (roundUp (2 * k) 64) (bodies.flatMap fun b => b.take 2) ++ el.flatMap fun v => natLe 4 v.toNat))

/-- WAIT, SIGNAL and END of a Grinder program (R126-R128, R231): a wait takes one count or stands in line, a signal is made on
the curvature tile's semaphore, END makes the launch's signal and starts the next launch. -/
def Obligations.GrinderFlow : Prop :=
  ∀ (s : State) (c : CTile) (p : Prog) (w : Nat) (sm : SemId), alive s.dev = true → grindsAt s.dev c p w →
    let t := ctileNat c.val
    let x := getSem s.dev t sm
    (w % 256 = 0x10 → bitf w 13 6 = sm.val → x.waiters = [] →
      (1 ≤ x.count → completes (.grinderWait c) s fun n => getSem n.dev t sm = { x with count := x.count - 1 } ∧
        (getCurv n.dev c.val).grind = some { p with waiting := false, idx := p.idx + 1 }) ∧
      (x.count = 0 → completes (.grinderWait c) s fun n => getSem n.dev t sm = { x with waiters := [.grinder] } ∧
        (getCurv n.dev c.val).grind = some { p with waiting := true })) ∧
    (w % 256 = 0x11 → bitf w 13 6 = sm.val → completes (.grinderSignal c) s fun n => grindsOn n c p ∧
      n.dev.sigs = s.dev.sigs ++ [⟨t, sm, 1, .program, none, some t⟩] ∧ n.dev.mem = s.dev.mem) ∧
    (∀ th q, w % 256 = 0x1F → p.launch.ent.org = .thread th q none → signalSemOf p.launch.ent.words = sm.val →
      completes (.grinderEnd c) s fun n =>
        n.dev.sigs = s.dev.sigs ++ [⟨p.launch.tile, sm, 1, .desc, none, launchTile p.launch⟩] ∧ n.dev.mem = s.dev.mem ∧
        (getCurv n.dev c.val).grind = (getCurv s.dev c.val).grindQ.head?.map progOf ∧
        (getCurv n.dev c.val).grindQ = (getCurv s.dev c.val).grindQ.tail)

/-- Taps (R110-R112, R117, R120): an open record that arrives is dropped unless its stream is OPEN and its shape fits, and counted where
only the shape does not; the oldest that stands is admitted when there is room, though its stream has begun to close meanwhile (log entry
106, DEDUCED: the model's own choice); its next row is scaled and, in a kept group, counted and staged with the group's last row; the filled
half is swept; a sweep adds its groups to S, or, with a poisoned line among its staged rows or a transfer unit past its deadline, is over
with its code noted for SCLOSE (R135, R206, R209). -/
def Obligations.TapResults : Prop :=
  ∀ (s : State) (c : CTile), alive s.dev = true → (getCurv s.dev c.val).testing = false →
    let k := getCurv s.dev c.val
    (∀ (x : Tap) (r : List Tap), k.openRecs = x :: r → (∀ z ∈ r, z.arrived = false) →
      let y := getStream s.dev c.val x.stream
      let admits := fun (n : State) => getStream n.dev c.val x.stream = { y with q := y.q + 1 } ∧
        (getCurv n.dev c.val).openRecs = r ∧ (getCurv n.dev c.val).adm = k.adm ++ [⟨{ x with arrived := true }, y.q, 0, true, []⟩]
      let room := k.fillBytes + stagedBytes y y.q x 0 ≤ 0x200000
      (x.arrived = false → y.st ≠ .open_ → completes (.tapOpenRecord c) s fun n => getCurv n.dev c.val = { k with openRecs := r }) ∧
      (x.arrived = false → y.st = .open_ → x.l ≠ strDim y.words ∨ 7 < x.fmt → completes (.tapOpenRecord c) s fun n =>
        getStream n.dev c.val x.stream = { y with disc := y.disc + 1 } ∧ (getCurv n.dev c.val).openRecs = r ∧
        (getCurv n.dev c.val).adm = k.adm) ∧
      (x.arrived = false → y.st = .open_ → x.l = strDim y.words → x.fmt ≤ 7 →
        (room → completes (.tapOpenRecord c) s admits) ∧
        (¬ room → completes (.tapOpenRecord c) s fun n => getCurv n.dev c.val = { k with openRecs := { x with arrived := true } :: r })) ∧
      (x.arrived = true → r = [] → room → completes (.tapOpenRecord c) s admits)) ∧
    (∀ (x : Adm) (r : List Adm) (v : List W32) (vs : List (List W32)), k.adm = x :: r → x.tap.rows = v :: vs →
      let y := getStream s.dev c.val x.tap.stream
      let row := v.map fun e => fmul e (y.words.getD 1 0)
      let last := x.row % 16 = 15 ∨ vs = []
      completes (.tapRow c) s fun n =>
        (keepsRow y x.q x.row = true → getStream n.dev c.val x.tap.stream = { y with n := y.n + 1 } ∧
          (last → (getCurv n.dev c.val).fill = k.fill ++ [⟨x.tap.stream, x.part ++ [row] ++
            List.replicate (16 - (x.part.length + 1)) (List.replicate x.tap.l 0)⟩]) ∧
          (¬ last → (getCurv n.dev c.val).fill = k.fill)) ∧
        (keepsRow y x.q x.row = false → getStream n.dev c.val x.tap.stream = y ∧ (getCurv n.dev c.val).fill = k.fill) ∧
        (vs = [] → (getCurv n.dev c.val).adm = r)) ∧
    (maySwap s.dev c.val = true → completes (.poolHalfSwap c) s fun n =>
      (getCurv n.dev c.val).sweep = k.fill ∧ (getCurv n.dev c.val).fill = [] ∧ n.dev.mem = s.dev.mem) ∧
    (∀ (st : Fin 32) (b : Nat),
      let y := getStream s.dev c.val st.val
      let gs := groupsOf st.val k.sweep
      let x := strImg y.words 0
      let new := gs.foldl (addGroup 0 b) ((readSym s.dev x.1 x.2 8 b).map fun r => r.map (·.1))
      gs ≠ [] → y.sizes = [b] → imgsFit s.dev x [b] = true → small s.dev x.1 → (blockUse s.dev x [b] 0).1 = 0 →
      anyWaits s.dev [x.1] = false → sweepPoison s.dev c.val st.val = none →
      completes (.sweepEnd c st []) s fun n =>
        (getCurv n.dev c.val).sweep = k.sweep.filter (fun g => g.stream != st.val) ∧
        holds n.dev x.1 (x.2 + 64) (symBytes 8 b ((List.range b).map fun i => (List.range b).map fun j =>
          ((new.getD i []).getD j 0, (0 : W32))))) ∧
    (∀ (st : Fin 32) (b : Nat) (a : Alloc),
      let y := getStream s.dev c.val st.val
      let lost := fun (code : Nat) (n : State) => n.dev.mem.tier = s.dev.mem.tier ∧
        (getCurv n.dev c.val).sweep = k.sweep.filter (fun g => g.stream != st.val) ∧
        0 ∈ (getStream n.dev c.val st.val).lost ∧ (getStream n.dev c.val st.val).code = if y.code = 0 then code else y.code
      groupsOf st.val k.sweep ≠ [] → y.sizes = [b] → getAlloc s.dev (strImg y.words 0).1 = some a → tierOf a = 1 →
      (sweepPoison s.dev c.val st.val ≠ none → completes (.sweepEnd c st []) s (lost 0x11)) ∧
      completes (.transferUnitDeadline (.sweep c st) 0) s (lost 0x16))

/-! ### The Percolator (chapter 7) -/

/-- Scripts (R137-R143, R162): WAIT takes one count or stands in line, SIGNAL makes an increment, END ends the script with its
signal and starts the next launch; JOB accepts a descriptor, or a refused one ends the script.
HARD_LIMIT_EXPIRY and BLOCK_JOB_END (R140, R144, R151, R161, R162): at the hard limit a block job with an accepted iterate ends
with HARD_EXPIRED and every other one fails with 0x20, one whose pivot or overflow failure came later too; an ended block job
writes its image and its record, or with a poisoned line in its workspace 0x11 and no image; then the next block job stands there,
or the job's signal is made and the script goes on. -/
def Obligations.PercolatorScripts : Prop :=
  (∀ (s : State) (c : CTile) (p : Prog) (w : Nat) (sm : SemId), alive s.dev = true → scriptAt s.dev c p w →
     let t := ctileNat c.val
     let x := getSem s.dev t sm
     let k := getCurv s.dev c.val
     let ends := fun (n : State) => n.dev.mem = s.dev.mem ∧ n.dev.sigs = s.dev.sigs ++ [⟨p.launch.tile, sm, 1, .desc, none, launchTile p.launch⟩] ∧
       (getCurv n.dev c.val).script = k.scriptQ.head?.map progOf ∧ (getCurv n.dev c.val).scriptQ = k.scriptQ.tail ∧
       (getCurv n.dev c.val).job = none
     (w % 256 = 0x10 → bitf w 13 6 = sm.val → x.waiters = [] →
       (1 ≤ x.count → completes (.scriptWait c) s fun n => getSem n.dev t sm = { x with count := x.count - 1 } ∧
         (getCurv n.dev c.val).script = some { p with waiting := false, idx := p.idx + 1 }) ∧
       (x.count = 0 → completes (.scriptWait c) s fun n => getSem n.dev t sm = { x with waiters := [.script] } ∧
         (getCurv n.dev c.val).script = some { p with waiting := true })) ∧
     (w % 256 = 0x11 → bitf w 13 6 = sm.val → completes (.scriptSignal c) s fun n => n.dev.mem = s.dev.mem ∧
       n.dev.sigs = s.dev.sigs ++ [⟨t, sm, 1, .program, none, some t⟩] ∧
       getCurv n.dev c.val = { k with script := some { p with idx := p.idx + 1 } }) ∧
     (∀ th q, w % 256 = 0x1F → p.launch.ent.org = .thread th q none → signalSemOf p.launch.ent.words = sm.val →
       completes (.scriptEnd c) s ends) ∧
     (w % 256 = 1 → s.dev.mem.spPoison = [] →
       let a := bitf w 32 23
       let jw := toWords 16 (spRead s.dev t a 64)
       a % 64 = 0 → a + 64 ≤ scratchSize t → hitsPool s.dev t a 64 = false →
       (checkJob s.dev t jw = 0 → waitSemOf jw = 63 → completes (.job c) s fun n =>
         n = { s with dev := { s.dev with curv := n.dev.curv } } ∧
         getCurv n.dev c.val = { k with job := some { words := jw, j := 0, total := jobTotal jw, ready := true } }) ∧
       (∀ th q, checkJob s.dev t jw ≠ 0 → p.launch.ent.org = .thread th q none → signalSemOf p.launch.ent.words = sm.val →
         completes (.job c) s ends))) ∧
  (∀ (s : State) (c : CTile) (j : Job), alive s.dev = true → (getCurv s.dev c.val).job = some j → (getCurv s.dev c.val).testing = false →
     let w := j.words
     let t := ctileNat c.val
     let jobOf := fun (n : State) => (getCurv n.dev c.val).job
     let accepted := fun (r : RootSt) => ple r.rhoBest (pair32 (w.getD 13 0)) = true ∧
       ∀ x, r.rhoD = some x → ple x (pair32 (w.getD 13 0)) = true
     (j.ready = true → testAsked s.dev c.val = false → (j.finished = false ∨ j.code = 0 ∨ j.code = 0x21 ∨ j.code = 0x22) →
       (∀ r, j.root = some r → accepted r → completes (.hardLimitExpiry c) s fun n => n.dev.mem = s.dev.mem ∧ ∃ k, jobOf n = some k ∧ k.finished = true ∧ k.code = 0 ∧
           bitAt k.st 5 = true ∧ bitAt k.st 0 = true) ∧
       ((j.root = none ∨ ∃ r, j.root = some r ∧ ¬ accepted r) →
         completes (.hardLimitExpiry c) s fun n => n.dev.mem = s.dev.mem ∧ ∃ k, jobOf n = some k ∧ k.finished = true ∧ k.code = 0x20 ∧
           k.out = [])) ∧
     (∀ (p : Prog) (elapsed : Nat), j.finished = true → (getCurv s.dev c.val).script = some p → s.dev.mem.spPoison = [] →
       (j.out = [] ∨ anyWaits s.dev [wordAt w 5] = false) →
       let v := jobTested s.dev t j
       (j.code ≠ 0 → v = j) ∧ (j.code = 0 → wsPoison s.dev t j = true → v.code = 0x11 ∧ v.out = []) ∧
       completes (.blockJobEnd c elapsed) s fun n =>
         (∀ i, i < 64 → spRead n.dev t (dfield w 11 0 23 + 64 * j.j + i) 1 = [(jobRecord v elapsed).getD i 0]) ∧
         (∀ o bytes a, v.out = [(o, bytes)] → getAlloc s.dev (wordAt w 5) = some a → tierOf a = 1 → wordAt w 7 ≠ wordAt w 5 →
           wordAt w 8 + wsBytes w (jobSize s.dev t j) ≤ 2 ^ 64 → o + bytes.length ≤ 2 ^ 64 →
           holds n.dev (wordAt w 5) o bytes) ∧
         (j.j + 1 < j.total → ∃ k, jobOf n = some k ∧ k.words = w ∧ k.j = j.j + 1 ∧ k.started = false ∧ k.ready = true ∧
           n.dev.sigs = s.dev.sigs) ∧
         (∀ sm : SemId, j.total ≤ j.j + 1 → signalSemOf w = sm.val → jobOf n = none ∧
           n.dev.sigs = s.dev.sigs ++ [⟨t, sm, 1, .program, none, some t⟩] ∧
           ∃ q, (getCurv n.dev c.val).script = some q ∧ q.idx = p.idx + 1 ∧
             q.failed = p.failed + (if v.code = 0 then 0 else 1))))

/-- The block jobs' arithmetic (R143, R145, R146, R153-R157): where the input does not pass, the block job ends with its code; ROOT starts
warm from the image at OUT or cold from r · I, and each iteration and its end are those of R145, the direct residual of VERIFY in a step of
its own, both with the vector engine queue free (log entry 105, DEDUCED: the model's own choice), and none past the hard limit SOFT ×
HARD_MULT (R147, R149, R151); CHOL keeps the first attempt that passes every pivot, without λ or with λ0; CHOLSOLVE solves with the factor
of its first attempt; TREESOLVE writes X where every pivot passes. -/
def Obligations.BlockJobs : Prop :=
  ∀ (s : State) (c : CTile) (j : Job), alive s.dev = true →
    let w := j.words
    let map := jobMap s.dev (ctileNat c.val) w
    let sizes := mapSizes map
    let b := sizes.getD (jobBlk w j.j) 0
    let p := jobP w
    let f := jobFmt w
    let outAt := jobOutOff w sizes j.j
    let h := allocRead s.dev (wordAt w 5) outAt 64
    let sig := jobSig w map j.j b
    let jobOf := fun (n : State) => (getCurv n.dev c.val).job
    let fails := fun (code : Nat) (n : State) => n.dev.mem = s.dev.mem ∧
      ∃ k, jobOf n = some k ∧ k.finished = true ∧ k.code = code ∧ k.out = []
    let coupled := fun (n : State) (st : Nat) (m x y : Mat) => n.dev.mem = s.dev.mem ∧
      jobOf n = some { j with started := true, sig := sig, st := st, src := (srcField s.dev w sizes j.j 8, srcField s.dev w sizes j.j 0x10), root := some ⟨m, x, y, x, residOf b y, residOf b y, 0, 0, 0, none⟩ }
    let writes := fun (n : State) (q : RootSt) (st : Nat) => n.dev.mem = s.dev.mem ∧ ∃ k hd, jobOf n = some k ∧ k.finished = true ∧
      k.code = 0 ∧ k.st = st ∧ hd.length = 64 ∧ k.out = [(outAt, hd ++ symBytes f b (outMat f q.best))]
    (startable s.dev c.val 1 = some j →
      (∀ code, bitAt (wordAt w 0) 15 = false → readD s.dev w sizes j.j 0 = .inr code → completes (.root c none) s (fails code)) ∧
      (∀ m, bitAt (wordAt w 0) 15 = false → readD s.dev w sizes j.j 0 = .inl m →
        let v := (frob b m).1
        let r := pair32 (if p = 1 then frcp v else if p = 2 then frsqrt v else frsqrt (fsqrt v))
        let q := if p = 1 then r else if p = 2 then pmul r r else pmul (pmul r r) (pmul r r)
        let y := m.map fun row => row.map fun e => pmul q e
        matFin (ident b r) = true → matFin y = true → pfin (residOf b y) = true →
          completes (.root c none) s fun n => coupled n 64 m (ident b r) y) ∧
      (∀ m, bitAt (wordAt w 0) 15 = true → recf h 4 4 = 4 → bitAt (recf h 0x18 4) 0 = true → recf h 0x28 8 = sig.toNat →
        readD s.dev w sizes j.j (imgBytes f b) = .inl m →
        let x := readSym s.dev (wordAt w 5) outAt f b
        let y := mulSym b (lastMat (rootPower b p x)) m
        matFin x = true → (rootPower b p x).all matFin = true → matFin y = true → pfin (residOf b y) = true →
          completes (.root c none) s fun n => coupled n 0 m x y)) ∧
    (∀ (r : RootSt) (elapsed : Nat), jobOf s = some j → j.root = some r → j.finished = false → (getCurv s.dev c.val).testing = false →
      wsPoison s.dev (ctileNat c.val) j = false →
      let br := rootBreak w r elapsed
      let stops := ple r.rho (pair32 (w.getD 12 0)) = true ∨ r.worse = 3 ∨ r.k = dfield w 14 0 8 ∨ wordAt w 10 ≤ elapsed
      (¬ stops → j.verify = false → vecFree s.dev (ctileNat c.val) .solver = true →
        let t := mmap2 (fun i m => pmul (padd i (pneg m)) (invP p)) (ident b (pair32 (f32OfNat (p + 1)))) r.m
        let x := mulSym b r.x t
        let y := mulSym b (lastMat (rootPower b p t)) r.m
        let rho := residOf b y
        matFin t = true → matFin x = true → (rootPower b p t).all matFin = true → matFin y = true → pfin rho = true →
        completes (.rootIterationEnd c elapsed none) s fun n => n.dev.mem = s.dev.mem ∧
          jobOf n = some { j with root := some (if plt rho r.rhoBest = true
            then { r with x := x, m := y, rho := rho, best := x, rhoBest := rho, k := r.k + 1, kBest := r.k + 1, worse := 0 }
            else { r with x := x, m := y, rho := rho, k := r.k + 1, worse := r.worse + 1 }) }) ∧
      (stops → elapsed < hardLimit w → j.verify = false → bitAt (wordAt w 0) 16 = false →
        completes (.rootIterationEnd c elapsed none) s fun n => writes n r (j.st ||| br ||| b2n (rootAccepts w r))) ∧
      (stops → elapsed < hardLimit w → j.verify = false → bitAt (wordAt w 0) 16 = true →
        completes (.rootIterationEnd c elapsed none) s fun n => n.dev.mem = s.dev.mem ∧
          jobOf n = some { j with st := j.st ||| br, verify := true }) ∧
      (elapsed < hardLimit w → j.verify = true → vecFree s.dev (ctileNat c.val) .solver = true →
        let y := mulSym b (lastMat (rootPower b p r.best)) r.d
        let rd := residOf b y
        (rootPower b p r.best).all matFin = true → matFin y = true → pfin rd = true →
          completes (.rootIterationEnd c elapsed none) s fun n =>
            writes n r (j.st ||| 1024 ||| b2n (rootAccepts w { r with rhoD := some rd }))) ∧
      (∀ f, faultFound f = true → elapsed < hardLimit w → (¬ stops ∨ j.verify = true) → vecFree s.dev (ctileNat c.val) .solver = true →
        completes (.rootIterationEnd c elapsed (some f)) s fun n =>
          ∃ k, jobOf n = some k ∧ k.finished = true ∧ k.code = 0x24 ∧ k.out = [] ∧ k.st = j.st) ∧
      (hardLimit w ≤ elapsed → completes (.rootIterationEnd c elapsed none) s fun n => n.dev.mem = s.dev.mem ∧
        ∃ k, jobOf n = some k ∧ k.finished = true ∧ k.code = if rootAccepts w r then 0 else 0x20)) ∧
    (∀ m u, startable s.dev c.val 2 = some j → readD s.dev w sizes j.j 0 = .inl m →
      let thr := fmul (w.getD 12 0) (maxDiag (diagOf m))
      let kept := fun (a : Nat) (lam : W32) (n : State) => n.dev.mem = s.dev.mem ∧ ∃ k hd, jobOf n = some k ∧ k.code = 0 ∧
        k.attempts = a ∧ k.lambda = lam ∧ k.st = (if a = 0 then 0 else 512) ∧ hd.length = 64 ∧
        k.out = [(outAt, hd ++ symBytes f b (outMat f u))]
      (chol m b thr = .ok u → completes (.chol c none) s (kept 0 0)) ∧
      (∀ i, chol m b thr = .pivot i → isZero32 (w.getD 13 0) = false → chol (addDiag m (w.getD 13 0)) b thr = .ok u →
        completes (.chol c none) s (kept 1 (w.getD 13 0)))) ∧
    (∀ m u, startable s.dev c.val 3 = some j → readD s.dev w sizes 0 (rhsBytes w (sizes.getD (jobBlk w 0) 0)) = .inl m →
      let b := sizes.getD (jobBlk w 0) 0
      let ys := (readRhs s.dev w b).map (solveLower u)
      let xs := ys.map (solveUpper u)
      chol m b (fmul (w.getD 12 0) (maxDiag (diagOf m))) = .ok u → matFin ys = true → matFin xs = true →
      completes (.cholsolve c none) s fun n => n.dev.mem = s.dev.mem ∧
        ∃ k, jobOf n = some k ∧ k.code = 0 ∧ k.attempts = 0 ∧ k.out = rhsOut w b xs) ∧
    (∀ q, startable s.dev c.val 4 = some j →
      let off := wordAt w 3
      let nb := jobBodies s.dev w
      let h := allocRead s.dev (wordAt w 2) off 64
      let parents := (List.range nb).map fun i => leNat (allocRead s.dev (wordAt w 2) (off + 64 + 2 * i) 2)
      let blk := fun (i : Nat) => (List.range 6).map fun r =>
        rowPairs 8 (allocRead s.dev (wordAt w 2) (off + 64 + roundUp (2 * nb) 64 + 144 * i + 24 * r) 24) 6
      let ns := (List.range nb).map fun i => blk i
      let es := (List.range nb).map fun i => blk (nb + i)
      let maxd := maxDiag (ns.flatMap diagOf)
      let xs := (readRhs s.dev w (6 * nb)).map fun v => (treeRhs parents q (chunksOf 6 v.length v)).flatMap fun y => y
      jobUse s.dev w (off, treeBytes nb) (wordAt w 6, rhsBytes w (6 * nb)) (wordAt w 8, wsBytes w nb) = 0 →
      (recf h 4 4 ≠ 3 ∨ bitAt (recf h 0x18 4) 0 = false → completes (.treesolve c) s (fails 0x23)) ∧
      (recf h 4 4 = 3 → bitAt (recf h 0x18 4) 0 = true → (ns ++ es).all matFin = true → flt 0 maxd = true →
        treeElim parents es (fmul (w.getD 12 0) maxd) (List.range nb).reverse ⟨ns, [], []⟩ = .inl q → matFin xs = true →
        completes (.treesolve c) s fun n => n.dev.mem = s.dev.mem ∧
          ∃ k, jobOf n = some k ∧ k.code = 0 ∧ k.attempts = 0 ∧ k.out = rhsOut w (6 * nb) xs))

/-! ### Collectives (chapter 11) -/

/-- The start of an entry (R256-R268, R270, Table 11-10): an entry whose checks pass and that waits on no semaphore becomes the
active collective of its engine, and a refused one ends its program with its code. A group of this device alone moves its data
at once: a reduction in ATOMIC adds the partials to zero or to DST, a copy leaves SRC at DST, and a BARRIER is released; RESHARD
marks its allocation BUSY. With 64 collectives active the entry waits, read, and an entry with an operand in a host tier that takes no
transfers now is active and moves nothing yet (R337). -/
def Obligations.CollectiveStarts : Prop :=
  ∀ (s : State) (p : Port) (g : CProg) (w : List W32), alive s.dev = true → fget none s.dev.fab.engines p.val = some g →
    g.waiting = false → collOn s.dev p.val = none → entryOf s.dev g = (0, w) → checkEntryFields w = 0 → waitSemOf w = 63 →
    progWaits s.dev g = false →
    let rows : List (Nat × Instr) := [(0xC0, .allreduce p), (0xC1, .reducescatter p), (0xC2, .allgather p), (0xC3, .alltoall p),
      (0xC4, .broadcast p), (0xC5, .reshard ⟨p, none⟩), (0xC6, .barrier p)]
    ∀ x ∈ rows, collOp w = x.1 →
      (∀ c, c ≠ 0 → prepareColl s.dev p.val g w = (c, none) → completes x.2 s fun n =>
        n.dev.fab.colls = s.dev.fab.colls ∧ (fget [] s.dev.fab.engineQ p.val = [] → fget none n.dev.fab.engines p.val = none)) ∧
      (∀ (k : Coll), x.1 = 0xC6 → prepareColl s.dev p.val g w = (0, some k) → s.dev.fab.colls = [] → s.dev.fab.early = [] →
        k.faddrs = [ownAddr s.dev] → srcRead s.dev k = false → collWaits s.dev k = false → completes x.2 s fun n => n.dev.mem = s.dev.mem ∧
          n.dev.fab.colls = [{ k with arrived := [0], part := 1, released := true }]) ∧
      (∀ (k : Coll) (a : Alloc), x.1 ≠ 0xC6 → prepareColl s.dev p.val g w = (0, some k) → s.dev.fab.colls = [] →
        s.dev.fab.early = [] → k.faddrs = [ownAddr s.dev] → srcRead s.dev k = false → collWaits s.dev k = false → isNorm w = false →
        s.dev.mem.spPoison = [] →
        s.dev.mem.tierPoison = [] → getAlloc s.dev (wordAt w 10) = some a → a.poisonFull = false →
        let n0 := k.counts.getD 0 0
        (x.1 = 0xC0 ∨ x.1 = 0xC1 → k.mode = 0) → (x.1 = 0xC3 → k.recvCounts = k.counts) → n0 * esize w ≤ 4096 →
        let src := allocRead s.dev (wordAt w 8) (srcOff w) (n0 * esize w)
        let old := toWords n0 (allocRead s.dev (wordAt w 10) (dstOff w) (4 * n0))
        let sums := List.zipWith fadd (if isAccum w then old else List.replicate n0 0) (toWords n0 src)
        completes x.2 s fun n => ∃ j, n.dev.fab.colls = [j] ∧ j.words = w ∧ j.port = p.val ∧ j.group = k.group ∧ j.hash = k.hash ∧
          j.code = 0 ∧
          (x.1 = 0xC0 ∨ x.1 = 0xC1 →
            holds n.dev (wordAt w 10) (dstOff w) (sums.flatMap fun v => natLe 4 v.toNat)) ∧
          (x.1 = 0xC2 ∨ x.1 = 0xC3 ∨ x.1 = 0xC4 → holds n.dev (wordAt w 10) (dstOff w) src) ∧
          (x.1 = 0xC5 → j = k ∧ n.dev.mem.tier = s.dev.mem.tier ∧ getAlloc n.dev (wordAt w 10) = some { a with busy := true })) ∧
      (∀ (k : Coll), prepareColl s.dev p.val g w = (0, some k) → s.dev.fab.colls = [] → s.dev.fab.early = [] →
        k.faddrs = [ownAddr s.dev] → collWaits s.dev k = true → completes x.2 s fun n => n.dev.mem.tier = s.dev.mem.tier ∧
          n.dev.fab.colls = [{ k with held := true }]) ∧
      (∀ (k : Coll), prepareColl s.dev p.val g w = (0, some k) → 64 ≤ s.dev.fab.colls.length → completes x.2 s fun n =>
        n.dev.fab.colls = s.dev.fab.colls ∧ n.dev.mem = s.dev.mem ∧
        fget none n.dev.fab.engines p.val = some { g with words := w })

/-- The moves of a RESHARD (R107): a cycle of two slots of one device takes its first chunk into the staging buffer of its
engine, then moves the second into the place so vacated, and then writes the first from the buffer; the buffer of an engine takes
no second cycle meanwhile. Which chunk of a cycle is its first, whose buffer takes it and that one buffer holds one cycle are the model's
own choices (log entry 25, DESIGN CHOICE). -/
def Obligations.ReshardMoves : Prop :=
  (∀ (s : State) (p : Port) (k : Coll) (a : Alloc) (u v : Nat), alive s.dev = true → s.dev.fab.colls = [k] → k.port = p.val →
      collOp k.words = 0xC5 → k.held = false → k.me = 0 → k.group.length = 1 → k.table = [(0, u, 0, v), (0, v, 0, u)] → u ≠ v → k.ins = [] →
      s.dev.fab.retained = [] → s.dev.mem.spPoison = [] → s.dev.mem.tierPoison = [] →
      let w := k.words
      wordAt w 8 = wordAt w 10 → wordAt w 9 = wordAt w 11 → getAlloc s.dev (wordAt w 10) = some a → a.poisonFull = false →
      let slot := fun (i : Nat) => dstOff w + i * wordAt w 6
      let bytes := fun (i : Nat) => allocRead s.dev (wordAt w 10) (slot i) (slotLen s.dev w i)
      (k.moved = [] → k.staged = [] → k.stages = [] → completes (.reshard ⟨p, some 0⟩) s fun n => n.dev.mem = s.dev.mem ∧
        n.dev.fab.colls = [{ k with staged := [0], stages := [(0, 0, bytes u)] }]) ∧
      (k.moved = [] → k.staged = [0] → completes (.reshard ⟨p, some 1⟩) s fun n =>
        holds n.dev (wordAt w 10) (slot u) (bytes v) ∧ n.dev.fab.colls = [{ k with moved := [1] }]) ∧
      (∀ b, k.moved = [1] → k.staged = [0] → k.stages = [(0, 0, b)] → b.length ≤ 2 ^ 20 → completes (.reshard ⟨p, some 0⟩) s fun n =>
        holds n.dev (wordAt w 10) (slot v) b ∧ n.dev.fab.colls = [{ k with moved := [1, 0] }])) ∧
  (∀ (s : State) (p : Port) (k : Coll) (j : Nat) (e : RMove), alive s.dev = true → collOn s.dev p.val = some k →
      collOp k.words = 0xC5 → (∀ x ∈ s.dev.fab.colls, x.ins = []) → k.table[j]? = some e → e.1 = k.me → fixedMove e = false →
      cycleHead k.table j = j → j ∉ k.moved → j ∉ k.staged → stageTaken s.dev (stagePort s.dev k j) = true →
      completes (.reshard ⟨p, some j⟩) s (· = s))

/-- SETRANKS, COLL_ENTRY_COMPLETE, COLL_END and CHUNK_STAGED_COMPLETE (R256, R258, R263, R268, R269): the rank table is loaded;
a completed entry writes its result, signals and lets the next entry come; END ends the program with its own signal and the
launch's; a chunk whose rows stand in its window goes as a VREDUCE to the tile's vector queue, with the destination's value beside
them under ACCUM. That END writes a result (log entry 58, DEDUCED) and makes its own signal before the launch's (log entry 118, DEDUCED) are
the model's own choices. -/
def Obligations.CollectiveEntries : Prop :=
  ∀ (s : State) (p : Port) (g : CProg) (a : Alloc), alive s.dev = true → fget none s.dev.fab.engines p.val = some g →
    g.waiting = false → progWaits s.dev g = false → s.dev.mem.spPoison = [] → s.dev.mem.tierPoison = [] →
    getAlloc s.dev g.alloc = some a → g.resOff + 16 * g.idx + 16 ≤ a.size →
    let result := fun (n : State) (code flags epoch elems : Nat) =>
      holds n.dev g.alloc (g.resOff + 16 * g.idx) (entryResult code flags epoch elems)
    let goesOn := fun (n : State) => ∃ h, fget none n.dev.fab.engines p.val = some h ∧ h.idx = g.idx + 1 ∧ h.waiting = false ∧
      h.launch = g.launch
    (∀ (w : List W32) (b : List Byte), collOn s.dev p.val = none → entryOf s.dev g = (0, w) → collOp w = 0xC8 →
      checkEntryFields w = 0 → waitSemOf w = 63 → signalSemOf w = 63 → p.val < 15 → s.dev.fab.colls = [] →
      let n0 := collTotal w
      let es := numbers 8 b
      let mine := es.getD (dfield w 3 0 16) 0
      0 < n0 → n0 ≤ 65536 → dfield w 3 0 16 < n0 → readList s.dev (wordAt w 8) (srcOff w) (8 * n0) = (0, b) →
      (∀ x, getAlloc s.dev (wordAt w 8) = some x → tierOf x = 1) → (∀ v ∈ es, v < 2 ^ 33) → mine = ownAddr s.dev + 2 ^ 32 → ownAddr s.dev < 2 ^ 32 →
      completes (.setranks p) s fun n => goesOn n ∧ result n 0 0 (collEpoch w) 0 ∧
        n.dev.fab.ranks = some (es.map fun v => (v % 2 ^ 32, v / 2 ^ 32 == 1)) ∧ n.dev.fab.myRank = dfield w 3 0 16) ∧
    (∀ (k : Coll) (sm : SemId) (t : TileId), collOn s.dev p.val = some k → k.code = 0 → s.dev.fab.colls = [k] →
      (∀ i, (getIn k i).got = []) → (k.part ≠ 0 ∨ collOp k.words = 0xC6 ∧ k.me ≠ 0 ∨ collOp k.words ∈ [0xC1, 0xC2, 0xC3, 0xC5]) →
      collDone s.dev k = true → signalSemOf k.words = sm.val → semTile k.words = some t → isNorm k.words = false →
      collOp k.words ≠ 0xCF →
      completes (.collEntryComplete p) s fun n => goesOn n ∧ n.dev.fab.colls = [] ∧
        n.dev.sigs = s.dev.sigs ++ [⟨t, sm, 1, .program, none, none⟩] ∧
        result n 0 (b2n k.degraded + 2 * bitf k.status 2 1 + 4 * bitf k.status 0 1 + 8 * bitf k.status 1 1)
          (collEpoch k.words) (dstElems k)) ∧
    (∀ (w : List W32) (th : Thr) (q : W32) (sm : SemId), collOn s.dev p.val = none → entryOf s.dev g = (0, w) → collOp w = 0xCF →
      checkEntryFields w = 0 → waitSemOf w = 63 → g.launch.ent.org = .thread th q none → signalSemOf g.launch.ent.words = sm.val →
      completes (.collEnd p) s fun n => result n 0 0 (collEpoch w) 0 ∧
        n.dev.sigs = s.dev.sigs ++ (match semOfNat (signalSemOf w), semTile w with
          | some x, some t => [⟨t, x, 1, .program, none, none⟩]
          | _, _ => []) ++ [⟨g.launch.tile, sm, 1, .desc, none, launchTile g.launch⟩] ∧
        fget none n.dev.fab.engines p.val = (fget [] s.dev.fab.engineQ p.val).head?.map cprogOf ∧
        fget [] n.dev.fab.engineQ p.val = (fget [] s.dev.fab.engineQ p.val).tail) ∧
    (∀ (k : Coll) (c : Nat), collOn s.dev p.val = some k → findColl s.dev (collId k.words) (collEpoch k.words) k.me = some k →
      (∀ i, (getIn k i).got = []) → chunkReady s.dev k c = true → (∀ i, i < k.group.length → k.counts.getD i 0 ≠ 0) →
      let w := k.words
      let t := stageTile w c
      let m := 4 * chunkLen k c
      let old := allocRead s.dev (wordAt w 10) (chunkDst k c) m
      (isAccum w = true → (checkAllocRead s.dev (wordAt w 10) (chunkDst k c) m).1 = 0) →
      completes (.chunkStagedComplete p c) s fun n =>
        getQueue n.dev t 1 = getQueue s.dev t 1 ++
          [{ id := s.dev.stamp, unit := 1, words := stageWords k c, org := .coll p (collEpoch w * 2 ^ 32 + c) }] ∧
        wroteBytes s n t (stageRow w c k.group.length) (if isAccum w then old else []) ∧
        ∃ j, collOn n.dev p.val = some j ∧ j.issued = k.issued ++ [c])

/-! ### Packets, flits and ports (chapters 11, 12) -/

/-- Packets of an active issue (R252, R254, R255, R262, R263, R267, R287): the chunk of an ALLGATHER is placed once and a second copy
is counted and dropped, one of an ORDERED REDUCESCATTER is staged in its window, ARRIVE and RELEASE are noted, ABORT ends the issue
with the elements written so far; ABORT for an issue that has completed is counted; a packet of an issue not started is held, and a chunk
whose issue waits for the host tier stays where it is (R337). -/
def Obligations.IssuePackets : Prop :=
  ∀ (s : State) (p : Port) (q : Packet), alive s.dev = true →
    let i := q.srcIndex
    let taken := fun (vc : Nat) (n : State) =>
      (getPort n.dev p.val).rxq = dropFirst (fun e => e.1 == vc) (getPort s.dev p.val).rxq
    let none_ := s.dev.fab.colls.all fun k => collId k.words != q.collId
    let collOf := fun (n : State) => findColl n.dev q.collId q.epoch q.dstIndex
    (headPkt s.dev p.val 0 = some q →
      (none_ = true → (q.epoch, true) ∉ fget [] s.dev.fab.doneIds q.collId → earlyRoom s.dev q = true →
        completes (.dataPacket p) s fun n => taken 0 n ∧ n.dev.fab.early = s.dev.fab.early ++ [(p.val, q)] ∧
          n.dev.mem = s.dev.mem) ∧
      (∀ k, collOf s = some k → q.type = 1 → chunkHeld s.dev k q = true → completes (.dataPacket p) s (· = s)) ∧
      (∀ k, collOf s = some k → q.type = 1 → chunkHeld s.dev k q = false → haveChunk (getIn k i) q.seq = true →
        completes (.dataPacket p) s fun n =>
        taken 0 n ∧ n.dev.mem = s.dev.mem ∧ collOf n = some k ∧
        dget n.dev 0x6018 (p.val + 1) = (dget s.dev 0x6018 (p.val + 1) + 1) % 2 ^ 32) ∧
      (∀ k a off len last, collOf s = some k → q.type = 1 → chunkHeld s.dev k q = false →
        collOp k.words = 0xC2 → isNorm k.words = false → q.dhash = k.hash →
        haveChunk (getIn k i) q.seq = false → chunkPlace (esize k.words * k.counts.getD i 0) none q.seq = some (0, off, len, last) →
        q.payload.length = roundUp len 4 → bitAt q.flags 0 = last → s.dev.mem.spPoison = [] → s.dev.mem.tierPoison = [] →
        destCode s.dev (wordAt k.words 10) = 0 → getAlloc s.dev (wordAt k.words 10) = some a → completes (.dataPacket p) s fun n => taken 0 n ∧
          holds n.dev (wordAt k.words 10) (dstOff k.words + (esize k.words * prefixSum k.counts i + off)) (q.payload.take len) ∧
          ∃ j, collOf n = some j ∧ flowHas (getIn j i) q.seq = true) ∧
      (∀ k off len last c, collOf s = some k → q.type = 1 → chunkHeld s.dev k q = false →
        collOp k.words = 0xC1 → k.mode = 1 → isRecords k.words = false →
        isNorm k.words = false → q.dhash = k.hash → haveChunk (getIn k i) q.seq = false → (getIn k i).got = [] →
        k.counts.getD i 0 ≠ 0 →
        chunkPlace (4 * k.counts.getD k.me 0) none q.seq = some (0, off, len, last) → q.payload.length = len →
        bitAt q.flags 0 = last → s.dev.mem.spPoison = [] → 0 < len → c * chunkElems k.words ≤ 1024 * q.seq →
        1024 * q.seq + len / 4 ≤ (c + 1) * chunkElems k.words → halfFree k c = true →
        completes (.dataPacket p) s fun n => taken 0 n ∧
          wroteBytes s n (stageTile k.words c) (stageRow k.words c i + (1024 * q.seq - c * chunkElems k.words) * 4) q.payload ∧
          ∃ j, collOf n = some j ∧ flowHas (getIn j i) q.seq = true)) ∧
    (∀ k, headPkt s.dev p.val 1 = some q → collOf s = some k → q.dhash = k.hash → collOp k.words = 0xC6 → isNorm k.words = false → k.code = 0 →
      (q.type = 4 → k.me = 0 → k.part = 0 → i ∉ k.arrived →
        (k.arrived.length + 1 < k.group.length → completes (.arrive p) s fun n =>
          taken 1 n ∧ collOf n = some { k with arrived := k.arrived ++ [i] } ∧ n.dev.mem = s.dev.mem) ∧
        (k.group.length ≤ k.arrived.length + 1 → k.held = false → collWaits s.dev k = false →
          completes (.arrive p) s fun n => n.dev.mem = s.dev.mem ∧
          collOf n = some { k with arrived := k.arrived ++ [i], part := 1, released := true })) ∧
      (q.type = 5 → completes (.release p) s fun n =>
        taken 1 n ∧ collOf n = some { k with released := true } ∧ n.dev.mem = s.dev.mem)) ∧
    (∀ k g a, headPkt s.dev p.val 1 = some q → q.type = 3 → collOf s = some k → s.dev.fab.colls = [k] →
      (q.collId, q.epoch, q.src * 65536 + q.dstIndex) ∉ s.dev.fab.abortsIn → fget none s.dev.fab.engines k.port = some g →
      s.dev.mem.spPoison = [] → s.dev.mem.tierPoison = [] →
      getAlloc s.dev g.alloc = some a → tierOf a ≠ 0 → g.resOff + 16 * g.idx + 16 ≤ a.size → completes (.abortPacket p) s fun n =>
        n.dev.fab.colls = [] ∧ (q.epoch, false) ∈ fget [] n.dev.fab.doneIds q.collId ∧
        holds n.dev g.alloc (g.resOff + 16 * g.idx) (entryResult (if recf q.payload 0 4 = 2 then 0x51 else 0x50)
          (2 * bitf k.status 2 1 + 4 * bitf k.status 0 1 + 8 * bitf k.status 1 1) q.epoch (elemsWritten s.dev k))) ∧
    (headPkt s.dev p.val 1 = some q → q.type = 3 → none_ = true → (q.epoch, true) ∈ fget [] s.dev.fab.doneIds q.collId →
      (q.collId, q.epoch, q.src * 65536 + q.dstIndex) ∉ s.dev.fab.abortsIn → completes (.abortPacket p) s fun n =>
        taken 1 n ∧ dget n.dev 0x6029 1 = (dget s.dev 0x6029 1 + 1) % 2 ^ 32 ∧ n.dev.fab.early = s.dev.fab.early)

/-- ACK, SIGNAL, heartbeats and fences by ordinary routes, and the timers of retention (R254, R255, R267, R286, R303, R305,
R307): an ACK frees the chunks it covers, a signal is made once, and the timers resend, give up, acknowledge and discard. That an ACK with
CHUNK_SEQ 1 answers the flow of ABORT packets is the model's own choice (log entry 22, DESIGN CHOICE). -/
def Obligations.FabricFlow : Prop :=
  ∀ (s : State) (p : Port) (q : Packet), alive s.dev = true →
    let new := flowHas (sigFlow s.dev q.src) q.seq = false
    let heard := fun (n : State) => flowHas (sigFlow n.dev q.src) q.seq = true
    let counted := fun (n : State) => dget n.dev 0x6018 (p.val + 1) = (dget s.dev 0x6018 (p.val + 1) + 1) % 2 ^ 32
    (headPkt s.dev p.val 1 = some q →
      (q.type = 2 → (∀ r ∈ s.dev.fab.retained, r.port < 16) →
        (∀ k, findColl s.dev q.collId q.epoch q.dstIndex = some k → ∀ j, (getIn k j).got = []) → completes (.ackPacket p) s fun n =>
        n.dev.fab.retained = s.dev.fab.retained.filter (fun r => !(r.pkt.dst == q.src && r.pkt.collId == q.collId &&
          r.pkt.epoch == q.epoch && r.pkt.srcIndex == q.dstIndex && r.pkt.dstIndex == q.srcIndex &&
          ((r.pkt.type == 3) == (q.seq == 1)) && ackCovers q.payload r.pkt.seq)) ∧ n.dev.mem = s.dev.mem) ∧
      (∀ sm t, q.type = 6 → semOfNat (sigSem q) = some sm → remoteTile (recf q.payload 0 1) = some t →
        (new → completes (.signalPacket p) s fun n => heard n ∧ n.dev.mem = s.dev.mem ∧
          n.dev.sigs = s.dev.sigs ++ [⟨t, sm, sigN q, .program, none, none⟩]) ∧
        (¬ new → completes (.signalPacket p) s fun n => counted n ∧ n.dev.sigs = s.dev.sigs ∧ n.dev.mem = s.dev.mem)) ∧
      (isPairControl q 0 = true → new → completes (.heartbeatSignal p) s fun n => heard n ∧ n.dev.sigs = s.dev.sigs ∧
        n.dev.mem = s.dev.mem ∧ n.dev.safety = s.dev.safety ∧ n.dev.power = s.dev.power) ∧
      (isPairControl q 0xFFFF = true → new →
        (q.src = partnerAddr s.dev → recf q.payload 0 1 = 0 → s.dev.safety.pairState < 2 → completes (.fenceSignal p) s fun n =>
          heard n ∧ n.dev.safety.pairState = 2) ∧
        (q.src = partnerAddr s.dev → recf q.payload 0 1 = 1 → s.dev.safety.pairState ≠ 2 → completes (.fenceSignal p) s fun n =>
          n.dev.power.devState = 2 ∧ n.dev.safety.fatalCode = 9) ∧
        (q.src ≠ partnerAddr s.dev ∨ 1 < recf q.payload 0 1 → completes (.fenceSignal p) s fun n => heard n ∧ counted n ∧ n.dev.safety = s.dev.safety))) ∧
    (∀ (i : Nat) (r : Retained), s.dev.fab.retained[i]? = some r →
      (r.port < 16 → r.resends < 8 → portUp s.dev r.port = true → completes (.chunkRetransmitTimeout i) s fun n =>
        n.dev.fab.retained = s.dev.fab.retained.set i { r with resends := r.resends + 1 } ∧ n.dev.mem = s.dev.mem ∧
        dget n.dev 0x6017 (r.port + 1) = (dget s.dev 0x6017 (r.port + 1) + 1) % 2 ^ 32) ∧
      (8 ≤ r.resends → (s.dev.fab.colls = [] → completes (.chunkResendExhausted i) s fun n =>
          n.dev.fab.retained = s.dev.fab.retained.filter (· != r) ∧ n.dev.mem = s.dev.mem) ∧
        (∀ k, s.dev.fab.colls = [k] → r.pkt.dst ∈ k.faddrs → completes (.chunkResendExhausted i) s fun n =>
          n.dev.fab.colls = [] ∧ (collEpoch k.words, false) ∈ fget [] n.dev.fab.doneIds (collId k.words)))) ∧
    (∀ i src, (owingFlows s.dev)[i]? = some (none, src) → completes (.ackSendTimer i) s fun n =>
      sigFlow n.dev src = { sigFlow s.dev src with unacked := 0 } ∧ n.dev.mem = s.dev.mem) ∧
    (∀ i k j, (owingFlows s.dev)[i]? = some (some k, j) → findColl s.dev (collId k.words) (collEpoch k.words) k.me = some k →
      completes (.ackSendTimer i) s fun n => ∃ x, findColl n.dev (collId k.words) (collEpoch k.words) k.me = some x ∧
        getIn x j = { getIn k j with unacked := 0 } ∧ n.dev.mem = s.dev.mem) ∧
    (∀ i e, s.dev.fab.early[i]? = some e → completes (.earlyArrivalExpiry i) s fun n =>
      n.dev.fab.early = s.dev.fab.early.eraseIdx i ∧ n.dev.mem = s.dev.mem)

/-- Flits (R243, R247-R249, R251, R253): the first flit of a codeword brings its verdict, and what the FEC corrected or could not; an
acknowledgement frees the replay buffer and returns credit; a DATA flit in order brings its
packet to the receive queue, one out of order or bad asks for a replay, and the flits asked for are sent again; a flit replayed
eight times fails the port. That the second flit of a codeword has the first one's verdict, whatever its own operand says, is the model's
own choice (log entry 124, DESIGN CHOICE). -/
def Obligations.FlitResults : Prop :=
  ∀ (s : State) (p : Port) (b : List Byte), alive s.dev = true → b.length = 320 → portUp s.dev p.val = true →
    let k := getPort s.dev p.val
    let good := recf b 0x13C 4 = (crc32c (b.take 0x13C)).toNat
    let later := if flitsPerCodeword s.dev p.val = 2 then some true else none
    let kept := fun (l : List (Nat × Nat × List Byte)) => match l with
      | (f, _) :: _ => if (recf b 4 3 + seqMod - f + 1) % seqMod ≤ l.length
        then l.drop ((recf b 4 3 + seqMod - f + 1) % seqMod) else l
      | [] => []
    let credited := fmod 0 k.credit (bitf (recf b 8 2) 14 2) (· + recf b 8 2 % 16384)
    let asked := fun (n : State) => (getPort n.dev p.val).awaiting = true ∧ (getPort n.dev p.val).rxSeq = k.rxSeq ∧
      (getPort n.dev p.val).tx.length = k.tx.length + 1 ∧
      dget n.dev 0x6014 (p.val + 1) = (dget s.dev 0x6014 (p.val + 1) + 1) % 2 ^ 32
    let area := (b.drop 12).take 304
    (∀ c, k.codeword = none → good → ftypeOf b = 0 → k.txq = [] → completes (.idleFlit p (.decoded c) b) s fun n =>
      n.dev.mem = s.dev.mem ∧ getPort n.dev p.val = { k with replay := kept k.replay, credit := credited, codeword := later } ∧
      dget n.dev 0x6015 (p.val + 1) = (dget s.dev 0x6015 (p.val + 1) + min c (fecCap s.dev p.val)) % 2 ^ 64) ∧
    (k.codeword = none → completes (.idleFlit p .failed b) s fun n => asked n ∧
      dget n.dev 0x6016 (p.val + 1) = (dget s.dev 0x6016 (p.val + 1) + 1) % 2 ^ 32) ∧
    (∀ f, k.codeword = some false → completes (.idleFlit p f b) s fun n => n.dev.mem = s.dev.mem ∧
      getPort n.dev p.val = { k with codeword := none }) ∧
    (∀ c, k.codeword = none → good → ftypeOf b = 1 → selective s.dev p.val = false →
      (fseqOf b = k.rxSeq → k.txq = [] → fvcOf b = 0 → fget [] k.rxStream 0 = [] → p.val ≠ 15 →
        let q := decPacket area
        let len := recf area 2 2
        q.type = 1 → 36 + len ≤ 304 → len % 4 = 0 → (area.drop (32 + len)).take 4 = pktCrc q → (area.drop (36 + len)).headD 0 = 0 →
        q.hops = 0 → q.dst = ownAddr s.dev → completes (.dataFlit p (.decoded c) b) s fun n => n.dev.mem = s.dev.mem ∧
          (getPort n.dev p.val).rxq = k.rxq ++ [(0, q)] ∧ (getPort n.dev p.val).rxSeq = (k.rxSeq + 1) % seqMod ∧
          (getPort n.dev p.val).replay = kept k.replay) ∧
      ((fseqOf b + seqMod - k.rxSeq) % seqMod < seqMod / 2 → (fseqOf b + seqMod - k.rxSeq) % seqMod ≠ 0 →
        (k.awaiting = false → completes (.dataFlit p (.decoded c) b) s asked) ∧
        (k.awaiting = true → completes (.dataFlit p (.decoded c) b) s fun n => n.dev.mem = s.dev.mem ∧
          getPort n.dev p.val = { k with codeword := later }))) ∧
    (∀ c, k.codeword = none → good → ftypeOf b = 2 → selective s.dev p.val = false → k.txq = [] → (k.replay.map (·.1)).Nodup →
      completes (.replayReq p (.decoded c) b) s fun n => (getPort n.dev p.val).txSeq = k.txSeq ∧
        ((k.replay.any fun e => e.1 == recf b 12 3) = true → (getPort n.dev p.val).tx =
          k.tx ++ (k.replay.dropWhile fun e => e.1 != recf b 12 3).map (·.2.2))) ∧
    (k.replay.any (fun e => decide (8 ≤ e.2.1)) = true → completes (.flitReplayExhausted p) s fun n =>
      (getPort n.dev p.val).state = 0 ∧ (getPort n.dev p.val).reason = 18 ∧ (getPort n.dev p.val).replay = [])

/-- Training (R275-R283): the identity exchange brings a port up or quarantines it, DOWN and the timers take it down, UNREACH,
REACH and PORTMAP change what its routes know; a port that is down trains again unless it is DISABLED.
Lanes and HBM4 channels (R250, R317, R415): L8 stands in for a lane that fails, a second failure takes the port down, and a lane
or a channel under calibration is marked until its end. That no lane counts as bad after PORT_RETRAIN (log entry 121, DEDUCED) and that a
TRAINING flit has its place in a codeword (log entry 124, DESIGN CHOICE) are the model's own choices. -/
def Obligations.TrainingResults : Prop :=
  (∀ (s : State) (p : Port) (r : List Byte), alive s.dev = true → r.length = 304 →
     let k := getPort s.dev p.val
     let m := dget s.dev 0x6010 (p.val + 1)
     let now := fun (n : State) => getPort n.dev p.val
     let fell := fun (c : Instr) (reason : Nat) => completes c s fun n => (now n).state = 0 ∧ (now n).reason = reason
     (listening s.dev p.val = true → k.codeword ≠ some false → recOk r 1 = true →
       (identCheck s.dev p.val r ≠ 0 → completes (.ident p r) s fun n => (now n).state = 4 ∧
         (now n).reason = identCheck s.dev p.val r ∧ (now n).peerFaddr = recf r 4 4 ∧ (now n).peerSerial = recf r 8 8) ∧
       (identCheck s.dev p.val r = 0 → k.state = 1 →
         (k.ackRecv = false → completes (.ident p r) s fun n => (now n).ackSent = true ∧ (now n).state = 1 ∧
           (now n).tx.length = k.tx.length + 1) ∧
         (k.ackRecv = true → k.l8For = none → completes (.ident p r) s fun n => (now n).state = 2 ∧
           (now n).negRev = min 7 (recf r 0x14 2)))) ∧
     (k.state = 1 → recOk r 2 = true → recf r 0x20 8 = Config.serial.toNat →
       (k.ackSent = false → k.codeword ≠ some false → completes (.identAck p r) s fun n => now n = { k with
         ackRecv := true
         codeword := if k.codeword = none ∧ flitsPerCodeword s.dev p.val = 2 then some true else none }) ∧
       (k.ackSent = true → k.codeword ≠ some false → k.l8For = none → completes (.identAck p r) s fun n => (now n).state = 2)) ∧
     (listening s.dev p.val = true → k.codeword ≠ some false → recOk r 3 = true →
       (1 ≤ recf r 0x1A 1 → recf r 0x1A 1 ≤ 7 → completes (.down p r) s fun n => (now n).state = 4 ∧ (now n).reason = 6) ∧
       (7 < recf r 0x1A 1 → fell (.down p r) 20)) ∧
     (7 ≤ p.val → p.val ≤ 14 → portUp s.dev p.val = true → k.codeword ≠ some false →
       (recOk r 4 = true → k.unreach.length + recf r 0x28 2 ≤ 4096 → completes (.unreach p r) s fun n =>
         ∀ a, a ∈ (now n).unreach ↔ a ∈ k.unreach ∨ a ∈ recAddrs r) ∧
       (recOk r 5 = true → completes (.reach p r) s fun n => (now n).unreach = k.unreach.filter fun a => a ∉ recAddrs r)) ∧
     (p.val ≤ 6 → portUp s.dev p.val = true → k.codeword ≠ some false → k.negRev = 7 → recOk r 6 = true →
       completes (.portmap p r) s fun n => (now n).upMask = recf r 0x1E 2) ∧
     (∀ c ∈ [Instr.ident p r, .identAck p r, .down p r, .unreach p r, .reach p r, .portmap p r], listening s.dev p.val = true →
       k.codeword = some false → completes c s fun n => now n = { k with codeword := none } ∧ n.dev.mem = s.dev.mem) ∧
     (∀ (c : Nat) (b : List Byte), b.length = 320 → listening s.dev p.val = true → portUp s.dev p.val = false →
       completes (.idleFlit p (.decoded c) b) s fun n => n = { s with dev := { s.dev with fab := n.dev.fab } } ∧
         now n = { k with codeword := if k.codeword = none ∧ flitsPerCodeword s.dev p.val = 2 then some true else none }) ∧
     (k.state = 1 → (completes (.identSendTimer p) s fun n => (now n).tx = k.tx ++
         [flitBytes k.txSeq 3 0 (ackSeq k) (creditOwed k).1 (creditOwed k).2 (trainRec s.dev p.val 1 0 0 0 0)]) ∧
       (completes (.identTimeout p) s fun n => (now n).state = 0 ∧ (now n).reason = 16 ∧
         (now n).retrainMs = if k.retrainMs = 0 then 10 else min 1024 (2 * k.retrainMs))) ∧
     (k.state = 0 → (m ≠ 3 → completes (.retrainTimer p) s fun n => (now n).state = 1 ∧ (now n).mode = some m) ∧
       (m = 3 → completes (.retrainTimer p) s fun n => (now n).state = 0 ∧ (now n).reason = 21)) ∧
     (8 ≤ (recentDowns s.dev k).length → k.state ≠ 4 → completes (.flapping p) s fun n => (now n).state = 4 ∧ (now n).reason = 7) ∧
     (portUp s.dev p.val = true → fell (.portSilent p) 17) ∧
     (m ≠ 3 → completes (.portRetrain p) s fun n => (now n).state = 1 ∧ (now n).trained = false ∧ (now n).mode = some m ∧
       (now n).badLanes = [])) ∧
  (∀ (s : State) (p : Port), alive s.dev = true →
     let k := getPort s.dev p.val
     (∀ (l : Fin 9), l.val < 8 → l.val ∉ k.badLanes → 8 ∉ k.badLanes →
       (k.state = 2 → k.l8For = none → completes (.laneFailure p l) s fun n => n.dev.mem = s.dev.mem ∧
         (getPort n.dev p.val).badLanes = k.badLanes ++ [l.val] ∧ (getPort n.dev p.val).recal = none ∧
         (getPort n.dev p.val).l8For = some l.val ∧ (getPort n.dev p.val).state = 3) ∧
       (∀ m, listening s.dev p.val = true → k.l8For = some m → completes (.laneFailure p l) s fun n =>
         (getPort n.dev p.val).state = 0 ∧ (getPort n.dev p.val).reason = 19)) ∧
     (∀ (l : Fin 8), s.dev.power.devState = 1 → portUp s.dev p.val = true → k.l8For = none → k.recal = none → 8 ∉ k.badLanes →
       completes (.laneRecalibration p l) s fun n => getPort n.dev p.val = { k with recal := some l.val } ∧ n.dev.mem = s.dev.mem) ∧
     (completes (.laneRecalibrationEnd p) s fun n => getPort n.dev p.val = { k with recal := none } ∧ n.dev.mem = s.dev.mem) ∧
     (∀ (x : Fin 8) (ch : Nat), ch < 64 →
       (s.dev.power.devState = 1 → completes (.hbmChannelRecalibration x ch) s fun n => fget false n.dev.safety.hbmRecal (x.val * 64 + ch) = true ∧
         n = { s with dev := { s.dev with safety := n.dev.safety, count := n.dev.count } }) ∧
       (completes (.hbmChannelRecalibrationEnd x ch) s fun n => fget false n.dev.safety.hbmRecal (x.val * 64 + ch) = false ∧
         n = { s with dev := { s.dev with safety := n.dev.safety } })))

/-! ### The pair and self-test (chapter 13) -/

/-- Mirror packets (R187, R200, R210, R300-R302, R312): data goes to the receiving slot, COMMIT_END switches the slots and takes the
counter, ACK ends a commit or a join, a heartbeat changes nothing, a repair rewrites the line, a whole region joins the engine's
queue, and JOIN_COPY makes and fills a copy. The bytes of REGION (log entry 19), of JOIN_COPY and its value 2 (log entries 26 and 97) and
its value 3, which ends a join (log entry 123), are the model's own choices (DESIGN CHOICE). -/
def Obligations.MirrorPackets : Prop :=
  ∀ (s : State) (q : Packet) (a : Alloc), alive s.dev = true → headPkt s.dev 15 2 = some q →
    let m := mirrorOfPacket q
    let isCopy := getAlloc s.dev m.alloc = some a ∧ a.mirrorCopy = true ∧ tierOf a ≠ 0 ∧ s.dev.safety.pairState ≠ 2
    let isOwn := getAlloc s.dev m.alloc = some a ∧ a.mirrorCopy = false
    let b := clip a m.value m.data
    (m.sub = 1 → isCopy → (∃ c, a.begun = some c ∧ c % 2 ^ 32 = m.epoch) → completes .mirrorData s fun n =>
      allocReadSlot n.dev m.alloc recvSlot m.value b.length = b ∧
      ∀ o, o < 2 ^ 64 → allocRead n.dev m.alloc o 1 = allocRead s.dev m.alloc o 1) ∧
    (m.sub = 2 → isCopy → completes .commitBegin s fun n => getAlloc n.dev m.alloc = some { a with begun := some m.value }) ∧
    (∀ c, m.sub = 3 → isCopy → a.begun = some c → c % 2 ^ 32 = m.epoch → s.Inv → s.dev.mem.tierUndef = [] → a.size ≤ 2 ^ 64 →
      completes .commitEnd s fun n =>
        getAlloc n.dev m.alloc = some { a with begun := none, counter := c, mirrorAck := c } ∧
        ∀ o, o < a.size → allocRead n.dev m.alloc o 1 = allocReadSlot s.dev m.alloc recvSlot o 1) ∧
    (m.sub = 4 → isOwn →
      (s.dev.safety.joinWait = false → s.dev.safety.pairState = 1 → a.mirrorAck < m.value → m.value ≤ a.counter → delayOf a = 0 →
        completes .mirrorAck s fun n => getAlloc n.dev m.alloc = some { a with
            mirrorAck := m.value, confirmed := a.confirmed || a.filling } ∧
          dget n.dev 0x7001 3 = (dget s.dev 0x7001 3 + 1) % 2 ^ 64) ∧
      (s.dev.safety.joinWait = true → s.dev.safety.joinAcks = [m.alloc] → a.counter = m.value →
        (∀ e ∈ s.dev.mem.slow, e.from_.isSome = true → m.alloc ∉ updNames e.words) →
        completes .mirrorAck s fun n => n.dev.safety.joinAcks = [] ∧
          (s.dev.safety.partnerDone = true → n.dev.safety.pairState = 1) ∧
          (s.dev.safety.partnerDone = false → n.dev.safety.pairState = s.dev.safety.pairState ∧ n.dev.safety.joinWait = true) ∧
          getAlloc n.dev m.alloc = some { a with mirrorAck := m.value, unmirrored := a.dirty, unsent := false, fullBefore := false })) ∧
    (m.sub = 5 → completes .mirrorHeartbeat s fun n => n.dev.mem = s.dev.mem ∧ n.dev.safety = s.dev.safety ∧
      (getPort n.dev 15).rxq = dropFirst (fun e => e.1 == 2) (getPort s.dev 15).rxq) ∧
    (m.sub = 8 → getAlloc s.dev m.alloc = some a → m.value < a.size → a.torn = false → versionHere s.dev a m.epoch = true →
      allocPoisonAt s.dev m.alloc m.value (min 64 (a.size - m.value)) = none → completes .repairReq s fun n =>
        n.dev.mem = s.dev.mem ∧ (portUp s.dev 15 = false → n.dev.safety.mirrorTx = s.dev.safety.mirrorTx ++
          [⟨9, 4, 0, m.value, m.alloc, a.counter % 2 ^ 32, 0, allocRead s.dev m.alloc m.value (min 64 (a.size - m.value))⟩])) ∧
    (m.sub = 9 → getAlloc s.dev m.alloc = some a → tierOf a ≠ 0 → b ≠ [] → versionHere s.dev a m.epoch = true →
      allocPoisonAt s.dev m.alloc m.value b.length ≠ none → a.counter = a.mirrorAck → completes .repairData s fun n =>
        holds n.dev m.alloc m.value b ∧ dget n.dev 0xA003 5 = (dget s.dev 0xA003 5 + 1) % 2 ^ 32) ∧
    (m.sub = 10 → isCopy → s.dev.mem.slow.length < 32 →
      let r := (if m.seq = 0 then [] else fget [] s.dev.safety.regionRx m.alloc) ++ m.data
      (r.length < regionHead + 4 * a.elems → completes .region s fun n => n.dev.mem = s.dev.mem ∧
        fget [] n.dev.safety.regionRx m.alloc = r) ∧
      (regionHead + 4 * a.elems ≤ r.length → completes .region s fun n => ∃ x, n.dev.mem.slow = s.dev.mem.slow ++ [x] ∧
        x.words = toWords 16 r ∧ x.from_ = none ∧ x.data = (r.drop regionHead).take (4 * a.elems))) ∧
    (m.sub = 11 → m.alloc = 0 → m.seq = 0 → recf m.data 6 2 = 3 → completes .joinCopy s fun n => n.dev.mem = s.dev.mem ∧
      (s.dev.safety.joinWait = true → s.dev.safety.joinAcks = [] → n.dev.safety.pairState = 1) ∧
      (s.dev.safety.joinWait = false ∨ s.dev.safety.joinAcks ≠ [] → n.dev.safety.partnerDone = true ∧
        n.dev.safety.pairState = s.dev.safety.pairState)) ∧
    (m.sub = 11 → m.alloc ≠ 0 → s.dev.safety.pairState ≠ 2 →
      (m.seq = 0 → recf m.data 6 2 = 2 → isCopy → s.dev.mem.slow = [] → completes .joinCopy s fun n =>
        getAlloc n.dev m.alloc = some { a with counter := recf m.data 24 8, mirrorAck := recf m.data 24 8 }) ∧
      (m.seq = 0 → getAlloc s.dev m.alloc = none → recf m.data 6 2 ≠ 2 → recf m.data 0 4 % 4 = 1 → 0 < recf m.data 8 8 →
        bitf (recf m.data 0 4) 5 3 = 0 → (allocList s.dev).length < 16384 →
        tierUsed s.dev 1 + 2 * recf m.data 8 8 ≤ hbmCapacity s.dev → completes .joinCopy s fun n =>
          (∃ x, getAlloc n.dev m.alloc = some x ∧ x.flags = recf m.data 0 4 ∧ x.size = recf m.data 8 8 ∧ x.mirrorCopy = true ∧
            x.counter = recf m.data 24 8) ∧
          ∀ o, o < recf m.data 8 8 → allocRead n.dev m.alloc o 1 = [0]) ∧
      (m.seq ≠ 0 → isCopy → a.size ≤ 2 ^ 64 → completes .joinCopy s fun n => holds n.dev m.alloc m.value b))

/-- Losing and joining the partner, and fatal faults (R299, R303-R307, R312, R416): a partner that is lost makes this device the
SURVIVOR, which owns its mirror copies at their acknowledged version; a fence that names this device and every fatal fault stop it;
joining waits for the acknowledgement of the copies that it sends, and for the partner to say the same of its own. A device that stops
before its image is loaded serves WDP frames none the less, with the image loaded now (log entry 139, DESIGN CHOICE; R417). -/
def Obligations.PairLoss : Prop :=
  ∀ (s : State), alive s.dev = true →
    let survives := fun (how : Nat) (n : State) => n.dev.safety.pairState = 2 ∧ recf n.dev.safety.failRecord 0 1 = how ∧
      dget n.dev 0x7002 2 = (dget s.dev 0x7002 2 + 1) % 2 ^ 32
    let stopped := fun (code : Nat) (n : State) => n.dev.power.devState = 2 ∧ faultN n.dev = false ∧ n.dev.safety.pairState = 3 ∧
      n.dev.safety.fatalCode = code ∧ n.dev.mem = s.dev.mem ∧
      ⟨0x0051, 3, srcDevice, padTo 32 (natLe 1 code)⟩ ∈ n.dev.log.inbox ∧ n.dev.mgmt.serving = true ∧
      (s.dev.mgmt.serving = true → n.dev.log.inbox = s.dev.log.inbox ++ [⟨0x0051, 3, srcDevice, padTo 32 (natLe 1 code)⟩])
    (∀ q, headPkt s.dev 15 2 = some q → s.dev.fab.colls = [] →
      let m := mirrorOfPacket q
      (m.sub = 6 → s.dev.safety.pairState < 2 → completes .failstop s fun n => survives 1 n ∧
        recf n.dev.safety.failRecord 1 1 = m.reason % 256) ∧
      (m.sub = 7 → m.value = partnerAddr s.dev → m.value ≠ ownAddr s.dev → s.dev.safety.pairState < 2 →
        completes .fenceSubtype s (survives 2)) ∧
      (m.sub = 7 → m.value = ownAddr s.dev → s.dev.safety.pairState ≠ 2 → completes .fenceSubtype s (stopped 9)) ∧
      (m.sub = 7 → m.value = ownAddr s.dev → s.dev.safety.pairState = 2 → ownAddr s.dev % 2 = 0 →
        completes .fenceSubtype s fun n => n.dev.safety = s.dev.safety ∧ n.dev.power = s.dev.power)) ∧
    (s.dev.safety.hbOn = true → hasRoute s.dev (partnerAddr s.dev) = true → completes .heartbeatSendTimer s fun n =>
      fget 0 n.dev.fab.sigSeq (partnerAddr s.dev) = fget 0 s.dev.fab.sigSeq (partnerAddr s.dev) + 1 ∧
      n.dev.fab.retained.length = s.dev.fab.retained.length + 1 ∧ n.dev.mem = s.dev.mem) ∧
    (s.dev.safety.hbOn = true → s.dev.safety.pairState < 2 → s.dev.fab.colls = [] →
      (s.dev.mem.allocs.map (·.1)).Nodup → completes .heartbeatSilence s fun n =>
      survives 3 n ∧ ∀ i a, getAlloc s.dev i = some a → getAlloc n.dev i = some (if a.mirrorCopy then promote a else a)) ∧
    (portUp s.dev 15 = true → 9 ≤ s.dev.power.step → s.dev.safety.pairState ≠ 1 → s.dev.safety.pairState ≠ 3 →
      s.dev.safety.joinWait = false →
      (ownMirrors s.dev = [] → s.dev.safety.partnerDone = true → completes .pairJoin s fun n => n.dev.safety.pairState = 1 ∧
        n.dev.safety.hbOn = true ∧ n.dev.mem = s.dev.mem) ∧
      (ownMirrors s.dev = [] → s.dev.safety.partnerDone = false → completes .pairJoin s fun n => n.dev.safety.joinWait = true ∧
        n.dev.safety.pairState = s.dev.safety.pairState ∧ n.dev.mem = s.dev.mem) ∧
      (ownMirrors s.dev ≠ [] → completes .pairJoin s fun n => n.dev.safety.joinWait = true ∧
        n.dev.safety.joinAcks = ownMirrors s.dev ∧ n.dev.safety.pairState = s.dev.safety.pairState)) ∧
    (∀ c : Fin 8, c.val ≠ 0 → completes (.fatalFault c) s (stopped c.val)) ∧ completes .failStopRequest s (stopped 8)

/-- Self-test (R313-R316): a request joins its die's queue once; the spare takes over a tile at a program boundary without changing
it; a tile that passes moves back, one that fails is retired with its event; a turn without a boundary is passed over and counted;
a curvature tile is tested in place. -/
def Obligations.SelfTestResults : Prop :=
  ∀ (s : State) (die : Fin 2), alive s.dev = true →
    let x := s.dev.safety
    let i := die.val
    let t := nextTurn s.dev i
    let only := fun (n : State) => n = { s with dev := { s.dev with safety := n.dev.safety, dict := n.dev.dict } }
    let moved := fun (n : State) => n = { s with dev := { s.dev with safety := n.dev.safety, count := n.dev.count } }
    (∀ v : W16, s.dev.sec.recovery = true → completes (.selftestRequest v) s (· = s)) ∧
    (∀ v : W16, s.dev.sec.recovery = false → requestOk v.toNat = true → bitf v.toNat 8 1 = i → fget none x.retired i = none →
      (∀ e ∈ fget [] x.testQ i, e.1 ≠ requestSlot v.toNat) → (fget [] x.testQ i).length < 16 →
      completes (.selftestRequest v) s fun n => only n ∧
        fget [] n.dev.safety.testQ i = fget [] x.testQ i ++ [(requestSlot v.toNat, false)]) ∧
    (t.1 < 64 → mayTurn s.dev i = true →
      (atBoundary s.dev (logicalTile i t.1) = true → completes (.selftestTakeover die) s fun n => moved n ∧
        fget none n.dev.safety.testNow i = some t.1 ∧ fget none n.dev.safety.spareFor i = some t.1) ∧
      (atBoundary s.dev (logicalTile i t.1) = false → completes (.selftestTurnPassed die) s fun n => only n ∧
        n.dev.safety.testNow = x.testNow ∧ (t.2 = false → fget 0 n.dev.safety.nextTile i = (t.1 + 1) % 64) ∧
        dget n.dev 0x7010 5 = (dget s.dev 0x7010 5 + 1) % 2 ^ 32)) ∧
    (∀ j, fget none x.testNow i = some j → fget none x.testDone i = none →
      (j < 64 → completes (.selftestEnd die true) s fun n => only n ∧ fget none n.dev.safety.testDone i = some true ∧
        dget n.dev 0x7010 1 = (dget s.dev 0x7010 1 + 1) % 2 ^ 32) ∧
      (completes (.selftestEnd die false) s fun n => fget none n.dev.safety.retired i = some (physOfSlot i j) ∧
        fget none n.dev.safety.testNow i = none ∧ fget none n.dev.safety.spareFor i = fget none x.spareFor i ∧
        n.dev.log.inbox = s.dev.log.inbox ++ [⟨0x0023, 2, source 1 i (physOfSlot i j) 0, padTo 32 []⟩] ∧
        dget n.dev 0x7010 2 = (dget s.dev 0x7010 2 + 1) % 2 ^ 32)) ∧
    (∀ j, fget none x.testNow i = some j → fget none x.testDone i = some true → atBoundary s.dev (logicalTile i j) = true →
      completes (.selftestMoveBack die) s fun n => moved n ∧ fget none n.dev.safety.testNow i = none ∧
        fget none n.dev.safety.testDone i = none ∧ fget none n.dev.safety.spareFor i = none) ∧
    (∀ j, curvTurn s.dev i = some j → j < 4 → curvTesting s.dev i = none →
      let k := getCurv s.dev (curvOf i j)
      atBoundary s.dev (tileOfNat (128 + curvOf i j)) = true → k.grind = none →
      k.script = none ∨ jobHeld s.dev (curvOf i j) = true → k.sweep = [] →
      completes (.curvatureSelftestStart die) s fun n => getCurv n.dev (curvOf i j) = { k with testing := true } ∧
        n.dev.mem = s.dev.mem ∧ n.dev.tiles = s.dev.tiles ∧
        (curvRequested s.dev i = none → fget 0 n.dev.safety.sinceCurv i = fget 0 x.sinceCurv i - 16)) ∧
    (∀ j pass, curvTesting s.dev i = some j → completes (.curvatureSelftestEnd die pass) s fun n =>
      getCurv n.dev (curvOf i j) = { getCurv s.dev (curvOf i j) with testing := false } ∧
      dget n.dev 0x7010 1 = (dget s.dev 0x7010 1 + 1) % 2 ^ 32 ∧
      (pass = false → dget n.dev 0x7010 2 = (dget s.dev 0x7010 2 + 1) % 2 ^ 32))

/-! ### The host attachment (chapter 14) -/

/-- Messages and the link (R320, R322-R327, R329, R337): the message in order takes its credit and frees what it acknowledges, and
one whose type or LEN is not allowed is counted beside; every broken one brings a NAK, as soon as it has a credit, and so does the first
that leaves a gap, and later ones are counted; a NAK resends what is not acknowledged as it was, HELLO brings the link up, with SEQ from 0
in both directions behind it, unless the host die asked for a feature
that is not used, and a message resent eight times leads to a retrain. That a message whose type or LEN is not allowed takes its SEQ and
credits, that a broken one counts 2, that a NAK waits for a credit, that HELLO has no place of its own in the sequence that it begins and that
a refused feature takes the host tier offline are the model's own choices (log entry 72, DESIGN CHOICE). -/
def Obligations.HostLink : Prop :=
  ∀ (s : State) (m : HostMsg), alive s.dev = true →
    let h := s.dev.host
    let first := h.up = true ∧ msgWhole m = true ∧ m.seq.toNat = h.rxSeq
    let open_ := h.replay.filter fun e => decide (2 ^ 31 ≤ (m.ackSeq.toNat + 2 ^ 32 - e.1) % 2 ^ 32)
    let units := 1 + m.data.length / 64
    let quiet := h.waiting = [] ∧ h.owed + units < 256
    let took := fun (n : State) => n.dev.host = { h with rxSeq := (h.rxSeq + 1) % 2 ^ 32, discarding := false, owed := h.owed + units,
                                                         credit := h.credit + m.credit.toNat, replay := open_ }
    let discards := fun (k : Nat) (n : State) => dget n.dev 0x2100 4 = (dget s.dev 0x2100 4 + k) % 2 ^ 32
    (first → quiet → msgTaken 1 m = true → completes (.nop m) s fun n => took n ∧
      n = { s with dev := { s.dev with host := n.dev.host, count := n.dev.count } }) ∧
    (first → quiet → msgTaken 1 m = false → completes (.nop m) s fun n => took n ∧ discards 1 n) ∧
    (∀ c ∈ [Instr.nop m, .nak m], h.up = true →
      let other := msgWhole m = true ∧ m.seq.toNat ≠ h.rxSeq
      let again := (h.rxSeq + 2 ^ 32 - 1 - m.seq.toNat) % 2 ^ 32 < 2 ^ 31
      (msgWhole m = false ∨ (other ∧ ¬ again ∧ h.discarding = false) → h.waiting = [] → completes c s fun n =>
        n.dev.host.discarding = true ∧ n.dev.host.rxSeq = h.rxSeq ∧ discards 2 n ∧
        (hostRoom h .nak = true → n.dev.host.sent = h.sent ++ [(h.txSeq, (h.rxSeq + 2 ^ 32 - 1) % 2 ^ 32, h.owed, .nak)]) ∧
        (hostRoom h .nak = false → n.dev.host.sent = h.sent ∧ n.dev.host.waiting = [.nak])) ∧
      (other → again ∨ h.discarding = true → completes c s fun n => n.dev.host = h ∧ discards 1 n)) ∧
    (first → quiet → msgTaken 2 m = true → completes (.nak m) s fun n => discards 1 n ∧
      n.dev.host.sent = h.sent ++ open_.map (fun e =>
        (e.1, ((h.rxSeq + 1) % 2 ^ 32 + 2 ^ 32 - 1) % 2 ^ 32, e.2.2.1, e.2.2.2)) ∧
      n.dev.host.replay = open_.map fun e => (e.1, e.2.1 + 1, e.2.2)) ∧
    (∀ mods : BitVec 4, h.up = false → h.linkPhase = 1 ∨ h.linkPhase = 3 →
      (msgWhole m = true → msgTaken 0x40 m = true → m.seq = 0 → 2 ≤ modulesIn mods.toNat →
        completes (.hello m ⟨mods, []⟩) s fun n => n.dev.host.up = true ∧ n.dev.host.rxSeq = 0 ∧ n.dev.host.linkPhase = 0 ∧
          dget n.dev 0x2100 2 = mods.toNat ∧ dget n.dev 0x2100 3 = m.arg.toNat % 65536 ∧
          ∃ l, n.dev.host.sent = h.sent ++ (0, 2 ^ 32 - 1, 0, .hello Config.serial.toNat 1) :: l ∧ ∀ e, l.head? = some e → e.1 = 0) ∧
      (∀ asks, asks ≠ [] → completes (.hello m ⟨mods, asks⟩) s fun n => n.dev.host.up = false ∧ n.dev.host.linkPhase = 0 ∧
        dget n.dev 0x2100 2 = 0 ∧ n.dev.mem.offlineNoted = true ∧ n.dev.host.sent = h.sent)) ∧
    (∀ mods : BitVec 4, h.linkPhase = 1 → completes (.linkupPhaseTimeout mods) s fun n =>
      n.dev.host = { h with failedSeqs := h.failedSeqs + 1, linkPhase := if h.failedSeqs + 1 < 3 then 1 else 0 } ∧
      (3 ≤ h.failedSeqs + 1 → n.dev.mem.offlineNoted = true)) ∧
    (h.up = true → (∃ e ∈ h.replay, 8 ≤ e.2.1) → completes .phyretrain s fun n =>
      n.dev.host = { h with up := false, linkPhase := 2, discarding := false } ∧
      dget n.dev 0x2100 5 = (dget s.dev 0x2100 5 + 1) % 2 ^ 32) ∧
    (∀ (ok : Bool) (mods : BitVec 4), h.linkPhase = 2 → completes (.phyretrainComplete ok mods) s fun n =>
      n.dev.host = { h with linkPhase := if ok = true ∧ 2 ≤ modulesIn mods.toNat then 3 else 0 } ∧ n.dev.mem = s.dev.mem)

/-- Host reads, queues, doorbells and interrupts (R326, R329-R335, R417): data that arrives stands in its allocation, a doorbell
moves the queue's pointers or sets ERROR, a thread doorbell starts, wakes or stops its thread and is reported in its queue, and an
interval's end sends the INTERRUPT held back: it goes behind the messages that wait, at once where none waits and the link, the credits and
the replay buffer let it (R334, R337). That an interrupt held back begins a new interval and that doorbells for a device that is not READY,
a FENCED one too, are discarded beside the rule's words are the model's own choices (log entry 73, DESIGN CHOICE). -/
def Obligations.HostQueues : Prop :=
  (∀ (s : State) (m : HostMsg) (r : HRead) (id off owner : Nat) (a : Alloc), alive s.dev = true → msgTaken 0x11 m = true →
    s.dev.host.up = true → msgWhole m = true → m.seq.toNat = s.dev.host.rxSeq → fget none s.dev.host.reads m.tag.toNat = some r →
    r.what = .tier id off owner → owner ≠ 0 → getAlloc s.dev id = some a → tierOf a ≠ 0 →
    let o := m.arg.toNat % 65536
    o % 64 = 0 → o + m.data.length ≤ r.bytes → off + o + m.data.length ≤ a.size →
    bitf m.arg.toNat 16 2 = 0 → completes (.hreadData m) s fun n => holds n.dev id (off + o) m.data) ∧
  (∀ (s : State) (m : HostMsg), alive s.dev = true → s.dev.host.up = true → msgWhole m = true → m.seq.toNat = s.dev.host.rxSeq →
    let arg := m.arg.toNat
    let qd := bitf arg 0 6
    let tail := bitf m.arg2.toNat 0 32
    let head := bitf m.arg2.toNat 32 32
    let bad := ringS s.dev qd < ctrDist tail (getHQ s.dev qd).fetch ∨ 2 ^ 31 ≤ ctrDist (getHQ s.dev qd).write head
    (msgTaken 0x20 m = true → queueOn s.dev qd = true → (getHQ s.dev qd).error = false →
      (¬ bad → completes (.qdoorbell m) s fun n => (getHQ n.dev qd).sqTail = tail ∧ (getHQ n.dev qd).cqHead = head ∧
        (getHQ n.dev qd).error = false) ∧
      (bad → completes (.qdoorbell m) s fun n => getHQ n.dev qd = { getHQ s.dev qd with error := true } ∧
        n.dev.log.inbox = s.dev.log.inbox ++ [⟨0x0062, 2, srcUcie, padTo 32 (natLe 1 qd)⟩])) ∧
    (∀ (t : TileId) (th : Thr), msgTaken 0x21 m = true → s.dev.power.devState = 1 → arg % 128 ≠ 0x7F → tileOfCode ⟨0, by omega⟩ (arg % 128) (bitAt arg 7) = some t →
      th.val = bitf arg 8 6 → s.dev.host.doorbells = [] → queueOn s.dev (bitf arg 16 6) = true → 0 < cqFree s.dev (bitf arg 16 6) →
      let k := getThread s.dev t th
      let told := fun (n : State) => (getHQ n.dev (bitf arg 16 6)).write = ((getHQ s.dev (bitf arg 16 6)).write + 1) % 2 ^ 32 ∧
        n.dev.host.doorbells = []
      (bitf arg 14 2 = 0 → k.st = .idle ∨ k.st = .faulted → completes (.tdoorbellStart m) s fun n => told n ∧
        getThread n.dev t th = { k with
          pc := BitVec.ofNat 64 (bitf m.addr.toNat 0 23), st := .ready, busy := false, wait := .none, held := false } ∧
        (getTile n.dev t).icache = []) ∧
      (∀ d sm, bitf arg 14 2 = 1 → k.wait = .swait d sm → (∀ x ∈ (getSem s.dev t sm).waiters, x = .thread th (waiterN x)) →
        completes (.tdoorbellWake m) s fun n => told n ∧ getReg (getThread n.dev t th) d = 1 ∧
          (getThread n.dev t th).wait = .none ∧ (getSem n.dev t sm).count = (getSem s.dev t sm).count) ∧
      (bitf arg 14 2 = 2 → k.wait = .none → completes (.tdoorbellStop m) s fun n => told n ∧
        getThread n.dev t th = { k with st := .idle, busy := false })) ∧
    (s.dev.power.devState ≠ 1 → ∀ c ∈ [Instr.tdoorbellStart m, .tdoorbellWake m, .tdoorbellStop m],
      completes c s fun n => n.dev.tiles = s.dev.tiles ∧ n.dev.host.doorbells = s.dev.host.doorbells)) ∧
  (∀ (s : State) (q : HQueue), alive s.dev = true →
    (s.dev.power.devState = 1 → queueOn s.dev q.val = false → s.dev.host.doorbells = [] → completes (.qEnable q true) s fun n =>
      getHQ n.dev q.val = {} ∧ queueOn n.dev q.val = true) ∧
    (s.dev.power.devState ≠ 1 → completes (.qEnable q true) s (· = s)) ∧
    (completes (.qEnable q false) s fun n => queueOn n.dev q.val = false ∧ n.dev.mem = s.dev.mem)) ∧
  (∀ (s : State) (v : W16), fget false s.dev.host.irqOpen v.toNat = true →
    completes (.interruptIntervalExpiry v) s fun n => fget false n.dev.host.irqDue v.toNat = false ∧
      (fget false s.dev.host.irqDue v.toNat = false → fget false n.dev.host.irqOpen v.toNat = false ∧
        n.dev.host.sent = s.dev.host.sent ∧ n.dev.host.waiting = s.dev.host.waiting) ∧
      (fget false s.dev.host.irqDue v.toNat = true → v ≠ 0xFFFF →
        let h := s.dev.host
        let message : HostOut := .interrupt v.toNat
        let types := fun (l : List (Nat × Nat × Nat × HostOut)) => l.map fun e => e.2.2.2
        types n.dev.host.sent ++ n.dev.host.waiting = types h.sent ++ h.waiting ++ [message] ∧
        (h.waiting = [] → hostRoom h message = true → n.dev.host.waiting = [] ∧
          n.dev.host.sent = h.sent ++ [(h.txSeq, (h.rxSeq + 2 ^ 32 - 1) % 2 ^ 32, h.owed, message)]) ∧
        (h.waiting = [] → hostRoom h message = false → n.dev.host.waiting = [message] ∧ n.dev.host.sent = h.sent) ∧
        (∀ m l, h.waiting = m :: l → hostRoom h m = false → n.dev.host.waiting = h.waiting ++ [message] ∧ n.dev.host.sent = h.sent) ∧
        (fget false n.dev.host.irqOpen v.toNat = true ↔ dget s.dev 0x2100 7 ≠ 0)))

/-! ### Counters, the Event Recorder and throttling (chapters 17, 18) -/

/-- Counter images and selections (R364, R382-R387): a request freezes the counters, one while an image is in progress or in recovery is
refused, a periodic one is counted; a complete image has the next number, and goes to the window and to its destination; a selection zeroes
its counter of every tile, or waits for the image in progress. How far the counters of cycles and of ns have counted since they were last
looked at is a free number, for which the model's own `tally` stands (log entry 27, DESIGN CHOICE). -/
def Obligations.CounterResults : Prop :=
  ∀ (s : State), powered s.dev = true →
    let c := s.dev.count
    let now := (tally s.dev).count
    let started := fun (mode trig : Nat) (n : State) => n = { s with dev := { s.dev with count := { now with
      busy := some (mode, trig)
      startOps := opSeconds s.dev
      startSel := dget s.dev 0x4012 1
      shot := now.ctrs
      heldAt := heldBlocks s.dev
      mapAt := mapBytes s.dev } } }
    (c.busy = none → (s.dev.sec.recovery = false →
        completes .imageRequestSnapshot s (started 0 1) ∧ completes .imageRequestDump s (started 1 1)) ∧
      (s.dev.sec.recovery = true → completes .imageRequestSnapshot s (· = s) ∧ completes .imageRequestDump s (· = s)) ∧
      (dget s.dev 0x4002 1 ≠ 0 → completes .imagePeriodTick s (started (dget s.dev 0x4002 2) 0))) ∧
    (∀ b, c.busy = some b → completes .imageRequestSnapshot s (· = s) ∧ completes .imageRequestDump s (· = s) ∧
      (dget s.dev 0x4002 1 ≠ 0 → completes .imagePeriodTick s fun n =>
        n.dev.count.busy = some b ∧ dget n.dev 0x4000 3 = (dget s.dev 0x4000 3 + 1) % 2 ^ 32)) ∧
    (∀ mode trig, c.busy = some (mode, trig) → c.selPending = [] → dget s.dev 0x4003 1 = 0 → dget s.dev 0x4004 1 ≠ 1 →
      completes .imageComplete s fun n => n.dev.count.busy = none ∧ n.dev.count.seq = c.seq + 1 ∧
        n.dev.count.windowSeq = c.seq + 1 ∧ n.dev.count.lost = c.lost ∧ n.dev.mem = s.dev.mem ∧
        recf n.dev.count.window 0 4 = 0x434E5452 ∧ recf n.dev.count.window 5 1 = mode % 256 ∧
        recf n.dev.count.window 8 8 = (c.seq + 1) % 2 ^ 64) ∧
    (∀ mode trig a, c.busy = some (mode, trig) → c.selPending = [] → dget s.dev 0x4003 1 ≠ 0 → dget s.dev 0x4004 1 ≠ 1 →
      getAlloc s.dev (dget s.dev 0x4003 1) = some a → tierOf a = 1 → s.dev.mem.tierPoison = [] → a.poisonFull = false → a.freeing = false →
      a.busy = false → a.invalid = false →
      let off := 12288 * ((c.seq + 1) % dget s.dev 0x4003 2)
      off + 12032 ≤ a.size → a.size ≤ 2 ^ 64 → completes .imageComplete s fun n => n.dev.count.busy = none ∧ n.dev.count.lost = c.lost ∧
        holds n.dev (dget s.dev 0x4003 1) off n.dev.count.window) ∧
    (∀ (curv : Bool) (i : Fin 8) (code : Byte), selOk curv code.toNat = true →
      (c.busy = none → completes (.tileEventSelect curv i code) s fun n =>
        n = { s with dev := { s.dev with count := n.dev.count, dict := n.dev.dict } } ∧
        dget n.dev (if curv then 0x4011 else 0x4010) (i.val + 1) = code.toNat ∧
        dget n.dev 0x4012 1 = (dget s.dev 0x4012 1 + 1) % 2 ^ 32 ∧
        ∀ blk j, j < 16 → fget {} n.dev.count.ctrs (blk * 16 + j) =
          if (if curv then 132 ≤ blk ∧ blk < 140 else blk < 132) ∧ j = i.val then {} else fget {} now.ctrs (blk * 16 + j)) ∧
      (∀ b, c.busy = some b → completes (.tileEventSelect curv i code) s fun n =>
        n = { s with dev := { s.dev with count := { c with selPending := c.selPending ++ [(curv, i.val, code.toNat)] } } }))

/-- The Event Recorder (R388-R394): an event is numbered in order or, within an open window, folded; the head of the queue is
programmed under its number; a window that closes leaves one REPEAT record; clearing moves the floor and records itself. -/
def Obligations.RecorderResults : Prop :=
  ∀ (s : State), powered s.dev = true →
    let l := s.dev.log
    let same := fun (e : Event) (w : Fold) => w.code == e.code && w.source == e.source
    (∀ i e, l.recording = true → l.droppedSince = 0 → l.inbox[i]? = some e →
      (l.queue.length < 60 → (l.folds.any (same e)) = false → completes (.eventRecord i) s fun n =>
        n.dev.log.queue = l.queue ++ [(l.total, recordBytes l.total (opSeconds s.dev) l.cycles l.seq e.code e.sev 0 e.source 0 e.detail)] ∧
        n.dev.log.total = l.total + 1 ∧ n.dev.log.seq = l.seq + 1 ∧ n.dev.log.inbox = l.inbox.eraseIdx i ∧
        n.dev.log.newestFatal = if e.sev = 3 then l.total else l.newestFatal) ∧
      (e.sev ≤ 2 → neverFolds e.code = false → (l.folds.any (same e)) = true → completes (.eventRecord i) s fun n =>
        n.dev.log.queue = l.queue ∧ n.dev.log.total = l.total ∧ dget n.dev 0x5000 5 = (dget s.dev 0x5000 5 + 1) % 2 ^ 32) ∧
      (60 ≤ l.queue.length → e.sev < 3 → (l.folds.any (same e)) = false → completes (.eventRecord i) s fun n =>
        n.dev.log.queue = l.queue ∧ n.dev.log.droppedSince = 1 ∧ dget n.dev 0x5000 4 = (dget s.dev 0x5000 4 + 1) % 2 ^ 32)) ∧
    (∀ i r q, l.queue = (i, r) :: q → l.droppedSince = 0 → s.dev.mgmt.commit = none → completes .recordProgram s fun n =>
      n.dev.log.queue = q ∧ fget [] n.dev.log.nor i = r ∧ ∀ j, j ≠ i → fget [] n.dev.log.nor j = fget [] l.nor j) ∧
    (∀ i w, l.folds[i]? = some w → (w.count = 0 → completes (.foldWindowClose i) s fun n =>
        n = { s with dev := { s.dev with log := { l with folds := l.folds.eraseIdx i } } }) ∧
      (w.count ≠ 0 → l.queue.length < 60 → completes (.foldWindowClose i) s fun n => n.dev.log.folds = l.folds.eraseIdx i ∧
        n.dev.log.queue = l.queue ++ [(l.total, recordBytes l.total (opSeconds s.dev) l.cycles l.seq w.code w.sev 1 w.source w.count
          w.detail)])) ∧
    (completes .opSecondsJournal s fun n => n = { s with dev := { s.dev with log := { l with journal := opSeconds s.dev } } }) ∧
    (∀ ses v : W32, s.dev.sec.recovery = false → (∀ y, findSession s.dev ses.toNat = some y → y.claim = false) →
      completes (.logCursor ses v) s fun n =>
      n = { s with dev := { s.dev with mgmt := { s.dev.mgmt with sessions := n.dev.mgmt.sessions } } } ∧
      ∀ x ∈ n.dev.mgmt.sessions, x.id = ses.toNat → x.cursor = v.toNat) ∧
    (∀ (ses : W32) (x : Session), s.dev.sec.recovery = false → findSession s.dev ses.toNat = some x → 2 ≤ x.role → x.claim = false → l.queue.length < 60 →
      completes (.logClear ses) s fun n => n.dev.log.floor = (l.queue.head?.map (·.1)).getD l.total ∧
        n.dev.log.total = l.total + 1 ∧ n.dev.log.nor = l.nor)

/-- Clocks, temperature and power (R401-R407): droop stretches a quad's clock and no more; a pair newly beyond a limit, a quad at
100 °C or a package beyond its limit lowers targets by a step; at 110 °C the device fail-stops; the timers lower
further or raise by one step. The step timers of one 100 µs tick all lower from where the quads stood when it began, which the first of them
notes. One count of steps that every cause shares, cause bits that clear when it reaches zero and the first supply
step at once are the model's own choices (log entry 79, DESIGN CHOICE). -/
def Obligations.ThrottleResults : Prop :=
  ∀ (s : State) (q : Quad), powered s.dev = true →
    let k := getQuad s.dev q.val
    let quad := fun (n : State) => getQuad n.dev q.val
    let down := min 10 (quadStep s.dev q.val + 1)
    (∀ mv,
      (mv + 15 < railTarget s.dev q.val → completes (.droopDetect q mv) s fun n => quad n = { k with stretch := true, mv := mv } ∧
        n = { s with dev := { s.dev with power := n.dev.power, count := n.dev.count } }) ∧
      (railTarget s.dev q.val ≤ mv + 15 → completes (.droopDetect q mv) s fun n => quad n = { k with mv := mv } ∧
        n = { s with dev := { s.dev with power := n.dev.power } })) ∧
    (completes (.droopEnd q) s fun n => quad n = { k with stretch := false } ∧
      n = { s with dev := { s.dev with power := n.dev.power } }) ∧
    (∀ (r : Quad) (m : QuadReadings), adjacent q.val r.val = true →
      (overLimit m = true → pairState_ s.dev q.val r.val ≠ 1 → completes (.neighbourLimitCheck q r m) s fun n =>
        (quad n).own = down ∧ (quad n).neigh = true ∧ (getQuad n.dev r.val).own = min 10 (quadStep s.dev r.val + 1) ∧
        (getQuad n.dev r.val).neigh = true ∧ n.dev.log.inbox.length = s.dev.log.inbox.length + 2) ∧
      (overLimit m = true → pairState_ s.dev q.val r.val = 1 → completes (.neighbourLimitCheck q r m) s fun n =>
        (quad n).own = k.own ∧ n.dev.log = s.dev.log) ∧
      (overLimit m = false → withinRelease m = true → completes (.neighbourLimitCheck q r m) s fun n =>
        (quad n).own = k.own ∧ pairState_ n.dev q.val r.val = 0 ∧ n.dev.log = s.dev.log)) ∧
    (∀ t : Int, (t < 100000 → completes (.thermalSample q t) s fun n => quad n = { k with milliC := t } ∧ n.dev.log = s.dev.log) ∧
      (100000 ≤ t → t < 105000 → k.milliC < 100000 → completes (.thermalSample q t) s fun n =>
        (quad n).own = down ∧ (quad n).temp = true ∧ (quad n).milliC = t ∧
        n.dev.log.inbox.length = s.dev.log.inbox.length + 1) ∧
      (105000 ≤ t → t < 110000 → completes (.thermalSample q t) s fun n => (quad n).own = 10 ∧ (quad n).temp = true) ∧
      (110000 ≤ t → s.dev.power.devState ≠ 2 → completes (.thermalSample q t) s fun n =>
        n.dev.power.devState = 2 ∧ n.dev.safety.fatalCode = 6)) ∧
    (∀ mw,
      let window := (mw :: s.dev.power.samples).take 100
      let limit := f32Scaled (dget s.dev 0xB007 2) * 1000 * window.length
      let v := sumNat window * 2 ^ 149
      let averaged := fun (n : State) => n.dev.power.samples = window ∧ n.dev.power.packageMw = sumNat window / window.length
      (limit < v → s.dev.power.supply = 0 → completes (.powerSample mw) s fun n => (quad n).own = down ∧ (quad n).supply = true ∧
        n.dev.power.supply = 1 ∧ averaged n) ∧
      (100 * v < 97 * limit → completes (.powerSample mw) s fun n => quad n = k ∧ n.dev.power.supply = 0 ∧ averaged n) ∧
      (97 * limit ≤ 100 * v → v < limit → completes (.powerSample mw) s fun n => quad n = k ∧ n.dev.power.supply ≠ 0 ∧ averaged n)) ∧
    (let still := s.dev.power.supply = 1 ∨ 100000 ≤ k.milliC ∨ anyPair s.dev q.val (· == 1) = true;
      (still → completes (.throttleStepTimer q) s fun n => (quad n).own = max k.own (min 10 (stepBase s.dev q.val + 1)) ∧
        (tickOpen s.dev q.val = false → k.own ≤ 10 → (quad n).own = down ∧ ∀ r : Quad, r ≠ q → stepBase n.dev r.val = quadStep s.dev r.val)) ∧
      (¬ still → completes (.throttleStepTimer q) s (· = s))) ∧
    (k.own ≠ 0 → anyPair s.dev q.val (· != 0) = false → k.milliC < 97000 → s.dev.power.supply = 0 →
      completes (.throttleReleaseTimer q) s fun n => (quad n).own = k.own - 1 ∧ n.dev.log = s.dev.log ∧
        (k.own = 1 → (quad n).temp = false ∧ (quad n).neigh = false ∧ (quad n).supply = false))

/-! ### Resets, start-up and test access (chapters 18, 19) -/

/-- Resets (R364, R389, R411-R415, R417, R419, R428): every reset leaves start-up at its step with its cause, all threads, ports,
queues and collectives as they are after reset, every quad at nominal and no step counted; a power cycle counts itself and resumes
the operating seconds when its step 2 begins; DEVICE_RESET arms the reset that follows its response; the EXTEST family is BYPASS while
RESET_N is high. A TRST_N that is low holds IDCODE, and a scan with IDCODE loaded brings 0x1B009553 to TDO, bit 0 first; that the TAP
behaves as IEEE 1149.1 has it is presumed (log entry 144, the model's own choice). -/
def Obligations.ResetResults : Prop :=
  ∀ (s : State),
    let p := s.dev.power
    let after := fun (cause step : Nat) (n : State) => n.dev.power.resetCause = cause ∧ n.dev.power.step = step ∧
      n.dev.power.devState = 0 ∧ faultN n.dev = true ∧ n.dev.tiles = [] ∧ n.dev.curv = [] ∧ n.dev.fab = {} ∧ n.dev.host = {} ∧ n.dev.sigs = [] ∧
      n.dev.mem.scratch = [] ∧ n.dev.power.quads = [] ∧ n.dev.power.supply = 0 ∧ n.dev.dict = [] ∧
      n.dev.sec.roleKeys = s.dev.sec.roleKeys ∧ n.dev.log.total = s.dev.log.total ∧ n.dev.log.queue = []
    let cycled := fun (n : State) => n.dev.log.cycles = min (s.dev.log.cycles + 1) (2 ^ 24 - 1) ∧ n.dev.log.seq = 0 ∧
      n.dev.log.opBase = max s.dev.log.journal (newestOps s.dev)
    (p.pwrGood = true → completes .pwrGoodFall s fun n => after 0 1 n ∧ n.dev.power.pwrGood = false) ∧
    (p.pwrGood = false → completes .pwrGoodRise s fun n => n.dev.power.pwrGood = true ∧ n.dev.power.resetCause = 0 ∧
      n.dev.power.step = (if p.resetN then 2 else 1) ∧ n = { s with dev := { s.dev with power := n.dev.power, log := n.dev.log } } ∧
      (p.resetN = true → cycled n) ∧ (p.resetN = false → n.dev.log = s.dev.log)) ∧
    (p.pwrGood = true → p.resetN = true → completes .resetNAssert s fun n => after 1 1 n ∧ n.dev.power.resetN = false) ∧
    (p.pwrGood = true → p.resetN = false → completes .resetNRelease s fun n =>
      n = { s with dev := { s.dev with power := n.dev.power, log := n.dev.log } } ∧ n.dev.power.resetN = true ∧ n.dev.power.step = 2 ∧
      (p.resetCause ≠ 0 → n.dev.log = s.dev.log) ∧ (p.resetCause = 0 → cycled n) ∧
      (p.tapIr ∈ [0, 3, 4] → n.dev.power.tapIr = 0xFF)) ∧
    (powered s.dev = true →
      (s.dev.sec.recovery = false → completes .deviceReset s fun n =>
        n = { s with dev := { s.dev with mgmt := { s.dev.mgmt with resetArmed := true } } }) ∧
      (s.dev.mgmt.resetArmed = true → s.dev.mgmt.commit = none → completes .dictionaryReset s (after 2 2)) ∧
      (s.dev.mgmt.resetArmed = false → completes .dictionaryReset s (· = s)) ∧
      (p.devState = 0 → s.dev.sec.recovery = false → s.dev.sec.lifecycle ≠ 4 → completes .startupTimeout s (after 4 2)) ∧
      (p.devState = 1 → completes .startupTimeout s (· = s))) ∧
    (∀ code : Byte, p.trstN = true → completes (.tapInstruction (.load code)) s fun n => n = { s with dev := { s.dev with power := { p with
      tapIr := if code = 1 ∨ code = 2 ∨ ((code = 0 ∨ code = 3 ∨ code = 4) ∧ p.resetN = false) then code.toNat else 0xFF } } }) ∧
    (completes (.tapInstruction (.trst false)) s fun n =>
      n = { s with dev := { s.dev with power := { p with trstN := false, tapIr := 1 } } }) ∧
    (p.trstN = false → ∀ code balls tdi, completes (.tapInstruction (.load code)) s (· = s) ∧ completes (.tapInstruction (.scan balls tdi)) s (· = s)) ∧
    (∀ balls tdi : List Bool, p.trstN = true → p.tapIr = 1 → tdi.length = 32 → completes (.tapInstruction (.scan balls tdi)) s fun n =>
      (∀ i, i < 32 → n.dev.power.tapOut.getD i false = bitAt 0x1B009553 i) ∧ n.dev.power.tapDr = tdi ∧
      n = { s with dev := { s.dev with power := { p with tapDr := n.dev.power.tapDr, tapOut := n.dev.power.tapOut } } })

/-- Start-up (Table 18-7, R322, R356, R363, R364, R417): each step that ends well begins the next one, a failed step 2, 5 or 6 fail-stops
the device, step 3 without an image to run leaves it in recovery, step 4 without an image loads the defaults, and at READY a pending image
becomes active. -/
def Obligations.StartupSteps : Prop :=
  ∀ (s : State), powered s.dev = true → s.dev.power.devState = 0 → s.dev.sec.recovery = false →
    let step := s.dev.power.step
    let at_ := fun (k : Nat) (n : State) => n.dev.power.step = k ∧ n.dev.power.devState = 0
    (∀ k code, (k, code) ∈ [(2, 5), (5, 4), (6, 4)] → step = k →
      (k ≠ 6 → completes (.startupStepComplete true) s (at_ (k + 1))) ∧
      (k = 6 → completes (.startupStepComplete true) s fun n => at_ 7 n ∧ n.dev.host.linkPhase = 1) ∧
      (completes (.startupStepComplete false) s fun n => n.dev.power.devState = 2 ∧ n.dev.safety.fatalCode = code)) ∧
    (step = 3 → s.dev.sec.flashTag = s.dev.sec.transitions →
      (∀ x, bootSlot s.dev = some x → completes (.startupStepComplete true) s fun n => at_ 4 n ∧ n.dev.sec.running = x) ∧
      (bootSlot s.dev = none → completes (.startupStepComplete true) s fun n => n.dev.sec.recovery = true ∧
        n.dev.mgmt.serving = true) ∧
      (completes (.startupStepComplete false) s fun n => n.dev.sec.recovery = true)) ∧
    (step = 4 → s.dev.mgmt.serving = false → s.dev.sec.lifecycle ≠ 4 →
      (completes (.startupStepComplete true) s fun n => at_ 5 n ∧ n.dev.log.recording = true ∧ n.dev.mgmt.serving = true) ∧
      (completes (.startupStepComplete false) s fun n => at_ 5 n ∧ dget n.dev 0x1002 4 = 1 ∧
        n.dev.mgmt.nor0 = { gen := 1, vals := [], good := true })) ∧
    (∀ ok, step = 7 → (s.dev.host.up = true → completes (.startupStepComplete ok) s (at_ 8)) ∧
      (s.dev.host.up = false → completes (.startupStepComplete ok) s fun n => at_ 8 n ∧ n.dev.mem.offlineNoted = true)) ∧
    (∀ ok, step = 8 → completes (.startupStepComplete ok) s fun n =>
      n = { s with dev := { s.dev with power := { s.dev.power with step := 9 } } }) ∧
    (∀ ok, step = 9 → completes (.startupStepComplete ok) s fun n => n.dev.power.devState = 1 ∧ n.dev.power.step = 10 ∧
      (s.dev.sec.pending = some s.dev.sec.running → n.dev.sec.activeSlot = s.dev.sec.running ∧ n.dev.sec.pending = none))

/-! ### Management (chapters 14, 15) -/

/-- What reaches the management controller (R336, R340-R343, R346, R348): a frame that R342 accepts joins the queue and any other is
counted, a mailbox frame is put together from its messages, solicitations and echoes are answered, PLCA follows its beacon, eight
failures lock a role out, and an idle session ends. -/
def Obligations.ManagementArrivals : Prop :=
  ∀ (s : State), powered s.dev = true →
    let m := s.dev.mgmt
    let lost := fun (n : State) => n.dev.mgmt.frames = m.frames ∧ dget n.dev 0x2200 4 = (dget s.dev 0x2200 4 + 1) % 2 ^ 32
    (portServes s.dev = true →
      (∀ g : Datagram, ownIp s.dev g.dst.toNat = true → g.checksumOk = true → g.fragmented = false → g.dstPort = 4810 →
        let ok := frameOk (.udp g.src g.srcPort g.dst) g.payload = true ∧ m.frames.length < 16
        (ok → completes (.wdpDatagram g) s fun n => n = { s with dev := { s.dev with mgmt := { m with
          frames := m.frames ++ [(.udp g.src g.srcPort g.dst, g.payload)] } } }) ∧
        (¬ ok → completes (.wdpDatagram g) s lost)) ∧
      (∀ src target : BitVec 128, ownIp s.dev target.toNat = true → completes (.neighbourSolicitation src target) s fun n =>
        n = { s with dev := { s.dev with mgmt := { m with out := m.out ++ [.advert src target] } } }) ∧
      (∀ src dst b, ownIp s.dev dst.toNat = true → completes (.echoRequest src dst b) s fun n =>
        n = { s with dev := { s.dev with mgmt := { m with out := m.out ++ [.echoReply src dst b] } } }) ∧
      (completes .plcaBeacon s fun n => n.dev.mgmt.t1s = 1 ∧ n.dev.mgmt.nodeCount = dget s.dev 0x3100 2 ∧
        n.dev.mgmt.nodeActive = if dget s.dev 0x3100 1 = 0xFF then 1 + Config.boardPos.val else dget s.dev 0x3100 1) ∧
      (completes .plcaBeaconLoss s fun n => n = { s with dev := { s.dev with mgmt := { m with t1s := 2 } } })) ∧
    (∀ w : W64, mailboxServes s.dev = true →
      (2 ^ 32 ≤ w.toNat ∨ bitf w.toNat 0 16 = 0 ∨ 1280 < bitf w.toNat 0 16 → completes (.mailboxStartMessage w) s fun n => lost n ∧
        n.dev.host.mailLen = 0) ∧
      (w.toNat < 2 ^ 32 → 1 ≤ bitf w.toNat 0 16 → bitf w.toNat 0 16 ≤ 1280 →
        completes (.mailboxStartMessage w) s fun n => n = { s with dev := { s.dev with
        host := { s.dev.host with mailLen := bitf w.toNat 0 16, mailId := bitf w.toNat 16 16, mailGot := [] } } }) ∧
      (let got := s.dev.host.mailGot ++ natLe 8 w.toNat
       let frame := got.take s.dev.host.mailLen
       let path := Path.mailbox s.dev.host.mailId
       (got.length < s.dev.host.mailLen → completes (.mailboxDataMessage w) s fun n =>
          n = { s with dev := { s.dev with host := { s.dev.host with mailGot := got } } }) ∧
       (0 < s.dev.host.mailLen → s.dev.host.mailLen ≤ got.length → frameOk path frame = true → m.frames.length < 16 →
          completes (.mailboxDataMessage w) s fun n => n.dev.mgmt.frames = m.frames ++ [(path, frame)] ∧ n.dev.host.mailLen = 0))) ∧
    (∀ r : Fin 4, fget false m.lockout r.val = false → 8 ≤ (recentFails s.dev r.val).length →
      completes (.roleLockout r) s fun n => fget false n.dev.mgmt.lockout r.val = true ∧
        n.dev.log.inbox = s.dev.log.inbox ++ [⟨0x0068, 1, srcMgmt, padTo 32 (natLe 1 r.val)⟩]) ∧
    (∀ r : Fin 4, fget false m.lockout r.val = true → completes (.roleLockoutEnd r) s fun n =>
      fget false n.dev.mgmt.lockout r.val = false ∧ fget [] n.dev.mgmt.failTimes r.val = []) ∧
    (∀ ses : W32, completes (.sessionIdleTimeout ses) s fun n =>
      n = { s with dev := { s.dev with mgmt := { m with sessions := m.sessions.filter fun x => x.id != ses.toNat } } })

/-- The Wealan Dictionary Protocol (R342-R356): OPEN with the role's key makes a session; a verified request with the next SEQ is carried
out and answered: CLOSE ends its session, READ answers its items, a WRITE of one plain entry gives it its value; a failed OPEN is counted; a
persistent entry written outside a frame wears once; a commit sends the kept response, and one that fails gives the entry back its old value
with an event. -/
def Obligations.DictionaryProtocol : Prop :=
  (∀ (s : State) (p : Path) (b : List Byte) (r : List (Path × List Byte)), powered s.dev = true → s.dev.mgmt.serving = true →
    s.dev.mgmt.resetArmed = false → s.dev.mgmt.commit = none → s.dev.mgmt.frames = (p, b) :: r →
    let m := s.dev.mgmt
    let role := recf (bodyOf b) 0 1
    (opOf b = 1 → recf b 8 4 = 0 → (bodyOf b).length = 20 → role ≤ 3 → locked s.dev role = false →
      (∀ key claim, openKey s.dev p role = some (key, claim) → tagOk key b = true → headReserved b = false → recf b 0x0C 4 = 0 →
        zeros (bodyOf b) 1 3 = true → recf b 0x12 2 = 0 → m.sessions.length < 8 → completes .wdpOpen s fun n =>
          n.dev.mgmt.frames = r ∧ ∃ x, n.dev.mgmt.sessions = m.sessions ++ [x] ∧ x.role = role ∧ x.claim = claim ∧ x.path = p ∧
            x.id ≠ 0 ∧ x.lastSeq = 0 ∧ (∀ y ∈ m.sessions, y.id ≠ x.id)) ∧
      (∀ key claim, openKey s.dev p role = some (key, claim) → tagOk key b = false → completes .wdpOpen s fun n =>
        n.dev.mgmt.frames = r ∧ n.dev.mgmt.sessions = m.sessions ∧ n.dev.mgmt.out = m.out ∧
        fget [] n.dev.mgmt.failTimes role = recentFails s.dev role ++ [nowMs s.dev])) ∧
    (∀ x, findSession s.dev (recf b 8 4) = some x → samePath x.path p = true → tagOk x.key b = true →
      recf b 0x0C 4 = x.lastSeq + 1 → headReserved b = false →
      let resp := fun (st cnt : Nat) (body : List Byte) => respFrame b x.key x.id st cnt ((x.lastSeq + 2) % 2 ^ 32) 0xFFFF body
      (opOf b = 2 → bodyOf b = [] → recf b 0x12 2 = 0 → completes .wdpClose s fun n => n.dev.mgmt.frames = r ∧
        (∀ y ∈ n.dev.mgmt.sessions, y.id ≠ x.id) ∧ n.dev.mgmt.out = m.out ++ [.frame p (resp stOk 0 [])]) ∧
      (opOf b = 0x10 → (bodyOf b).length = 8 * recf b 0x12 2 → completes .wdpRead s fun n => n.dev.mgmt.frames = r ∧
        (∃ resp, n.dev.mgmt.out = m.out ++ [.frame p resp]) ∧
        (∀ (i j : Nat) (e : Entry), recf b 0x12 2 = 1 → recf (bodyOf b) 0 2 = i → recf (bodyOf b) 2 1 = j →
          recf (bodyOf b) 3 1 = 0 → recf (bodyOf b) 4 4 = 0 → servedEntry s.dev i j = some e → e.acc ≠ 3 → e.ty < 8 → e.len ≤ 1024 →
          openEntry s.dev i j = false → liveVal s.dev (some x) i j = none →
          n.dev.mgmt.out = m.out ++ [.frame p (resp stOk 1 (readItemBytes i j stOk e.ty (natLe e.len (dget s.dev i j))))])) ∧
      (∀ (w : WItem) (e : Entry), opOf b = 0x11 → recf b 0x12 2 = 1 → parseItems 1 (bodyOf b) = some [w] →
        servedEntry s.dev w.index w.sub = some e → plainEntry w.index w.sub = true → e.acc = 1 →
        w.index ∉ [0x4001, 0x5002, 0x6021, 0x7001, 0x7011, 0x8001, 0x8010, 0x8020, 0xB001] → e.role ≤ x.role → x.claim = false →
        w.ty = e.ty → w.val.length = e.len → w.off = 0 → w.padOk = true → valueStatus s.dev w.index w.sub e (leNat w.val) = stOk →
        completes .wdpWrite s fun n => n.dev.mgmt.frames = r ∧ dget n.dev w.index w.sub = leNat w.val ∧
          n.dev.mgmt.out = m.out ++ [.frame p (resp stOk 1 (itemBytes w stOk))]))) ∧
  (∀ (s : State), powered s.dev = true →
    (∀ (i : W16) (j : Byte) (v : Nat) (e : Entry), entryAt i.toNat j.toNat = some e → plainEntry i.toNat j.toNat = true →
      v < 2 ^ (8 * e.len) → valueStatus s.dev i.toNat j.toNat e v = stOk →
      (wornOut s.dev i.toNat j.toNat v = false → s.dev.mgmt.serving = true → s.dev.sec.recovery = false → completes (.registerWrite i j v) s fun n =>
        dget n.dev i.toNat j.toNat = v ∧ n.dev.mem = s.dev.mem ∧ n.dev.fab = s.dev.fab ∧ n.dev.tiles = s.dev.tiles ∧
        (e.acc = 2 → v ≠ dget s.dev i.toNat j.toNat → wearOf n.dev i.toNat j.toNat = wearOf s.dev i.toNat j.toNat + 1)) ∧
      (s.dev.mgmt.serving = false → completes (.registerWrite i j v) s (· = s)) ∧
      (wornOut s.dev i.toNat j.toNat v = true → (i, j) ≠ (0x1002, 6) → completes (.registerWrite i j v) s fun n =>
        dget n.dev i.toNat j.toNat = dget s.dev i.toNat j.toNat)) ∧
    (∀ (a : BitVec 128) (plen : Byte), staticOk (addrOf a.toNat) = true → 1 ≤ plen.toNat → plen.toNat ≤ 128 →
      wornOut s.dev 0x3100 3 (addrOf a.toNat) = false → wornOut s.dev 0x3100 4 plen.toNat = false → s.dev.mgmt.serving = true →
      s.dev.sec.recovery = false →
      completes (.staticIpv6Write a plen) s fun n => dget n.dev 0x3100 3 = addrOf a.toNat ∧ dget n.dev 0x3100 4 = plen.toNat) ∧
    (∀ c i j v, s.dev.mgmt.commit = some c → c.nor = true → c.recno = none → c.items = [(i, j, v)] →
      (completes (.norCommitComplete true) s fun n => n.dev.mgmt.commit = none ∧
        n.dev.mgmt.out = s.dev.mgmt.out ++ [.frame c.path c.resp] ∧ dget n.dev i j = dget s.dev i j) ∧
      (completes (.norCommitComplete false) s fun n => n.dev.mgmt.commit = none ∧ dget n.dev i j = v ∧
        n.dev.mgmt.out = s.dev.mgmt.out ++ [.frame c.path c.failResp] ∧
        n.dev.log.inbox = s.dev.log.inbox ++ [⟨0x0007, 2, srcNor, padTo 32 (natLe 2 i ++ natLe 1 j)⟩])))

/-! ### Security (chapter 16) -/

/-- Keys, firmware, attestation and life cycle (R362-R375): a permitted key takes effect and ends the other sessions of its role;
staging programs the slot that is not active and a commit checks it; a report is signed with the next leaf; a life-cycle transition
counts itself, clears what its state clears, records itself and resets. That a value of the wrong length changes nothing (log entry 9), that
offset 0 writes 256 zero bytes over the head of the slot that is not active (log entry 81) and that the transition's record is numbered
before the reset (log entry 84) are the model's own choices (DESIGN CHOICE). -/
def Obligations.SecurityResults : Prop :=
  ∀ (s : State), powered s.dev = true →
    let x := s.dev.sec
    let m := s.dev.mgmt
    (∀ (ses : W32) (r : Fin 4) (v : List Byte) (y : Session), v.length = 32 → findSession s.dev ses.toNat = some y →
      let k := xorBytes v (keyMask y r.val (y.lastSeq + 1))
      (roleKeyStatus s.dev y r.val k = stOk → x.recovery = false → completes (.roleKey ses r v) s fun n => fget [] n.dev.sec.roleKeys r.val = k ∧
        n.dev.mgmt.sessions = m.sessions.filter (fun z => z.role != r.val || z.id == ses.toNat)) ∧
      (roleKeyStatus s.dev y r.val k ≠ stOk → completes (.roleKey ses r v) s (· = s))) ∧
    (∀ (ses : W32) (r : Fin 4) (v : List Byte), (v.length ≠ 32 → completes (.roleKey ses r v) s (· = s) ∧
      completes (.attestNonce v) s (· = s)) ∧ (v.length ≠ 1024 → completes (.fwStageData v) s (· = s))) ∧
    (∀ v : W32, v.toNat % 1024 = 0 → v.toNat < 8 * 2 ^ 20 → x.fwResult ≠ 1 → completes (.fwStageOffset v) s fun n =>
      dget n.dev 0x8030 1 = v.toNat ∧ (v = 0 → slotRead n.dev (stagedSlot s.dev) 0 256 = zbytes 256) ∧
      (v ≠ 0 → n.dev.sec = x)) ∧
    (∀ b : List Byte, b.length = 1024 → x.fwResult ≠ 1 → x.stageBuf.length < 64 → dget s.dev 0x8030 1 < 8 * 2 ^ 20 →
      completes (.fwStageData b) s fun n => n.dev.sec = { x with stageBuf := x.stageBuf ++ [(dget s.dev 0x8030 1, b)] } ∧
        dget n.dev 0x8030 1 = dget s.dev 0x8030 1 + 1024) ∧
    (∀ off b q, x.stageBuf = (off, b) :: q → completes (.fwStageBufferProgrammed 1) s fun n => n.dev.sec.stageBuf = q ∧
      slotRead n.dev (stagedSlot s.dev) off b.length = b ∧ n.dev.sec.activeSlot = x.activeSlot ∧
      ∀ o, slotByte n.dev x.activeSlot o = slotByte s.dev x.activeSlot o) ∧
    (x.fwResult ≠ 1 → completes .fwCommit s fun n => n = { s with dev := { s.dev with sec := { x with fwResult := 1 } } }) ∧
    (x.fwResult = 1 → x.stageBuf = [] →
      (slotCheck s.dev (stagedSlot s.dev) = 0 → completes .fwCheckComplete s fun n => n.dev.sec = { x with
        fwResult := 2, pending := some (1 - x.activeSlot), pendingFails := 0 }) ∧
      (slotCheck s.dev (stagedSlot s.dev) ≠ 0 → completes .fwCheckComplete s fun n => n.dev.sec = { x with
        fwResult := slotCheck s.dev (stagedSlot s.dev) })) ∧
    (∀ b : List Byte, b.length = 32 → x.recovery = false → x.attState ≠ 1 → x.leafUsed < 1048576 → completes (.attestNonce b) s fun n =>
      n = { s with dev := { s.dev with sec := { x with attState := 1, nonce := b, report := [], signature := [] } } }) ∧
    (x.attState = 1 → completes .attestReportReady s fun n => n.dev.sec = { x with
      attState := 2, leafUsed := x.leafUsed + 1, report := attestReport s.dev x.leafUsed
      signature := Config.hssSign x.leafUsed (attestReport s.dev x.leafUsed) }) ∧
    (∀ (ses : W32) (target : Byte) (y : Session), findSession s.dev ses.toNat = some y → y.claim = false →
      (lifecycleStatus s.dev y.role target.toNat = stOk → x.recovery = false → completes (.lifecycleRequest ses target) s fun n =>
        n = { s with dev := { s.dev with sec := { x with lifeReq := some target.toNat } } }) ∧
      (lifecycleStatus s.dev y.role target.toNat ≠ stOk → completes (.lifecycleRequest ses target) s (· = s))) ∧
    (∀ t, x.lifeReq = some t → m.commit = none → completes .lifecycleTransition s fun n => n.dev.sec.lifecycle = t ∧
      n.dev.sec.transitions = x.transitions + 1 ∧ n.dev.sec.flashTag = x.transitions + 1 ∧ n.dev.power.resetCause = 3 ∧
      n.dev.power.step = 2 ∧ (∀ i, i ∈ clearedKeys t → fget [] n.dev.sec.roleKeys i = []) ∧
      (∀ i, i ∉ clearedKeys t → fget [] n.dev.sec.roleKeys i = fget [] x.roleKeys i) ∧ n.dev.log.total = s.dev.log.total + 1)

/-! ### Rules stated whole -/

/-- R242: on the board mesh, port P0k of the device at position p connects to position (p + k + 1) mod 8 at port P0(6 − k), which a
port of the normal wiring check accepts and nothing else; board peer q is reached over port ((q − p) mod 8) − 1. R278: the check of a
port is explicit, none or derived, as its wiring map entry says; derived, it expects the peer of Table 12-4, and fails for every LONG
port; the role is checked whatever CHECK is, and a write with CHECK 0b11 is refused. -/
def Obligations.BoardMesh : Prop :=
  (∀ (d : Dev) (k faddr port : Nat), k < 7 → bitf (dget d 0x6020 (k + 1)) 40 2 = 0 → portMode d k ≠ 2 → ownAddr d % 256 < 8 →
    (wiringOk d k faddr port = true ↔
      faddr = ownAddr d / 256 * 256 + (ownAddr d % 256 + k + 1) % 8 ∧ port = 6 - k)) ∧
  (∀ (d : Dev) (p faddr port : Nat), p < 16 →
    let m := dget d 0x6020 (p + 1)
    let board := bitf (ownAddr d) 8 8
    (bitf m 40 2 = 1 → (wiringOk d p faddr port = true ↔ faddr = bitf m 0 32 ∧ port = bitf m 32 8)) ∧
    (bitf m 40 2 = 2 → wiringOk d p faddr port = true) ∧
    (bitf m 40 2 = 0 → portMode d p = 2 → wiringOk d p faddr port = false) ∧
    (bitf m 40 2 = 0 → portMode d p ≠ 2 → 7 ≤ p → p ≤ 14 → (wiringOk d p faddr port = true ↔
      board < 8 ∧ faddr = ownAddr d / 65536 * 65536 + (0xF0 + (p - 7)) * 256 ∧ port = 8 * board + bitf (ownAddr d) 0 8)) ∧
    (bitf m 40 2 = 0 → portMode d p ≠ 2 → p = 15 → ownAddr d < 2 ^ 32 →
      (wiringOk d p faddr port = true ↔ faddr = ownAddr d ^^^ 1 ∧ port = 15)) ∧
    ∀ (r : List Byte), ownAddr d ≠ 0 → recf r 2 1 ≠ (if 7 ≤ p ∧ p ≤ 14 then 1 else 0) → identCheck d p r = 2) ∧
  (∀ (s : State) (p v : Nat), p < 16 → bitf v 40 2 = 3 →
    (∀ (d : Dev) (e : Entry), valueStatus d 0x6020 (p + 1) e v ≠ stOk) ∧
    completes (.registerWrite 0x6020 (BitVec.ofNat 8 (p + 1)) v) s (· = s)) ∧
  (∀ p q k : Nat, p < 8 → q < 8 → p ≠ q → (meshPort p q = some k ↔ k + 1 = (q + 8 - p) % 8)) ∧
  (∀ p k q : Nat, p < 8 → k < 7 → q = (p + k + 1) % 8 → meshPort p q = some k ∧ meshPort q p = some (6 - k))

/-- R393: the log window shows the 16 records from the cursor on, with 64 zero bytes for a record that is not readable (R390); a
session's cursor is its own, starts at 0 when OPEN makes the session, ends with the session, and a write to it changes no other's. -/
def Obligations.LogWindow : Prop :=
  (∀ (d : Dev) (x : Session), blobVal d (some x) 0x5001 2 = some (logWindow d x.cursor) ∧
    (logWindow d x.cursor).length = 1024 ∧
    (∀ i, i < 16 → ((logWindow d x.cursor).drop (64 * i)).take 64 = readRecord d (x.cursor + i)) ∧
    (∀ n, d.log.total ≤ n ∨ (512 ≤ n ∧ n < ringFirst d) → readRecord d n = zbytes 64) ∧
    (∀ n, n < d.log.total → (n < 512 ∨ ringFirst d ≤ n) → (fget [] d.log.nor n).length = 64 →
      readRecord d n = fget [] d.log.nor n)) ∧
  (∀ (s : State), completes .wdpOpen s fun n => ∀ y ∈ n.dev.mgmt.sessions,
    y.cursor = 0 ∨ ∃ x ∈ s.dev.mgmt.sessions, x.id = y.id ∧ x.cursor = y.cursor) ∧
  (∀ (s : State) (ses v : W32), powered s.dev = true → s.dev.sec.recovery = false → completes (.logCursor ses v) s fun n =>
    (∀ y, findSession s.dev ses.toNat = some y → y.claim = false → findSession n.dev ses.toNat = some { y with cursor := v.toNat }) ∧
    (∀ i, i ≠ ses.toNat → findSession n.dev i = findSession s.dev i)) ∧
  (∀ (s : State) (ses : W32), powered s.dev = true → completes (.sessionIdleTimeout ses) s fun n =>
    findSession n.dev ses.toNat = none)

/-- R240 and R378: after every reset every thread is IDLE with registers and PC zero, the control registers hold their reset values,
no semaphore counts or has waiters, every queue of Table 10-7 is empty and the instruction cache invalid, and no signal from before
is on its way; attestation is idle (exhausted once no leaf is left, R371) with no report, the staging offset, the staged data and the
check result are gone, and role keys, fuses, slots and the flash key persist, but for what the life-cycle transition itself changes; a
reset finds at most one more leaf used than before, that of a report under way (R370). -/
def Obligations.StateAfterReset : Prop :=
  let clean := fun (d : Dev) =>
    (∀ (t : TileId) (th : Thr) (q : Reg) (sm : SemId) (u : Nat), let k := getThread d t th
      k.st = .idle ∧ k.pc = 0 ∧ getReg k q = 0 ∧ k.waitLimit = 0 ∧ k.prio = 0 ∧
      getSem d t sm = { count := 0, ovf := false, waiters := [] } ∧ getQueue d t u = [] ∧
      (getTile d t).icache = [] ∧ (getTile d t).faultBase = 0 ∧ (getTile d t).faultSem = 63) ∧
    d.sigs = [] ∧ d.fab.retained = [] ∧
    (attestShown d = 0 ∨ attestRemaining d = 0) ∧ d.sec.report = [] ∧ d.sec.signature = [] ∧ dget d 0x8030 1 = 0 ∧
    d.sec.stageBuf = [] ∧ d.sec.fwResult = 0
  (∀ (s : State) (c : Instr),
    (c = .pwrGoodFall ∧ s.dev.power.pwrGood = true) ∨ (c = .resetNAssert ∧ s.dev.power.pwrGood = true ∧ s.dev.power.resetN = true) ∨
    (c = .dictionaryReset ∧ powered s.dev = true ∧ s.dev.mgmt.resetArmed = true ∧ s.dev.mgmt.commit = none) ∨
    (c = .startupTimeout ∧ powered s.dev = true ∧ s.dev.power.devState = 0 ∧ s.dev.sec.recovery = false ∧
      s.dev.sec.lifecycle ≠ 4) →
    completes c s fun n =>
      clean n.dev ∧ n.dev.sec.roleKeys = s.dev.sec.roleKeys ∧
      (n.dev.sec.leafUsed = s.dev.sec.leafUsed ∨ (s.dev.sec.attState = 1 ∧ n.dev.sec.leafUsed = s.dev.sec.leafUsed + 1)) ∧
      n.dev.sec.svnFused = s.dev.sec.svnFused ∧ n.dev.sec.revoked = s.dev.sec.revoked ∧ n.dev.sec.slots = s.dev.sec.slots ∧
      n.dev.sec.flashTag = s.dev.sec.flashTag ∧ n.dev.sec.flashKey = s.dev.sec.flashKey) ∧
  (∀ (s : State) (l : Nat), powered s.dev = true → s.dev.sec.lifeReq = some l → s.dev.mgmt.commit = none →
    completes .lifecycleTransition s fun n => clean n.dev ∧
      (n.dev.sec.leafUsed = s.dev.sec.leafUsed ∨ (s.dev.sec.attState = 1 ∧ n.dev.sec.leafUsed = s.dev.sec.leafUsed + 1)) ∧
      n.dev.sec.svnFused = s.dev.sec.svnFused ∧
      n.dev.sec.revoked = s.dev.sec.revoked ∧ n.dev.sec.slots = s.dev.sec.slots)
end

