-- ==== Sys2Proof/Laws/Map.lean ====
section
/-!
SUPPORT. Laws of sparse maps and memories: what a read gives after a write, in every map, and that every operation
keeps the canonical form.
-/
namespace Sys2Proof.Machine

/-! ### Reads after writes -/

theorem fget_fins {α : Type} (d : α) (k j : Nat) (v : α) (m : FMap α) :
    fget d (fins m k v) j = if j = k then v else fget d m j := by
  induction m with
  | nil =>
    by_cases h : j = k
    · simp [fins, fget, h]
    · have h' : ¬ k = j := fun e => h e.symm
      simp [fins, fget, h, h']
  | cons e r ih =>
    obtain ⟨i, w⟩ := e
    unfold fins
    by_cases h1 : k < i
    · simp only [h1, if_true, fget]
      by_cases h : j = k
      · simp [h]
      · have h' : ¬ k = j := fun e => h e.symm
        simp [h, h']
    · by_cases h2 : k = i
      · subst h2
        simp only [h1, if_false, if_true, fget]
        by_cases h : j = k
        · simp [h]
        · have h' : ¬ k = j := fun e => h e.symm
          simp [h, h']
      · simp only [h1, if_false, h2, fget, ih]
        by_cases h3 : i = j
        · have h4 : ¬ j = k := by omega
          simp [h3, h4]
        · simp [h3]

theorem fget_filter_key {α : Type} (d : α) (k j : Nat) (m : FMap α) :
    fget d (m.filter fun e => !decide (e.1 = k)) j = if j = k then d else fget d m j := by
  induction m with
  | nil => simp [fget]
  | cons e r ih =>
    obtain ⟨i, w⟩ := e
    by_cases h1 : i = k
    · simp only [List.filter_cons, h1, decide_true, Bool.not_true, fget]
      by_cases h2 : j = k
      · simpa [h2] using ih
      · have h3 : ¬ k = j := fun e => h2 e.symm
        simpa [h2, h3] using ih
    · simp only [List.filter_cons, h1, decide_false, Bool.not_false, if_true, fget, ih]
      by_cases h2 : i = j
      · have h3 : ¬ j = k := by omega
        simp [h2, h3]
      · simp [h2]

/-- What a read gives after a write. -/
theorem fget_fput {α : Type} [DecidableEq α] (d : α) (m : FMap α) (k j : Nat) (v : α) :
    fget d (fput d m k v) j = if j = k then v else fget d m j := by
  unfold fput
  by_cases h : v = d
  · simp only [h, if_true]
    exact fget_filter_key d k j m
  · simp only [h, if_false]
    exact fget_fins d k j v m

/-- A read of another key gives what it gave before. -/
theorem fget_fput_ne {α : Type} [DecidableEq α] (d : α) (m : FMap α) (k j : Nat) (v : α) (h : j ≠ k) :
    fget d (fput d m k v) j = fget d m j := by simp [fget_fput, h]

/-- A read of the key written gives the value written. -/
@[simp] theorem fget_fput_same {α : Type} [DecidableEq α] (d : α) (m : FMap α) (k : Nat) (v : α) :
    fget d (fput d m k v) k = v := by simp [fget_fput]

/-- What a read gives after an entry was changed in place. -/
theorem fget_fmod {α : Type} [DecidableEq α] (d : α) (m : FMap α) (k j : Nat) (f : α → α) :
    fget d (fmod d m k f) j = if j = k then f (fget d m k) else fget d m j := fget_fput d m k j _

/-! ### The canonical form -/

theorem fwfFrom_mono {α : Type} [DecidableEq α] (d : α) (m : FMap α) (a b : Nat) (h : a ≤ b) (hm : fwfFrom d b m = true) :
    fwfFrom d a m = true := by
  cases m with
  | nil => rfl
  | cons e r =>
    obtain ⟨k, v⟩ := e
    simp only [fwfFrom, Bool.and_eq_true, decide_eq_true_eq] at hm ⊢
    exact ⟨⟨by omega, hm.1.2⟩, hm.2⟩

theorem filter_wfFrom {α : Type} [DecidableEq α] (d : α) (p : Nat × α → Bool) (m : FMap α) :
    ∀ lo, fwfFrom d lo m = true → fwfFrom d lo (m.filter p) = true := by
  induction m with
  | nil => intro lo _; rfl
  | cons e r ih =>
    intro lo hm
    obtain ⟨k, v⟩ := e
    simp only [fwfFrom, Bool.and_eq_true, decide_eq_true_eq] at hm
    by_cases hp : p (k, v) = true
    · simp only [List.filter_cons, hp, if_true, fwfFrom, Bool.and_eq_true, decide_eq_true_eq]
      exact ⟨hm.1, ih (k + 1) hm.2⟩
    · simp only [List.filter_cons, hp]
      exact fwfFrom_mono d _ lo (k + 1) (by omega) (ih (k + 1) hm.2)

/-- Dropping entries keeps the canonical form. -/
theorem filter_wf {α : Type} [DecidableEq α] (d : α) (p : Nat × α → Bool) (m : FMap α) (h : fwf d m = true) :
    fwf d (m.filter p) = true := filter_wfFrom d p m 0 h

theorem fins_wfFrom {α : Type} [DecidableEq α] (d : α) (m : FMap α) (k : Nat) (v : α) (hv : ¬ v = d) :
    ∀ lo, lo ≤ k → fwfFrom d lo m = true → fwfFrom d lo (fins m k v) = true := by
  induction m with
  | nil => intro lo hk _; simp [fins, fwfFrom, hv, hk]
  | cons e r ih =>
    intro lo hk hm
    obtain ⟨i, w⟩ := e
    simp only [fwfFrom, Bool.and_eq_true, decide_eq_true_eq] at hm
    unfold fins
    by_cases h1 : k < i
    · simp only [h1, if_true, fwfFrom, Bool.and_eq_true, decide_eq_true_eq]
      exact ⟨⟨hk, by simp [hv]⟩, ⟨⟨by omega, hm.1.2⟩, hm.2⟩⟩
    · by_cases h2 : k = i
      · subst h2
        simp only [h1, if_false, if_true, fwfFrom, Bool.and_eq_true, decide_eq_true_eq]
        exact ⟨⟨hk, by simp [hv]⟩, hm.2⟩
      · simp only [h1, h2, if_false, fwfFrom, Bool.and_eq_true, decide_eq_true_eq]
        exact ⟨hm.1, ih (i + 1) (by omega) hm.2⟩

/-- A write keeps the canonical form. -/
theorem fput_wf {α : Type} [DecidableEq α] (d : α) (m : FMap α) (k : Nat) (v : α) (h : fwf d m = true) :
    fwf d (fput d m k v) = true := by
  unfold fput
  split
  · exact filter_wf d _ m h
  · rename_i hv; exact fins_wfFrom d m k v hv 0 (Nat.zero_le k) h

theorem fmod_wf {α : Type} [DecidableEq α] (d : α) (m : FMap α) (k : Nat) (f : α → α) (h : fwf d m = true) :
    fwf d (fmod d m k f) = true := fput_wf d m k _ h

theorem fclear_wf {α : Type} [DecidableEq α] (d : α) (m : FMap α) (lo hi : Nat) (h : fwf d m = true) :
    fwf d (fclear m lo hi) = true := filter_wf d _ m h

theorem mwrite_wf (b : List Byte) : ∀ (m : Mem) (a : Nat), memWf m = true → memWf (mwrite m a b) = true := by
  induction b with
  | nil => intro m a h; exact h
  | cons x xs ih => intro m a h; exact ih _ _ (fput_wf 0 m a x h)

/-! ### Bytes -/

/-- A byte outside the bytes written reads as before. -/
theorem mwrite_outside (b : List Byte) : ∀ (m : Mem) (a x : Nat), (x < a ∨ a + b.length ≤ x) →
    fget 0 (mwrite m a b) x = fget 0 m x := by
  induction b with
  | nil => intro m a x _; rfl
  | cons y ys ih =>
    intro m a x hx
    simp only [List.length_cons] at hx
    simp only [mwrite]
    rw [ih (fput 0 m a y) (a + 1) x (by omega)]
    exact fget_fput_ne 0 m a x y (by omega)

/-- A byte written reads as what was written. -/
theorem mwrite_inside (b : List Byte) : ∀ (m : Mem) (a i : Nat), i < b.length →
    fget 0 (mwrite m a b) (a + i) = b.getD i 0 := by
  induction b with
  | nil => intro m a i h; simp at h
  | cons y ys ih =>
    intro m a i h
    cases i with
    | zero =>
      simp only [mwrite, Nat.add_zero]
      rw [mwrite_outside ys (fput 0 m a y) (a + 1) a (by omega)]
      exact fget_fput_same 0 m a y
    | succ n =>
      simp only [mwrite, List.length_cons] at h ⊢
      have := ih (fput 0 m a y) (a + 1) n (by omega)
      rw [show a + (n + 1) = a + 1 + n by omega, this]
      simp

theorem mread_length (m : Mem) (a n : Nat) : (mread m a n).length = n := by simp [mread]

theorem natLe_length : ∀ (n v : Nat), (natLe n v).length = n := by
  intro n
  induction n with
  | zero => intro v; rfl
  | succ n ih => intro v; simp [natLe, ih]

/-- `n` bytes of a number spell it again, as far as they reach. -/
theorem leNat_natLe : ∀ (n v : Nat), leNat (natLe n v) = v % 256 ^ n := by
  intro n
  induction n with
  | zero => intro v; simp [natLe, leNat, Nat.mod_one]
  | succ n ih =>
    intro v
    simp only [natLe, leNat, ih, BitVec.toNat_ofNat]
    rw [show (2 : Nat) ^ 8 = 256 from rfl, Nat.pow_succ, Nat.mul_comm (256 ^ n) 256, Nat.mod_mul]

end Sys2Proof.Machine
end

