-- ==== Sys2Proof/Laws/State.lean ====
section
/-! SUPPORT. One lemma per field and update of the device: what each part operation leaves, and what it changes. -/
namespace Sys2Proof.Machine

@[simp] theorem modTile_tc (d : Dev) (t : TileId) (f : Tile → Tile) : (modTile d t f).tc = d.tc := rfl
@[simp] theorem modTile_resetTc (d : Dev) (t : TileId) (f : Tile → Tile) : (modTile d t f).resetTc = d.resetTc := rfl
@[simp] theorem modTile_stamp (d : Dev) (t : TileId) (f : Tile → Tile) : (modTile d t f).stamp = d.stamp := rfl
@[simp] theorem modTile_fresh (d : Dev) (t : TileId) (f : Tile → Tile) : (modTile d t f).fresh = d.fresh := rfl
@[simp] theorem modTile_sigs (d : Dev) (t : TileId) (f : Tile → Tile) : (modTile d t f).sigs = d.sigs := rfl
@[simp] theorem modTile_mem (d : Dev) (t : TileId) (f : Tile → Tile) : (modTile d t f).mem = d.mem := rfl
@[simp] theorem modTile_curv (d : Dev) (t : TileId) (f : Tile → Tile) : (modTile d t f).curv = d.curv := rfl
@[simp] theorem modTile_fab (d : Dev) (t : TileId) (f : Tile → Tile) : (modTile d t f).fab = d.fab := rfl
@[simp] theorem modTile_safety (d : Dev) (t : TileId) (f : Tile → Tile) : (modTile d t f).safety = d.safety := rfl
@[simp] theorem modTile_host (d : Dev) (t : TileId) (f : Tile → Tile) : (modTile d t f).host = d.host := rfl
@[simp] theorem modTile_mgmt (d : Dev) (t : TileId) (f : Tile → Tile) : (modTile d t f).mgmt = d.mgmt := rfl
@[simp] theorem modTile_sec (d : Dev) (t : TileId) (f : Tile → Tile) : (modTile d t f).sec = d.sec := rfl
@[simp] theorem modTile_count (d : Dev) (t : TileId) (f : Tile → Tile) : (modTile d t f).count = d.count := rfl
@[simp] theorem modTile_log (d : Dev) (t : TileId) (f : Tile → Tile) : (modTile d t f).log = d.log := rfl
@[simp] theorem modTile_power (d : Dev) (t : TileId) (f : Tile → Tile) : (modTile d t f).power = d.power := rfl
@[simp] theorem modTile_dict (d : Dev) (t : TileId) (f : Tile → Tile) : (modTile d t f).dict = d.dict := rfl
@[simp] theorem modTile_tiles (d : Dev) (t : TileId) (f : Tile → Tile) : (modTile d t f).tiles = fmod {} d.tiles t.val f := rfl
@[simp] theorem modThread_tc (d : Dev) (t : TileId) (th : Thr) (f : Thread → Thread) : (modThread d t th f).tc = d.tc := rfl
@[simp] theorem modThread_resetTc (d : Dev) (t : TileId) (th : Thr) (f : Thread → Thread) : (modThread d t th f).resetTc = d.resetTc := rfl
@[simp] theorem modThread_stamp (d : Dev) (t : TileId) (th : Thr) (f : Thread → Thread) : (modThread d t th f).stamp = d.stamp := rfl
@[simp] theorem modThread_fresh (d : Dev) (t : TileId) (th : Thr) (f : Thread → Thread) : (modThread d t th f).fresh = d.fresh := rfl
@[simp] theorem modThread_sigs (d : Dev) (t : TileId) (th : Thr) (f : Thread → Thread) : (modThread d t th f).sigs = d.sigs := rfl
@[simp] theorem modThread_mem (d : Dev) (t : TileId) (th : Thr) (f : Thread → Thread) : (modThread d t th f).mem = d.mem := rfl
@[simp] theorem modThread_curv (d : Dev) (t : TileId) (th : Thr) (f : Thread → Thread) : (modThread d t th f).curv = d.curv := rfl
@[simp] theorem modThread_fab (d : Dev) (t : TileId) (th : Thr) (f : Thread → Thread) : (modThread d t th f).fab = d.fab := rfl
@[simp] theorem modThread_safety (d : Dev) (t : TileId) (th : Thr) (f : Thread → Thread) : (modThread d t th f).safety = d.safety := rfl
@[simp] theorem modThread_host (d : Dev) (t : TileId) (th : Thr) (f : Thread → Thread) : (modThread d t th f).host = d.host := rfl
@[simp] theorem modThread_mgmt (d : Dev) (t : TileId) (th : Thr) (f : Thread → Thread) : (modThread d t th f).mgmt = d.mgmt := rfl
@[simp] theorem modThread_sec (d : Dev) (t : TileId) (th : Thr) (f : Thread → Thread) : (modThread d t th f).sec = d.sec := rfl
@[simp] theorem modThread_count (d : Dev) (t : TileId) (th : Thr) (f : Thread → Thread) : (modThread d t th f).count = d.count := rfl
@[simp] theorem modThread_log (d : Dev) (t : TileId) (th : Thr) (f : Thread → Thread) : (modThread d t th f).log = d.log := rfl
@[simp] theorem modThread_power (d : Dev) (t : TileId) (th : Thr) (f : Thread → Thread) : (modThread d t th f).power = d.power := rfl
@[simp] theorem modThread_dict (d : Dev) (t : TileId) (th : Thr) (f : Thread → Thread) : (modThread d t th f).dict = d.dict := rfl
@[simp] theorem modSem_tc (d : Dev) (t : TileId) (s : SemId) (f : Sem → Sem) : (modSem d t s f).tc = d.tc := rfl
@[simp] theorem modSem_resetTc (d : Dev) (t : TileId) (s : SemId) (f : Sem → Sem) : (modSem d t s f).resetTc = d.resetTc := rfl
@[simp] theorem modSem_stamp (d : Dev) (t : TileId) (s : SemId) (f : Sem → Sem) : (modSem d t s f).stamp = d.stamp := rfl
@[simp] theorem modSem_fresh (d : Dev) (t : TileId) (s : SemId) (f : Sem → Sem) : (modSem d t s f).fresh = d.fresh := rfl
@[simp] theorem modSem_sigs (d : Dev) (t : TileId) (s : SemId) (f : Sem → Sem) : (modSem d t s f).sigs = d.sigs := rfl
@[simp] theorem modSem_mem (d : Dev) (t : TileId) (s : SemId) (f : Sem → Sem) : (modSem d t s f).mem = d.mem := rfl
@[simp] theorem modSem_curv (d : Dev) (t : TileId) (s : SemId) (f : Sem → Sem) : (modSem d t s f).curv = d.curv := rfl
@[simp] theorem modSem_fab (d : Dev) (t : TileId) (s : SemId) (f : Sem → Sem) : (modSem d t s f).fab = d.fab := rfl
@[simp] theorem modSem_safety (d : Dev) (t : TileId) (s : SemId) (f : Sem → Sem) : (modSem d t s f).safety = d.safety := rfl
@[simp] theorem modSem_host (d : Dev) (t : TileId) (s : SemId) (f : Sem → Sem) : (modSem d t s f).host = d.host := rfl
@[simp] theorem modSem_mgmt (d : Dev) (t : TileId) (s : SemId) (f : Sem → Sem) : (modSem d t s f).mgmt = d.mgmt := rfl
@[simp] theorem modSem_sec (d : Dev) (t : TileId) (s : SemId) (f : Sem → Sem) : (modSem d t s f).sec = d.sec := rfl
@[simp] theorem modSem_count (d : Dev) (t : TileId) (s : SemId) (f : Sem → Sem) : (modSem d t s f).count = d.count := rfl
@[simp] theorem modSem_log (d : Dev) (t : TileId) (s : SemId) (f : Sem → Sem) : (modSem d t s f).log = d.log := rfl
@[simp] theorem modSem_power (d : Dev) (t : TileId) (s : SemId) (f : Sem → Sem) : (modSem d t s f).power = d.power := rfl
@[simp] theorem modSem_dict (d : Dev) (t : TileId) (s : SemId) (f : Sem → Sem) : (modSem d t s f).dict = d.dict := rfl
@[simp] theorem modQueue_tc (d : Dev) (t : TileId) (u : Nat) (f : List QEnt → List QEnt) : (modQueue d t u f).tc = d.tc := rfl
@[simp] theorem modQueue_resetTc (d : Dev) (t : TileId) (u : Nat) (f : List QEnt → List QEnt) : (modQueue d t u f).resetTc = d.resetTc := rfl
@[simp] theorem modQueue_stamp (d : Dev) (t : TileId) (u : Nat) (f : List QEnt → List QEnt) : (modQueue d t u f).stamp = d.stamp := rfl
@[simp] theorem modQueue_fresh (d : Dev) (t : TileId) (u : Nat) (f : List QEnt → List QEnt) : (modQueue d t u f).fresh = d.fresh := rfl
@[simp] theorem modQueue_sigs (d : Dev) (t : TileId) (u : Nat) (f : List QEnt → List QEnt) : (modQueue d t u f).sigs = d.sigs := rfl
@[simp] theorem modQueue_mem (d : Dev) (t : TileId) (u : Nat) (f : List QEnt → List QEnt) : (modQueue d t u f).mem = d.mem := rfl
@[simp] theorem modQueue_curv (d : Dev) (t : TileId) (u : Nat) (f : List QEnt → List QEnt) : (modQueue d t u f).curv = d.curv := rfl
@[simp] theorem modQueue_fab (d : Dev) (t : TileId) (u : Nat) (f : List QEnt → List QEnt) : (modQueue d t u f).fab = d.fab := rfl
@[simp] theorem modQueue_safety (d : Dev) (t : TileId) (u : Nat) (f : List QEnt → List QEnt) : (modQueue d t u f).safety = d.safety := rfl
@[simp] theorem modQueue_host (d : Dev) (t : TileId) (u : Nat) (f : List QEnt → List QEnt) : (modQueue d t u f).host = d.host := rfl
@[simp] theorem modQueue_mgmt (d : Dev) (t : TileId) (u : Nat) (f : List QEnt → List QEnt) : (modQueue d t u f).mgmt = d.mgmt := rfl
@[simp] theorem modQueue_sec (d : Dev) (t : TileId) (u : Nat) (f : List QEnt → List QEnt) : (modQueue d t u f).sec = d.sec := rfl
@[simp] theorem modQueue_count (d : Dev) (t : TileId) (u : Nat) (f : List QEnt → List QEnt) : (modQueue d t u f).count = d.count := rfl
@[simp] theorem modQueue_log (d : Dev) (t : TileId) (u : Nat) (f : List QEnt → List QEnt) : (modQueue d t u f).log = d.log := rfl
@[simp] theorem modQueue_power (d : Dev) (t : TileId) (u : Nat) (f : List QEnt → List QEnt) : (modQueue d t u f).power = d.power := rfl
@[simp] theorem modQueue_dict (d : Dev) (t : TileId) (u : Nat) (f : List QEnt → List QEnt) : (modQueue d t u f).dict = d.dict := rfl
@[simp] theorem modEnt_tc (d : Dev) (t : TileId) (u n : Nat) (f : QEnt → QEnt) : (modEnt d t u n f).tc = d.tc := rfl
@[simp] theorem modEnt_resetTc (d : Dev) (t : TileId) (u n : Nat) (f : QEnt → QEnt) : (modEnt d t u n f).resetTc = d.resetTc := rfl
@[simp] theorem modEnt_stamp (d : Dev) (t : TileId) (u n : Nat) (f : QEnt → QEnt) : (modEnt d t u n f).stamp = d.stamp := rfl
@[simp] theorem modEnt_fresh (d : Dev) (t : TileId) (u n : Nat) (f : QEnt → QEnt) : (modEnt d t u n f).fresh = d.fresh := rfl
@[simp] theorem modEnt_sigs (d : Dev) (t : TileId) (u n : Nat) (f : QEnt → QEnt) : (modEnt d t u n f).sigs = d.sigs := rfl
@[simp] theorem modEnt_mem (d : Dev) (t : TileId) (u n : Nat) (f : QEnt → QEnt) : (modEnt d t u n f).mem = d.mem := rfl
@[simp] theorem modEnt_curv (d : Dev) (t : TileId) (u n : Nat) (f : QEnt → QEnt) : (modEnt d t u n f).curv = d.curv := rfl
@[simp] theorem modEnt_fab (d : Dev) (t : TileId) (u n : Nat) (f : QEnt → QEnt) : (modEnt d t u n f).fab = d.fab := rfl
@[simp] theorem modEnt_safety (d : Dev) (t : TileId) (u n : Nat) (f : QEnt → QEnt) : (modEnt d t u n f).safety = d.safety := rfl
@[simp] theorem modEnt_host (d : Dev) (t : TileId) (u n : Nat) (f : QEnt → QEnt) : (modEnt d t u n f).host = d.host := rfl
@[simp] theorem modEnt_mgmt (d : Dev) (t : TileId) (u n : Nat) (f : QEnt → QEnt) : (modEnt d t u n f).mgmt = d.mgmt := rfl
@[simp] theorem modEnt_sec (d : Dev) (t : TileId) (u n : Nat) (f : QEnt → QEnt) : (modEnt d t u n f).sec = d.sec := rfl
@[simp] theorem modEnt_count (d : Dev) (t : TileId) (u n : Nat) (f : QEnt → QEnt) : (modEnt d t u n f).count = d.count := rfl
@[simp] theorem modEnt_log (d : Dev) (t : TileId) (u n : Nat) (f : QEnt → QEnt) : (modEnt d t u n f).log = d.log := rfl
@[simp] theorem modEnt_power (d : Dev) (t : TileId) (u n : Nat) (f : QEnt → QEnt) : (modEnt d t u n f).power = d.power := rfl
@[simp] theorem modEnt_dict (d : Dev) (t : TileId) (u n : Nat) (f : QEnt → QEnt) : (modEnt d t u n f).dict = d.dict := rfl
@[simp] theorem dropEnt_tc (d : Dev) (t : TileId) (u n : Nat) : (dropEnt d t u n).tc = d.tc := rfl
@[simp] theorem dropEnt_resetTc (d : Dev) (t : TileId) (u n : Nat) : (dropEnt d t u n).resetTc = d.resetTc := rfl
@[simp] theorem dropEnt_stamp (d : Dev) (t : TileId) (u n : Nat) : (dropEnt d t u n).stamp = d.stamp := rfl
@[simp] theorem dropEnt_fresh (d : Dev) (t : TileId) (u n : Nat) : (dropEnt d t u n).fresh = d.fresh := rfl
@[simp] theorem dropEnt_sigs (d : Dev) (t : TileId) (u n : Nat) : (dropEnt d t u n).sigs = d.sigs := rfl
@[simp] theorem dropEnt_mem (d : Dev) (t : TileId) (u n : Nat) : (dropEnt d t u n).mem = d.mem := rfl
@[simp] theorem dropEnt_curv (d : Dev) (t : TileId) (u n : Nat) : (dropEnt d t u n).curv = d.curv := rfl
@[simp] theorem dropEnt_fab (d : Dev) (t : TileId) (u n : Nat) : (dropEnt d t u n).fab = d.fab := rfl
@[simp] theorem dropEnt_safety (d : Dev) (t : TileId) (u n : Nat) : (dropEnt d t u n).safety = d.safety := rfl
@[simp] theorem dropEnt_host (d : Dev) (t : TileId) (u n : Nat) : (dropEnt d t u n).host = d.host := rfl
@[simp] theorem dropEnt_mgmt (d : Dev) (t : TileId) (u n : Nat) : (dropEnt d t u n).mgmt = d.mgmt := rfl
@[simp] theorem dropEnt_sec (d : Dev) (t : TileId) (u n : Nat) : (dropEnt d t u n).sec = d.sec := rfl
@[simp] theorem dropEnt_count (d : Dev) (t : TileId) (u n : Nat) : (dropEnt d t u n).count = d.count := rfl
@[simp] theorem dropEnt_log (d : Dev) (t : TileId) (u n : Nat) : (dropEnt d t u n).log = d.log := rfl
@[simp] theorem dropEnt_power (d : Dev) (t : TileId) (u n : Nat) : (dropEnt d t u n).power = d.power := rfl
@[simp] theorem dropEnt_dict (d : Dev) (t : TileId) (u n : Nat) : (dropEnt d t u n).dict = d.dict := rfl
@[simp] theorem modCurv_tc (d : Dev) (c : Nat) (f : CurvSt → CurvSt) : (modCurv d c f).tc = d.tc := rfl
@[simp] theorem modCurv_resetTc (d : Dev) (c : Nat) (f : CurvSt → CurvSt) : (modCurv d c f).resetTc = d.resetTc := rfl
@[simp] theorem modCurv_stamp (d : Dev) (c : Nat) (f : CurvSt → CurvSt) : (modCurv d c f).stamp = d.stamp := rfl
@[simp] theorem modCurv_fresh (d : Dev) (c : Nat) (f : CurvSt → CurvSt) : (modCurv d c f).fresh = d.fresh := rfl
@[simp] theorem modCurv_tiles (d : Dev) (c : Nat) (f : CurvSt → CurvSt) : (modCurv d c f).tiles = d.tiles := rfl
@[simp] theorem modCurv_sigs (d : Dev) (c : Nat) (f : CurvSt → CurvSt) : (modCurv d c f).sigs = d.sigs := rfl
@[simp] theorem modCurv_mem (d : Dev) (c : Nat) (f : CurvSt → CurvSt) : (modCurv d c f).mem = d.mem := rfl
@[simp] theorem modCurv_fab (d : Dev) (c : Nat) (f : CurvSt → CurvSt) : (modCurv d c f).fab = d.fab := rfl
@[simp] theorem modCurv_safety (d : Dev) (c : Nat) (f : CurvSt → CurvSt) : (modCurv d c f).safety = d.safety := rfl
@[simp] theorem modCurv_host (d : Dev) (c : Nat) (f : CurvSt → CurvSt) : (modCurv d c f).host = d.host := rfl
@[simp] theorem modCurv_mgmt (d : Dev) (c : Nat) (f : CurvSt → CurvSt) : (modCurv d c f).mgmt = d.mgmt := rfl
@[simp] theorem modCurv_sec (d : Dev) (c : Nat) (f : CurvSt → CurvSt) : (modCurv d c f).sec = d.sec := rfl
@[simp] theorem modCurv_count (d : Dev) (c : Nat) (f : CurvSt → CurvSt) : (modCurv d c f).count = d.count := rfl
@[simp] theorem modCurv_log (d : Dev) (c : Nat) (f : CurvSt → CurvSt) : (modCurv d c f).log = d.log := rfl
@[simp] theorem modCurv_power (d : Dev) (c : Nat) (f : CurvSt → CurvSt) : (modCurv d c f).power = d.power := rfl
@[simp] theorem modCurv_dict (d : Dev) (c : Nat) (f : CurvSt → CurvSt) : (modCurv d c f).dict = d.dict := rfl
@[simp] theorem modCurv_curv (d : Dev) (c : Nat) (f : CurvSt → CurvSt) : (modCurv d c f).curv = fmod {} d.curv c f := rfl
@[simp] theorem modFab_tc (d : Dev) (f : FabricSt → FabricSt) : (modFab d f).tc = d.tc := rfl
@[simp] theorem modFab_resetTc (d : Dev) (f : FabricSt → FabricSt) : (modFab d f).resetTc = d.resetTc := rfl
@[simp] theorem modFab_stamp (d : Dev) (f : FabricSt → FabricSt) : (modFab d f).stamp = d.stamp := rfl
@[simp] theorem modFab_fresh (d : Dev) (f : FabricSt → FabricSt) : (modFab d f).fresh = d.fresh := rfl
@[simp] theorem modFab_tiles (d : Dev) (f : FabricSt → FabricSt) : (modFab d f).tiles = d.tiles := rfl
@[simp] theorem modFab_sigs (d : Dev) (f : FabricSt → FabricSt) : (modFab d f).sigs = d.sigs := rfl
@[simp] theorem modFab_mem (d : Dev) (f : FabricSt → FabricSt) : (modFab d f).mem = d.mem := rfl
@[simp] theorem modFab_curv (d : Dev) (f : FabricSt → FabricSt) : (modFab d f).curv = d.curv := rfl
@[simp] theorem modFab_safety (d : Dev) (f : FabricSt → FabricSt) : (modFab d f).safety = d.safety := rfl
@[simp] theorem modFab_host (d : Dev) (f : FabricSt → FabricSt) : (modFab d f).host = d.host := rfl
@[simp] theorem modFab_mgmt (d : Dev) (f : FabricSt → FabricSt) : (modFab d f).mgmt = d.mgmt := rfl
@[simp] theorem modFab_sec (d : Dev) (f : FabricSt → FabricSt) : (modFab d f).sec = d.sec := rfl
@[simp] theorem modFab_count (d : Dev) (f : FabricSt → FabricSt) : (modFab d f).count = d.count := rfl
@[simp] theorem modFab_log (d : Dev) (f : FabricSt → FabricSt) : (modFab d f).log = d.log := rfl
@[simp] theorem modFab_power (d : Dev) (f : FabricSt → FabricSt) : (modFab d f).power = d.power := rfl
@[simp] theorem modFab_dict (d : Dev) (f : FabricSt → FabricSt) : (modFab d f).dict = d.dict := rfl
@[simp] theorem modFab_fab (d : Dev) (f : FabricSt → FabricSt) : (modFab d f).fab = f d.fab := rfl
@[simp] theorem modPort_tc (d : Dev) (p : Nat) (f : PortSt → PortSt) : (modPort d p f).tc = d.tc := rfl
@[simp] theorem modPort_resetTc (d : Dev) (p : Nat) (f : PortSt → PortSt) : (modPort d p f).resetTc = d.resetTc := rfl
@[simp] theorem modPort_stamp (d : Dev) (p : Nat) (f : PortSt → PortSt) : (modPort d p f).stamp = d.stamp := rfl
@[simp] theorem modPort_fresh (d : Dev) (p : Nat) (f : PortSt → PortSt) : (modPort d p f).fresh = d.fresh := rfl
@[simp] theorem modPort_tiles (d : Dev) (p : Nat) (f : PortSt → PortSt) : (modPort d p f).tiles = d.tiles := rfl
@[simp] theorem modPort_sigs (d : Dev) (p : Nat) (f : PortSt → PortSt) : (modPort d p f).sigs = d.sigs := rfl
@[simp] theorem modPort_mem (d : Dev) (p : Nat) (f : PortSt → PortSt) : (modPort d p f).mem = d.mem := rfl
@[simp] theorem modPort_curv (d : Dev) (p : Nat) (f : PortSt → PortSt) : (modPort d p f).curv = d.curv := rfl
@[simp] theorem modPort_safety (d : Dev) (p : Nat) (f : PortSt → PortSt) : (modPort d p f).safety = d.safety := rfl
@[simp] theorem modPort_host (d : Dev) (p : Nat) (f : PortSt → PortSt) : (modPort d p f).host = d.host := rfl
@[simp] theorem modPort_mgmt (d : Dev) (p : Nat) (f : PortSt → PortSt) : (modPort d p f).mgmt = d.mgmt := rfl
@[simp] theorem modPort_sec (d : Dev) (p : Nat) (f : PortSt → PortSt) : (modPort d p f).sec = d.sec := rfl
@[simp] theorem modPort_count (d : Dev) (p : Nat) (f : PortSt → PortSt) : (modPort d p f).count = d.count := rfl
@[simp] theorem modPort_log (d : Dev) (p : Nat) (f : PortSt → PortSt) : (modPort d p f).log = d.log := rfl
@[simp] theorem modPort_power (d : Dev) (p : Nat) (f : PortSt → PortSt) : (modPort d p f).power = d.power := rfl
@[simp] theorem modPort_dict (d : Dev) (p : Nat) (f : PortSt → PortSt) : (modPort d p f).dict = d.dict := rfl
@[simp] theorem modSafety_tc (d : Dev) (f : SafetySt → SafetySt) : (modSafety d f).tc = d.tc := rfl
@[simp] theorem modSafety_resetTc (d : Dev) (f : SafetySt → SafetySt) : (modSafety d f).resetTc = d.resetTc := rfl
@[simp] theorem modSafety_stamp (d : Dev) (f : SafetySt → SafetySt) : (modSafety d f).stamp = d.stamp := rfl
@[simp] theorem modSafety_fresh (d : Dev) (f : SafetySt → SafetySt) : (modSafety d f).fresh = d.fresh := rfl
@[simp] theorem modSafety_tiles (d : Dev) (f : SafetySt → SafetySt) : (modSafety d f).tiles = d.tiles := rfl
@[simp] theorem modSafety_sigs (d : Dev) (f : SafetySt → SafetySt) : (modSafety d f).sigs = d.sigs := rfl
@[simp] theorem modSafety_mem (d : Dev) (f : SafetySt → SafetySt) : (modSafety d f).mem = d.mem := rfl
@[simp] theorem modSafety_curv (d : Dev) (f : SafetySt → SafetySt) : (modSafety d f).curv = d.curv := rfl
@[simp] theorem modSafety_fab (d : Dev) (f : SafetySt → SafetySt) : (modSafety d f).fab = d.fab := rfl
@[simp] theorem modSafety_host (d : Dev) (f : SafetySt → SafetySt) : (modSafety d f).host = d.host := rfl
@[simp] theorem modSafety_mgmt (d : Dev) (f : SafetySt → SafetySt) : (modSafety d f).mgmt = d.mgmt := rfl
@[simp] theorem modSafety_sec (d : Dev) (f : SafetySt → SafetySt) : (modSafety d f).sec = d.sec := rfl
@[simp] theorem modSafety_count (d : Dev) (f : SafetySt → SafetySt) : (modSafety d f).count = d.count := rfl
@[simp] theorem modSafety_log (d : Dev) (f : SafetySt → SafetySt) : (modSafety d f).log = d.log := rfl
@[simp] theorem modSafety_power (d : Dev) (f : SafetySt → SafetySt) : (modSafety d f).power = d.power := rfl
@[simp] theorem modSafety_dict (d : Dev) (f : SafetySt → SafetySt) : (modSafety d f).dict = d.dict := rfl
@[simp] theorem modSafety_safety (d : Dev) (f : SafetySt → SafetySt) : (modSafety d f).safety = f d.safety := rfl
@[simp] theorem modHost_tc (d : Dev) (f : HostSt → HostSt) : (modHost d f).tc = d.tc := rfl
@[simp] theorem modHost_resetTc (d : Dev) (f : HostSt → HostSt) : (modHost d f).resetTc = d.resetTc := rfl
@[simp] theorem modHost_stamp (d : Dev) (f : HostSt → HostSt) : (modHost d f).stamp = d.stamp := rfl
@[simp] theorem modHost_fresh (d : Dev) (f : HostSt → HostSt) : (modHost d f).fresh = d.fresh := rfl
@[simp] theorem modHost_tiles (d : Dev) (f : HostSt → HostSt) : (modHost d f).tiles = d.tiles := rfl
@[simp] theorem modHost_sigs (d : Dev) (f : HostSt → HostSt) : (modHost d f).sigs = d.sigs := rfl
@[simp] theorem modHost_mem (d : Dev) (f : HostSt → HostSt) : (modHost d f).mem = d.mem := rfl
@[simp] theorem modHost_curv (d : Dev) (f : HostSt → HostSt) : (modHost d f).curv = d.curv := rfl
@[simp] theorem modHost_fab (d : Dev) (f : HostSt → HostSt) : (modHost d f).fab = d.fab := rfl
@[simp] theorem modHost_safety (d : Dev) (f : HostSt → HostSt) : (modHost d f).safety = d.safety := rfl
@[simp] theorem modHost_mgmt (d : Dev) (f : HostSt → HostSt) : (modHost d f).mgmt = d.mgmt := rfl
@[simp] theorem modHost_sec (d : Dev) (f : HostSt → HostSt) : (modHost d f).sec = d.sec := rfl
@[simp] theorem modHost_count (d : Dev) (f : HostSt → HostSt) : (modHost d f).count = d.count := rfl
@[simp] theorem modHost_log (d : Dev) (f : HostSt → HostSt) : (modHost d f).log = d.log := rfl
@[simp] theorem modHost_power (d : Dev) (f : HostSt → HostSt) : (modHost d f).power = d.power := rfl
@[simp] theorem modHost_dict (d : Dev) (f : HostSt → HostSt) : (modHost d f).dict = d.dict := rfl
@[simp] theorem modHost_host (d : Dev) (f : HostSt → HostSt) : (modHost d f).host = f d.host := rfl
@[simp] theorem modHQ_tc (d : Dev) (q : Nat) (f : HQ → HQ) : (modHQ d q f).tc = d.tc := rfl
@[simp] theorem modHQ_resetTc (d : Dev) (q : Nat) (f : HQ → HQ) : (modHQ d q f).resetTc = d.resetTc := rfl
@[simp] theorem modHQ_stamp (d : Dev) (q : Nat) (f : HQ → HQ) : (modHQ d q f).stamp = d.stamp := rfl
@[simp] theorem modHQ_fresh (d : Dev) (q : Nat) (f : HQ → HQ) : (modHQ d q f).fresh = d.fresh := rfl
@[simp] theorem modHQ_tiles (d : Dev) (q : Nat) (f : HQ → HQ) : (modHQ d q f).tiles = d.tiles := rfl
@[simp] theorem modHQ_sigs (d : Dev) (q : Nat) (f : HQ → HQ) : (modHQ d q f).sigs = d.sigs := rfl
@[simp] theorem modHQ_mem (d : Dev) (q : Nat) (f : HQ → HQ) : (modHQ d q f).mem = d.mem := rfl
@[simp] theorem modHQ_curv (d : Dev) (q : Nat) (f : HQ → HQ) : (modHQ d q f).curv = d.curv := rfl
@[simp] theorem modHQ_fab (d : Dev) (q : Nat) (f : HQ → HQ) : (modHQ d q f).fab = d.fab := rfl
@[simp] theorem modHQ_safety (d : Dev) (q : Nat) (f : HQ → HQ) : (modHQ d q f).safety = d.safety := rfl
@[simp] theorem modHQ_mgmt (d : Dev) (q : Nat) (f : HQ → HQ) : (modHQ d q f).mgmt = d.mgmt := rfl
@[simp] theorem modHQ_sec (d : Dev) (q : Nat) (f : HQ → HQ) : (modHQ d q f).sec = d.sec := rfl
@[simp] theorem modHQ_count (d : Dev) (q : Nat) (f : HQ → HQ) : (modHQ d q f).count = d.count := rfl
@[simp] theorem modHQ_log (d : Dev) (q : Nat) (f : HQ → HQ) : (modHQ d q f).log = d.log := rfl
@[simp] theorem modHQ_power (d : Dev) (q : Nat) (f : HQ → HQ) : (modHQ d q f).power = d.power := rfl
@[simp] theorem modHQ_dict (d : Dev) (q : Nat) (f : HQ → HQ) : (modHQ d q f).dict = d.dict := rfl
@[simp] theorem modMgmt_tc (d : Dev) (f : MgmtSt → MgmtSt) : (modMgmt d f).tc = d.tc := rfl
@[simp] theorem modMgmt_resetTc (d : Dev) (f : MgmtSt → MgmtSt) : (modMgmt d f).resetTc = d.resetTc := rfl
@[simp] theorem modMgmt_stamp (d : Dev) (f : MgmtSt → MgmtSt) : (modMgmt d f).stamp = d.stamp := rfl
@[simp] theorem modMgmt_fresh (d : Dev) (f : MgmtSt → MgmtSt) : (modMgmt d f).fresh = d.fresh := rfl
@[simp] theorem modMgmt_tiles (d : Dev) (f : MgmtSt → MgmtSt) : (modMgmt d f).tiles = d.tiles := rfl
@[simp] theorem modMgmt_sigs (d : Dev) (f : MgmtSt → MgmtSt) : (modMgmt d f).sigs = d.sigs := rfl
@[simp] theorem modMgmt_mem (d : Dev) (f : MgmtSt → MgmtSt) : (modMgmt d f).mem = d.mem := rfl
@[simp] theorem modMgmt_curv (d : Dev) (f : MgmtSt → MgmtSt) : (modMgmt d f).curv = d.curv := rfl
@[simp] theorem modMgmt_fab (d : Dev) (f : MgmtSt → MgmtSt) : (modMgmt d f).fab = d.fab := rfl
@[simp] theorem modMgmt_safety (d : Dev) (f : MgmtSt → MgmtSt) : (modMgmt d f).safety = d.safety := rfl
@[simp] theorem modMgmt_host (d : Dev) (f : MgmtSt → MgmtSt) : (modMgmt d f).host = d.host := rfl
@[simp] theorem modMgmt_sec (d : Dev) (f : MgmtSt → MgmtSt) : (modMgmt d f).sec = d.sec := rfl
@[simp] theorem modMgmt_count (d : Dev) (f : MgmtSt → MgmtSt) : (modMgmt d f).count = d.count := rfl
@[simp] theorem modMgmt_log (d : Dev) (f : MgmtSt → MgmtSt) : (modMgmt d f).log = d.log := rfl
@[simp] theorem modMgmt_power (d : Dev) (f : MgmtSt → MgmtSt) : (modMgmt d f).power = d.power := rfl
@[simp] theorem modMgmt_dict (d : Dev) (f : MgmtSt → MgmtSt) : (modMgmt d f).dict = d.dict := rfl
@[simp] theorem modMgmt_mgmt (d : Dev) (f : MgmtSt → MgmtSt) : (modMgmt d f).mgmt = f d.mgmt := rfl
@[simp] theorem modSec_tc (d : Dev) (f : SecSt → SecSt) : (modSec d f).tc = d.tc := rfl
@[simp] theorem modSec_resetTc (d : Dev) (f : SecSt → SecSt) : (modSec d f).resetTc = d.resetTc := rfl
@[simp] theorem modSec_stamp (d : Dev) (f : SecSt → SecSt) : (modSec d f).stamp = d.stamp := rfl
@[simp] theorem modSec_fresh (d : Dev) (f : SecSt → SecSt) : (modSec d f).fresh = d.fresh := rfl
@[simp] theorem modSec_tiles (d : Dev) (f : SecSt → SecSt) : (modSec d f).tiles = d.tiles := rfl
@[simp] theorem modSec_sigs (d : Dev) (f : SecSt → SecSt) : (modSec d f).sigs = d.sigs := rfl
@[simp] theorem modSec_mem (d : Dev) (f : SecSt → SecSt) : (modSec d f).mem = d.mem := rfl
@[simp] theorem modSec_curv (d : Dev) (f : SecSt → SecSt) : (modSec d f).curv = d.curv := rfl
@[simp] theorem modSec_fab (d : Dev) (f : SecSt → SecSt) : (modSec d f).fab = d.fab := rfl
@[simp] theorem modSec_safety (d : Dev) (f : SecSt → SecSt) : (modSec d f).safety = d.safety := rfl
@[simp] theorem modSec_host (d : Dev) (f : SecSt → SecSt) : (modSec d f).host = d.host := rfl
@[simp] theorem modSec_mgmt (d : Dev) (f : SecSt → SecSt) : (modSec d f).mgmt = d.mgmt := rfl
@[simp] theorem modSec_count (d : Dev) (f : SecSt → SecSt) : (modSec d f).count = d.count := rfl
@[simp] theorem modSec_log (d : Dev) (f : SecSt → SecSt) : (modSec d f).log = d.log := rfl
@[simp] theorem modSec_power (d : Dev) (f : SecSt → SecSt) : (modSec d f).power = d.power := rfl
@[simp] theorem modSec_dict (d : Dev) (f : SecSt → SecSt) : (modSec d f).dict = d.dict := rfl
@[simp] theorem modSec_sec (d : Dev) (f : SecSt → SecSt) : (modSec d f).sec = f d.sec := rfl
@[simp] theorem modLog_tc (d : Dev) (f : LogSt → LogSt) : (modLog d f).tc = d.tc := rfl
@[simp] theorem modLog_resetTc (d : Dev) (f : LogSt → LogSt) : (modLog d f).resetTc = d.resetTc := rfl
@[simp] theorem modLog_stamp (d : Dev) (f : LogSt → LogSt) : (modLog d f).stamp = d.stamp := rfl
@[simp] theorem modLog_fresh (d : Dev) (f : LogSt → LogSt) : (modLog d f).fresh = d.fresh := rfl
@[simp] theorem modLog_tiles (d : Dev) (f : LogSt → LogSt) : (modLog d f).tiles = d.tiles := rfl
@[simp] theorem modLog_sigs (d : Dev) (f : LogSt → LogSt) : (modLog d f).sigs = d.sigs := rfl
@[simp] theorem modLog_mem (d : Dev) (f : LogSt → LogSt) : (modLog d f).mem = d.mem := rfl
@[simp] theorem modLog_curv (d : Dev) (f : LogSt → LogSt) : (modLog d f).curv = d.curv := rfl
@[simp] theorem modLog_fab (d : Dev) (f : LogSt → LogSt) : (modLog d f).fab = d.fab := rfl
@[simp] theorem modLog_safety (d : Dev) (f : LogSt → LogSt) : (modLog d f).safety = d.safety := rfl
@[simp] theorem modLog_host (d : Dev) (f : LogSt → LogSt) : (modLog d f).host = d.host := rfl
@[simp] theorem modLog_mgmt (d : Dev) (f : LogSt → LogSt) : (modLog d f).mgmt = d.mgmt := rfl
@[simp] theorem modLog_sec (d : Dev) (f : LogSt → LogSt) : (modLog d f).sec = d.sec := rfl
@[simp] theorem modLog_count (d : Dev) (f : LogSt → LogSt) : (modLog d f).count = d.count := rfl
@[simp] theorem modLog_power (d : Dev) (f : LogSt → LogSt) : (modLog d f).power = d.power := rfl
@[simp] theorem modLog_dict (d : Dev) (f : LogSt → LogSt) : (modLog d f).dict = d.dict := rfl
@[simp] theorem modLog_log (d : Dev) (f : LogSt → LogSt) : (modLog d f).log = f d.log := rfl
@[simp] theorem modCount_tc (d : Dev) (f : CountSt → CountSt) : (modCount d f).tc = d.tc := rfl
@[simp] theorem modCount_resetTc (d : Dev) (f : CountSt → CountSt) : (modCount d f).resetTc = d.resetTc := rfl
@[simp] theorem modCount_stamp (d : Dev) (f : CountSt → CountSt) : (modCount d f).stamp = d.stamp := rfl
@[simp] theorem modCount_fresh (d : Dev) (f : CountSt → CountSt) : (modCount d f).fresh = d.fresh := rfl
@[simp] theorem modCount_tiles (d : Dev) (f : CountSt → CountSt) : (modCount d f).tiles = d.tiles := rfl
@[simp] theorem modCount_sigs (d : Dev) (f : CountSt → CountSt) : (modCount d f).sigs = d.sigs := rfl
@[simp] theorem modCount_mem (d : Dev) (f : CountSt → CountSt) : (modCount d f).mem = d.mem := rfl
@[simp] theorem modCount_curv (d : Dev) (f : CountSt → CountSt) : (modCount d f).curv = d.curv := rfl
@[simp] theorem modCount_fab (d : Dev) (f : CountSt → CountSt) : (modCount d f).fab = d.fab := rfl
@[simp] theorem modCount_safety (d : Dev) (f : CountSt → CountSt) : (modCount d f).safety = d.safety := rfl
@[simp] theorem modCount_host (d : Dev) (f : CountSt → CountSt) : (modCount d f).host = d.host := rfl
@[simp] theorem modCount_mgmt (d : Dev) (f : CountSt → CountSt) : (modCount d f).mgmt = d.mgmt := rfl
@[simp] theorem modCount_sec (d : Dev) (f : CountSt → CountSt) : (modCount d f).sec = d.sec := rfl
@[simp] theorem modCount_log (d : Dev) (f : CountSt → CountSt) : (modCount d f).log = d.log := rfl
@[simp] theorem modCount_power (d : Dev) (f : CountSt → CountSt) : (modCount d f).power = d.power := rfl
@[simp] theorem modCount_dict (d : Dev) (f : CountSt → CountSt) : (modCount d f).dict = d.dict := rfl
@[simp] theorem modCount_count (d : Dev) (f : CountSt → CountSt) : (modCount d f).count = f d.count := rfl
@[simp] theorem modPower_tc (d : Dev) (f : PowerSt → PowerSt) : (modPower d f).tc = d.tc := rfl
@[simp] theorem modPower_resetTc (d : Dev) (f : PowerSt → PowerSt) : (modPower d f).resetTc = d.resetTc := rfl
@[simp] theorem modPower_stamp (d : Dev) (f : PowerSt → PowerSt) : (modPower d f).stamp = d.stamp := rfl
@[simp] theorem modPower_fresh (d : Dev) (f : PowerSt → PowerSt) : (modPower d f).fresh = d.fresh := rfl
@[simp] theorem modPower_tiles (d : Dev) (f : PowerSt → PowerSt) : (modPower d f).tiles = d.tiles := rfl
@[simp] theorem modPower_sigs (d : Dev) (f : PowerSt → PowerSt) : (modPower d f).sigs = d.sigs := rfl
@[simp] theorem modPower_mem (d : Dev) (f : PowerSt → PowerSt) : (modPower d f).mem = d.mem := rfl
@[simp] theorem modPower_curv (d : Dev) (f : PowerSt → PowerSt) : (modPower d f).curv = d.curv := rfl
@[simp] theorem modPower_fab (d : Dev) (f : PowerSt → PowerSt) : (modPower d f).fab = d.fab := rfl
@[simp] theorem modPower_safety (d : Dev) (f : PowerSt → PowerSt) : (modPower d f).safety = d.safety := rfl
@[simp] theorem modPower_host (d : Dev) (f : PowerSt → PowerSt) : (modPower d f).host = d.host := rfl
@[simp] theorem modPower_mgmt (d : Dev) (f : PowerSt → PowerSt) : (modPower d f).mgmt = d.mgmt := rfl
@[simp] theorem modPower_sec (d : Dev) (f : PowerSt → PowerSt) : (modPower d f).sec = d.sec := rfl
@[simp] theorem modPower_count (d : Dev) (f : PowerSt → PowerSt) : (modPower d f).count = d.count := rfl
@[simp] theorem modPower_log (d : Dev) (f : PowerSt → PowerSt) : (modPower d f).log = d.log := rfl
@[simp] theorem modPower_dict (d : Dev) (f : PowerSt → PowerSt) : (modPower d f).dict = d.dict := rfl
@[simp] theorem modPower_power (d : Dev) (f : PowerSt → PowerSt) : (modPower d f).power = f d.power := rfl
@[simp] theorem modQuad_tc (d : Dev) (q : Nat) (f : QuadSt → QuadSt) : (modQuad d q f).tc = d.tc := rfl
@[simp] theorem modQuad_resetTc (d : Dev) (q : Nat) (f : QuadSt → QuadSt) : (modQuad d q f).resetTc = d.resetTc := rfl
@[simp] theorem modQuad_stamp (d : Dev) (q : Nat) (f : QuadSt → QuadSt) : (modQuad d q f).stamp = d.stamp := rfl
@[simp] theorem modQuad_fresh (d : Dev) (q : Nat) (f : QuadSt → QuadSt) : (modQuad d q f).fresh = d.fresh := rfl
@[simp] theorem modQuad_tiles (d : Dev) (q : Nat) (f : QuadSt → QuadSt) : (modQuad d q f).tiles = d.tiles := rfl
@[simp] theorem modQuad_sigs (d : Dev) (q : Nat) (f : QuadSt → QuadSt) : (modQuad d q f).sigs = d.sigs := rfl
@[simp] theorem modQuad_mem (d : Dev) (q : Nat) (f : QuadSt → QuadSt) : (modQuad d q f).mem = d.mem := rfl
@[simp] theorem modQuad_curv (d : Dev) (q : Nat) (f : QuadSt → QuadSt) : (modQuad d q f).curv = d.curv := rfl
@[simp] theorem modQuad_fab (d : Dev) (q : Nat) (f : QuadSt → QuadSt) : (modQuad d q f).fab = d.fab := rfl
@[simp] theorem modQuad_safety (d : Dev) (q : Nat) (f : QuadSt → QuadSt) : (modQuad d q f).safety = d.safety := rfl
@[simp] theorem modQuad_host (d : Dev) (q : Nat) (f : QuadSt → QuadSt) : (modQuad d q f).host = d.host := rfl
@[simp] theorem modQuad_mgmt (d : Dev) (q : Nat) (f : QuadSt → QuadSt) : (modQuad d q f).mgmt = d.mgmt := rfl
@[simp] theorem modQuad_sec (d : Dev) (q : Nat) (f : QuadSt → QuadSt) : (modQuad d q f).sec = d.sec := rfl
@[simp] theorem modQuad_count (d : Dev) (q : Nat) (f : QuadSt → QuadSt) : (modQuad d q f).count = d.count := rfl
@[simp] theorem modQuad_log (d : Dev) (q : Nat) (f : QuadSt → QuadSt) : (modQuad d q f).log = d.log := rfl
@[simp] theorem modQuad_dict (d : Dev) (q : Nat) (f : QuadSt → QuadSt) : (modQuad d q f).dict = d.dict := rfl
@[simp] theorem modMem_tc (d : Dev) (f : MemSt → MemSt) : (modMem d f).tc = d.tc := rfl
@[simp] theorem modMem_resetTc (d : Dev) (f : MemSt → MemSt) : (modMem d f).resetTc = d.resetTc := rfl
@[simp] theorem modMem_stamp (d : Dev) (f : MemSt → MemSt) : (modMem d f).stamp = d.stamp := rfl
@[simp] theorem modMem_fresh (d : Dev) (f : MemSt → MemSt) : (modMem d f).fresh = d.fresh := rfl
@[simp] theorem modMem_tiles (d : Dev) (f : MemSt → MemSt) : (modMem d f).tiles = d.tiles := rfl
@[simp] theorem modMem_sigs (d : Dev) (f : MemSt → MemSt) : (modMem d f).sigs = d.sigs := rfl
@[simp] theorem modMem_curv (d : Dev) (f : MemSt → MemSt) : (modMem d f).curv = d.curv := rfl
@[simp] theorem modMem_fab (d : Dev) (f : MemSt → MemSt) : (modMem d f).fab = d.fab := rfl
@[simp] theorem modMem_safety (d : Dev) (f : MemSt → MemSt) : (modMem d f).safety = d.safety := rfl
@[simp] theorem modMem_host (d : Dev) (f : MemSt → MemSt) : (modMem d f).host = d.host := rfl
@[simp] theorem modMem_mgmt (d : Dev) (f : MemSt → MemSt) : (modMem d f).mgmt = d.mgmt := rfl
@[simp] theorem modMem_sec (d : Dev) (f : MemSt → MemSt) : (modMem d f).sec = d.sec := rfl
@[simp] theorem modMem_count (d : Dev) (f : MemSt → MemSt) : (modMem d f).count = d.count := rfl
@[simp] theorem modMem_log (d : Dev) (f : MemSt → MemSt) : (modMem d f).log = d.log := rfl
@[simp] theorem modMem_power (d : Dev) (f : MemSt → MemSt) : (modMem d f).power = d.power := rfl
@[simp] theorem modMem_dict (d : Dev) (f : MemSt → MemSt) : (modMem d f).dict = d.dict := rfl
@[simp] theorem modMem_mem (d : Dev) (f : MemSt → MemSt) : (modMem d f).mem = f d.mem := rfl
@[simp] theorem putAlloc_tc (d : Dev) (n : Nat) (a : Option Alloc) : (putAlloc d n a).tc = d.tc := rfl
@[simp] theorem putAlloc_resetTc (d : Dev) (n : Nat) (a : Option Alloc) : (putAlloc d n a).resetTc = d.resetTc := rfl
@[simp] theorem putAlloc_stamp (d : Dev) (n : Nat) (a : Option Alloc) : (putAlloc d n a).stamp = d.stamp := rfl
@[simp] theorem putAlloc_fresh (d : Dev) (n : Nat) (a : Option Alloc) : (putAlloc d n a).fresh = d.fresh := rfl
@[simp] theorem putAlloc_tiles (d : Dev) (n : Nat) (a : Option Alloc) : (putAlloc d n a).tiles = d.tiles := rfl
@[simp] theorem putAlloc_sigs (d : Dev) (n : Nat) (a : Option Alloc) : (putAlloc d n a).sigs = d.sigs := rfl
@[simp] theorem putAlloc_curv (d : Dev) (n : Nat) (a : Option Alloc) : (putAlloc d n a).curv = d.curv := rfl
@[simp] theorem putAlloc_fab (d : Dev) (n : Nat) (a : Option Alloc) : (putAlloc d n a).fab = d.fab := rfl
@[simp] theorem putAlloc_safety (d : Dev) (n : Nat) (a : Option Alloc) : (putAlloc d n a).safety = d.safety := rfl
@[simp] theorem putAlloc_host (d : Dev) (n : Nat) (a : Option Alloc) : (putAlloc d n a).host = d.host := rfl
@[simp] theorem putAlloc_mgmt (d : Dev) (n : Nat) (a : Option Alloc) : (putAlloc d n a).mgmt = d.mgmt := rfl
@[simp] theorem putAlloc_sec (d : Dev) (n : Nat) (a : Option Alloc) : (putAlloc d n a).sec = d.sec := rfl
@[simp] theorem putAlloc_count (d : Dev) (n : Nat) (a : Option Alloc) : (putAlloc d n a).count = d.count := rfl
@[simp] theorem putAlloc_log (d : Dev) (n : Nat) (a : Option Alloc) : (putAlloc d n a).log = d.log := rfl
@[simp] theorem putAlloc_power (d : Dev) (n : Nat) (a : Option Alloc) : (putAlloc d n a).power = d.power := rfl
@[simp] theorem putAlloc_dict (d : Dev) (n : Nat) (a : Option Alloc) : (putAlloc d n a).dict = d.dict := rfl
@[simp] theorem spWrite_tc (d : Dev) (t : TileId) (a : Nat) (b : List Byte) : (spWrite d t a b).tc = d.tc := rfl
@[simp] theorem spWrite_resetTc (d : Dev) (t : TileId) (a : Nat) (b : List Byte) : (spWrite d t a b).resetTc = d.resetTc := rfl
@[simp] theorem spWrite_stamp (d : Dev) (t : TileId) (a : Nat) (b : List Byte) : (spWrite d t a b).stamp = d.stamp := rfl
@[simp] theorem spWrite_fresh (d : Dev) (t : TileId) (a : Nat) (b : List Byte) : (spWrite d t a b).fresh = d.fresh := rfl
@[simp] theorem spWrite_tiles (d : Dev) (t : TileId) (a : Nat) (b : List Byte) : (spWrite d t a b).tiles = d.tiles := rfl
@[simp] theorem spWrite_sigs (d : Dev) (t : TileId) (a : Nat) (b : List Byte) : (spWrite d t a b).sigs = d.sigs := rfl
@[simp] theorem spWrite_curv (d : Dev) (t : TileId) (a : Nat) (b : List Byte) : (spWrite d t a b).curv = d.curv := rfl
@[simp] theorem spWrite_fab (d : Dev) (t : TileId) (a : Nat) (b : List Byte) : (spWrite d t a b).fab = d.fab := rfl
@[simp] theorem spWrite_safety (d : Dev) (t : TileId) (a : Nat) (b : List Byte) : (spWrite d t a b).safety = d.safety := rfl
@[simp] theorem spWrite_host (d : Dev) (t : TileId) (a : Nat) (b : List Byte) : (spWrite d t a b).host = d.host := rfl
@[simp] theorem spWrite_mgmt (d : Dev) (t : TileId) (a : Nat) (b : List Byte) : (spWrite d t a b).mgmt = d.mgmt := rfl
@[simp] theorem spWrite_sec (d : Dev) (t : TileId) (a : Nat) (b : List Byte) : (spWrite d t a b).sec = d.sec := rfl
@[simp] theorem spWrite_count (d : Dev) (t : TileId) (a : Nat) (b : List Byte) : (spWrite d t a b).count = d.count := rfl
@[simp] theorem spWrite_log (d : Dev) (t : TileId) (a : Nat) (b : List Byte) : (spWrite d t a b).log = d.log := rfl
@[simp] theorem spWrite_power (d : Dev) (t : TileId) (a : Nat) (b : List Byte) : (spWrite d t a b).power = d.power := rfl
@[simp] theorem spWrite_dict (d : Dev) (t : TileId) (a : Nat) (b : List Byte) : (spWrite d t a b).dict = d.dict := rfl
@[simp] theorem spUndefine_tc (d : Dev) (t : TileId) (a n : Nat) : (spUndefine d t a n).tc = d.tc := rfl
@[simp] theorem spUndefine_resetTc (d : Dev) (t : TileId) (a n : Nat) : (spUndefine d t a n).resetTc = d.resetTc := rfl
@[simp] theorem spUndefine_stamp (d : Dev) (t : TileId) (a n : Nat) : (spUndefine d t a n).stamp = d.stamp := rfl
@[simp] theorem spUndefine_tiles (d : Dev) (t : TileId) (a n : Nat) : (spUndefine d t a n).tiles = d.tiles := rfl
@[simp] theorem spUndefine_sigs (d : Dev) (t : TileId) (a n : Nat) : (spUndefine d t a n).sigs = d.sigs := rfl
@[simp] theorem spUndefine_curv (d : Dev) (t : TileId) (a n : Nat) : (spUndefine d t a n).curv = d.curv := rfl
@[simp] theorem spUndefine_fab (d : Dev) (t : TileId) (a n : Nat) : (spUndefine d t a n).fab = d.fab := rfl
@[simp] theorem spUndefine_safety (d : Dev) (t : TileId) (a n : Nat) : (spUndefine d t a n).safety = d.safety := rfl
@[simp] theorem spUndefine_host (d : Dev) (t : TileId) (a n : Nat) : (spUndefine d t a n).host = d.host := rfl
@[simp] theorem spUndefine_mgmt (d : Dev) (t : TileId) (a n : Nat) : (spUndefine d t a n).mgmt = d.mgmt := rfl
@[simp] theorem spUndefine_sec (d : Dev) (t : TileId) (a n : Nat) : (spUndefine d t a n).sec = d.sec := rfl
@[simp] theorem spUndefine_count (d : Dev) (t : TileId) (a n : Nat) : (spUndefine d t a n).count = d.count := rfl
@[simp] theorem spUndefine_log (d : Dev) (t : TileId) (a n : Nat) : (spUndefine d t a n).log = d.log := rfl
@[simp] theorem spUndefine_power (d : Dev) (t : TileId) (a n : Nat) : (spUndefine d t a n).power = d.power := rfl
@[simp] theorem spUndefine_dict (d : Dev) (t : TileId) (a n : Nat) : (spUndefine d t a n).dict = d.dict := rfl
@[simp] theorem spUndefine_fresh (d : Dev) (t : TileId) (a n : Nat) : (spUndefine d t a n).fresh = d.fresh + 1 := rfl
@[simp] theorem dset_tc (d : Dev) (i j v : Nat) : (dset d i j v).tc = d.tc := rfl
@[simp] theorem dset_resetTc (d : Dev) (i j v : Nat) : (dset d i j v).resetTc = d.resetTc := rfl
@[simp] theorem dset_stamp (d : Dev) (i j v : Nat) : (dset d i j v).stamp = d.stamp := rfl
@[simp] theorem dset_fresh (d : Dev) (i j v : Nat) : (dset d i j v).fresh = d.fresh := rfl
@[simp] theorem dset_tiles (d : Dev) (i j v : Nat) : (dset d i j v).tiles = d.tiles := rfl
@[simp] theorem dset_sigs (d : Dev) (i j v : Nat) : (dset d i j v).sigs = d.sigs := rfl
@[simp] theorem dset_mem (d : Dev) (i j v : Nat) : (dset d i j v).mem = d.mem := rfl
@[simp] theorem dset_curv (d : Dev) (i j v : Nat) : (dset d i j v).curv = d.curv := rfl
@[simp] theorem dset_fab (d : Dev) (i j v : Nat) : (dset d i j v).fab = d.fab := rfl
@[simp] theorem dset_safety (d : Dev) (i j v : Nat) : (dset d i j v).safety = d.safety := rfl
@[simp] theorem dset_host (d : Dev) (i j v : Nat) : (dset d i j v).host = d.host := rfl
@[simp] theorem dset_mgmt (d : Dev) (i j v : Nat) : (dset d i j v).mgmt = d.mgmt := rfl
@[simp] theorem dset_sec (d : Dev) (i j v : Nat) : (dset d i j v).sec = d.sec := rfl
@[simp] theorem dset_count (d : Dev) (i j v : Nat) : (dset d i j v).count = d.count := rfl
@[simp] theorem dset_log (d : Dev) (i j v : Nat) : (dset d i j v).log = d.log := rfl
@[simp] theorem dset_power (d : Dev) (i j v : Nat) : (dset d i j v).power = d.power := rfl
@[simp] theorem dset_dict (d : Dev) (i j v : Nat) : (dset d i j v).dict = fput 0 d.dict (ekey i j) (if v = dictDefault (ekey i j) then 0 else v + 1) := rfl
@[simp] theorem dbump_tc (d : Dev) (i j n w : Nat) : (dbump d i j n w).tc = d.tc := rfl
@[simp] theorem dbump_resetTc (d : Dev) (i j n w : Nat) : (dbump d i j n w).resetTc = d.resetTc := rfl
@[simp] theorem dbump_stamp (d : Dev) (i j n w : Nat) : (dbump d i j n w).stamp = d.stamp := rfl
@[simp] theorem dbump_fresh (d : Dev) (i j n w : Nat) : (dbump d i j n w).fresh = d.fresh := rfl
@[simp] theorem dbump_tiles (d : Dev) (i j n w : Nat) : (dbump d i j n w).tiles = d.tiles := rfl
@[simp] theorem dbump_sigs (d : Dev) (i j n w : Nat) : (dbump d i j n w).sigs = d.sigs := rfl
@[simp] theorem dbump_mem (d : Dev) (i j n w : Nat) : (dbump d i j n w).mem = d.mem := rfl
@[simp] theorem dbump_curv (d : Dev) (i j n w : Nat) : (dbump d i j n w).curv = d.curv := rfl
@[simp] theorem dbump_fab (d : Dev) (i j n w : Nat) : (dbump d i j n w).fab = d.fab := rfl
@[simp] theorem dbump_safety (d : Dev) (i j n w : Nat) : (dbump d i j n w).safety = d.safety := rfl
@[simp] theorem dbump_host (d : Dev) (i j n w : Nat) : (dbump d i j n w).host = d.host := rfl
@[simp] theorem dbump_mgmt (d : Dev) (i j n w : Nat) : (dbump d i j n w).mgmt = d.mgmt := rfl
@[simp] theorem dbump_sec (d : Dev) (i j n w : Nat) : (dbump d i j n w).sec = d.sec := rfl
@[simp] theorem dbump_count (d : Dev) (i j n w : Nat) : (dbump d i j n w).count = d.count := rfl
@[simp] theorem dbump_log (d : Dev) (i j n w : Nat) : (dbump d i j n w).log = d.log := rfl
@[simp] theorem dbump_power (d : Dev) (i j n w : Nat) : (dbump d i j n w).power = d.power := rfl
@[simp] theorem bump_tc (d : Dev) (b c n : Nat) : (bump d b c n).tc = d.tc := rfl
@[simp] theorem bump_resetTc (d : Dev) (b c n : Nat) : (bump d b c n).resetTc = d.resetTc := rfl
@[simp] theorem bump_stamp (d : Dev) (b c n : Nat) : (bump d b c n).stamp = d.stamp := rfl
@[simp] theorem bump_fresh (d : Dev) (b c n : Nat) : (bump d b c n).fresh = d.fresh := rfl
@[simp] theorem bump_tiles (d : Dev) (b c n : Nat) : (bump d b c n).tiles = d.tiles := rfl
@[simp] theorem bump_sigs (d : Dev) (b c n : Nat) : (bump d b c n).sigs = d.sigs := rfl
@[simp] theorem bump_mem (d : Dev) (b c n : Nat) : (bump d b c n).mem = d.mem := rfl
@[simp] theorem bump_curv (d : Dev) (b c n : Nat) : (bump d b c n).curv = d.curv := rfl
@[simp] theorem bump_fab (d : Dev) (b c n : Nat) : (bump d b c n).fab = d.fab := rfl
@[simp] theorem bump_safety (d : Dev) (b c n : Nat) : (bump d b c n).safety = d.safety := rfl
@[simp] theorem bump_host (d : Dev) (b c n : Nat) : (bump d b c n).host = d.host := rfl
@[simp] theorem bump_mgmt (d : Dev) (b c n : Nat) : (bump d b c n).mgmt = d.mgmt := rfl
@[simp] theorem bump_sec (d : Dev) (b c n : Nat) : (bump d b c n).sec = d.sec := rfl
@[simp] theorem bump_log (d : Dev) (b c n : Nat) : (bump d b c n).log = d.log := rfl
@[simp] theorem bump_power (d : Dev) (b c n : Nat) : (bump d b c n).power = d.power := rfl
@[simp] theorem bump_dict (d : Dev) (b c n : Nat) : (bump d b c n).dict = d.dict := rfl
@[simp] theorem portCtr_tc (d : Dev) (p c n : Nat) : (portCtr d p c n).tc = d.tc := rfl
@[simp] theorem portCtr_resetTc (d : Dev) (p c n : Nat) : (portCtr d p c n).resetTc = d.resetTc := rfl
@[simp] theorem portCtr_stamp (d : Dev) (p c n : Nat) : (portCtr d p c n).stamp = d.stamp := rfl
@[simp] theorem portCtr_fresh (d : Dev) (p c n : Nat) : (portCtr d p c n).fresh = d.fresh := rfl
@[simp] theorem portCtr_tiles (d : Dev) (p c n : Nat) : (portCtr d p c n).tiles = d.tiles := rfl
@[simp] theorem portCtr_sigs (d : Dev) (p c n : Nat) : (portCtr d p c n).sigs = d.sigs := rfl
@[simp] theorem portCtr_mem (d : Dev) (p c n : Nat) : (portCtr d p c n).mem = d.mem := rfl
@[simp] theorem portCtr_curv (d : Dev) (p c n : Nat) : (portCtr d p c n).curv = d.curv := rfl
@[simp] theorem portCtr_fab (d : Dev) (p c n : Nat) : (portCtr d p c n).fab = d.fab := rfl
@[simp] theorem portCtr_safety (d : Dev) (p c n : Nat) : (portCtr d p c n).safety = d.safety := rfl
@[simp] theorem portCtr_host (d : Dev) (p c n : Nat) : (portCtr d p c n).host = d.host := rfl
@[simp] theorem portCtr_mgmt (d : Dev) (p c n : Nat) : (portCtr d p c n).mgmt = d.mgmt := rfl
@[simp] theorem portCtr_sec (d : Dev) (p c n : Nat) : (portCtr d p c n).sec = d.sec := rfl
@[simp] theorem portCtr_log (d : Dev) (p c n : Nat) : (portCtr d p c n).log = d.log := rfl
@[simp] theorem portCtr_power (d : Dev) (p c n : Nat) : (portCtr d p c n).power = d.power := rfl
@[simp] theorem portCtr_dict (d : Dev) (p c n : Nat) : (portCtr d p c n).dict = d.dict := rfl
@[simp] theorem ucieCtr_tc (d : Dev) (c n : Nat) : (ucieCtr d c n).tc = d.tc := rfl
@[simp] theorem ucieCtr_resetTc (d : Dev) (c n : Nat) : (ucieCtr d c n).resetTc = d.resetTc := rfl
@[simp] theorem ucieCtr_stamp (d : Dev) (c n : Nat) : (ucieCtr d c n).stamp = d.stamp := rfl
@[simp] theorem ucieCtr_fresh (d : Dev) (c n : Nat) : (ucieCtr d c n).fresh = d.fresh := rfl
@[simp] theorem ucieCtr_tiles (d : Dev) (c n : Nat) : (ucieCtr d c n).tiles = d.tiles := rfl
@[simp] theorem ucieCtr_sigs (d : Dev) (c n : Nat) : (ucieCtr d c n).sigs = d.sigs := rfl
@[simp] theorem ucieCtr_mem (d : Dev) (c n : Nat) : (ucieCtr d c n).mem = d.mem := rfl
@[simp] theorem ucieCtr_curv (d : Dev) (c n : Nat) : (ucieCtr d c n).curv = d.curv := rfl
@[simp] theorem ucieCtr_fab (d : Dev) (c n : Nat) : (ucieCtr d c n).fab = d.fab := rfl
@[simp] theorem ucieCtr_safety (d : Dev) (c n : Nat) : (ucieCtr d c n).safety = d.safety := rfl
@[simp] theorem ucieCtr_host (d : Dev) (c n : Nat) : (ucieCtr d c n).host = d.host := rfl
@[simp] theorem ucieCtr_mgmt (d : Dev) (c n : Nat) : (ucieCtr d c n).mgmt = d.mgmt := rfl
@[simp] theorem ucieCtr_sec (d : Dev) (c n : Nat) : (ucieCtr d c n).sec = d.sec := rfl
@[simp] theorem ucieCtr_log (d : Dev) (c n : Nat) : (ucieCtr d c n).log = d.log := rfl
@[simp] theorem ucieCtr_power (d : Dev) (c n : Nat) : (ucieCtr d c n).power = d.power := rfl
@[simp] theorem ucieCtr_dict (d : Dev) (c n : Nat) : (ucieCtr d c n).dict = d.dict := rfl
@[simp] theorem dieLCtr_tc (d : Dev) (c n : Nat) : (dieLCtr d c n).tc = d.tc := rfl
@[simp] theorem dieLCtr_resetTc (d : Dev) (c n : Nat) : (dieLCtr d c n).resetTc = d.resetTc := rfl
@[simp] theorem dieLCtr_stamp (d : Dev) (c n : Nat) : (dieLCtr d c n).stamp = d.stamp := rfl
@[simp] theorem dieLCtr_fresh (d : Dev) (c n : Nat) : (dieLCtr d c n).fresh = d.fresh := rfl
@[simp] theorem dieLCtr_tiles (d : Dev) (c n : Nat) : (dieLCtr d c n).tiles = d.tiles := rfl
@[simp] theorem dieLCtr_sigs (d : Dev) (c n : Nat) : (dieLCtr d c n).sigs = d.sigs := rfl
@[simp] theorem dieLCtr_mem (d : Dev) (c n : Nat) : (dieLCtr d c n).mem = d.mem := rfl
@[simp] theorem dieLCtr_curv (d : Dev) (c n : Nat) : (dieLCtr d c n).curv = d.curv := rfl
@[simp] theorem dieLCtr_fab (d : Dev) (c n : Nat) : (dieLCtr d c n).fab = d.fab := rfl
@[simp] theorem dieLCtr_safety (d : Dev) (c n : Nat) : (dieLCtr d c n).safety = d.safety := rfl
@[simp] theorem dieLCtr_host (d : Dev) (c n : Nat) : (dieLCtr d c n).host = d.host := rfl
@[simp] theorem dieLCtr_mgmt (d : Dev) (c n : Nat) : (dieLCtr d c n).mgmt = d.mgmt := rfl
@[simp] theorem dieLCtr_sec (d : Dev) (c n : Nat) : (dieLCtr d c n).sec = d.sec := rfl
@[simp] theorem dieLCtr_log (d : Dev) (c n : Nat) : (dieLCtr d c n).log = d.log := rfl
@[simp] theorem dieLCtr_power (d : Dev) (c n : Nat) : (dieLCtr d c n).power = d.power := rfl
@[simp] theorem dieLCtr_dict (d : Dev) (c n : Nat) : (dieLCtr d c n).dict = d.dict := rfl
@[simp] theorem post_tc (d : Dev) (c v s : Nat) (x : List Byte) : (post d c v s x).tc = d.tc := rfl
@[simp] theorem post_resetTc (d : Dev) (c v s : Nat) (x : List Byte) : (post d c v s x).resetTc = d.resetTc := rfl
@[simp] theorem post_stamp (d : Dev) (c v s : Nat) (x : List Byte) : (post d c v s x).stamp = d.stamp := rfl
@[simp] theorem post_fresh (d : Dev) (c v s : Nat) (x : List Byte) : (post d c v s x).fresh = d.fresh := rfl
@[simp] theorem post_tiles (d : Dev) (c v s : Nat) (x : List Byte) : (post d c v s x).tiles = d.tiles := rfl
@[simp] theorem post_sigs (d : Dev) (c v s : Nat) (x : List Byte) : (post d c v s x).sigs = d.sigs := rfl
@[simp] theorem post_mem (d : Dev) (c v s : Nat) (x : List Byte) : (post d c v s x).mem = d.mem := rfl
@[simp] theorem post_curv (d : Dev) (c v s : Nat) (x : List Byte) : (post d c v s x).curv = d.curv := rfl
@[simp] theorem post_fab (d : Dev) (c v s : Nat) (x : List Byte) : (post d c v s x).fab = d.fab := rfl
@[simp] theorem post_safety (d : Dev) (c v s : Nat) (x : List Byte) : (post d c v s x).safety = d.safety := rfl
@[simp] theorem post_host (d : Dev) (c v s : Nat) (x : List Byte) : (post d c v s x).host = d.host := rfl
@[simp] theorem post_mgmt (d : Dev) (c v s : Nat) (x : List Byte) : (post d c v s x).mgmt = d.mgmt := rfl
@[simp] theorem post_sec (d : Dev) (c v s : Nat) (x : List Byte) : (post d c v s x).sec = d.sec := rfl
@[simp] theorem post_count (d : Dev) (c v s : Nat) (x : List Byte) : (post d c v s x).count = d.count := rfl
@[simp] theorem post_power (d : Dev) (c v s : Nat) (x : List Byte) : (post d c v s x).power = d.power := rfl
@[simp] theorem post_dict (d : Dev) (c v s : Nat) (x : List Byte) : (post d c v s x).dict = d.dict := rfl
@[simp] theorem makeSig_tc (d : Dev) (s : Sig) : (makeSig d s).tc = d.tc := rfl
@[simp] theorem makeSig_resetTc (d : Dev) (s : Sig) : (makeSig d s).resetTc = d.resetTc := rfl
@[simp] theorem makeSig_stamp (d : Dev) (s : Sig) : (makeSig d s).stamp = d.stamp := rfl
@[simp] theorem makeSig_fresh (d : Dev) (s : Sig) : (makeSig d s).fresh = d.fresh := rfl
@[simp] theorem makeSig_tiles (d : Dev) (s : Sig) : (makeSig d s).tiles = d.tiles := rfl
@[simp] theorem makeSig_mem (d : Dev) (s : Sig) : (makeSig d s).mem = d.mem := rfl
@[simp] theorem makeSig_curv (d : Dev) (s : Sig) : (makeSig d s).curv = d.curv := rfl
@[simp] theorem makeSig_fab (d : Dev) (s : Sig) : (makeSig d s).fab = d.fab := rfl
@[simp] theorem makeSig_safety (d : Dev) (s : Sig) : (makeSig d s).safety = d.safety := rfl
@[simp] theorem makeSig_host (d : Dev) (s : Sig) : (makeSig d s).host = d.host := rfl
@[simp] theorem makeSig_mgmt (d : Dev) (s : Sig) : (makeSig d s).mgmt = d.mgmt := rfl
@[simp] theorem makeSig_sec (d : Dev) (s : Sig) : (makeSig d s).sec = d.sec := rfl
@[simp] theorem makeSig_count (d : Dev) (s : Sig) : (makeSig d s).count = d.count := rfl
@[simp] theorem makeSig_log (d : Dev) (s : Sig) : (makeSig d s).log = d.log := rfl
@[simp] theorem makeSig_power (d : Dev) (s : Sig) : (makeSig d s).power = d.power := rfl
@[simp] theorem makeSig_dict (d : Dev) (s : Sig) : (makeSig d s).dict = d.dict := rfl
@[simp] theorem makeSig_sigs (d : Dev) (s : Sig) : (makeSig d s).sigs = d.sigs ++ [s] := rfl
@[simp] theorem pushEnt_tc (d : Dev) (t : TileId) (e : QEnt) : (pushEnt d t e).tc = d.tc := rfl
@[simp] theorem pushEnt_resetTc (d : Dev) (t : TileId) (e : QEnt) : (pushEnt d t e).resetTc = d.resetTc := rfl
@[simp] theorem pushEnt_fresh (d : Dev) (t : TileId) (e : QEnt) : (pushEnt d t e).fresh = d.fresh := rfl
@[simp] theorem pushEnt_sigs (d : Dev) (t : TileId) (e : QEnt) : (pushEnt d t e).sigs = d.sigs := rfl
@[simp] theorem pushEnt_mem (d : Dev) (t : TileId) (e : QEnt) : (pushEnt d t e).mem = d.mem := rfl
@[simp] theorem pushEnt_curv (d : Dev) (t : TileId) (e : QEnt) : (pushEnt d t e).curv = d.curv := rfl
@[simp] theorem pushEnt_fab (d : Dev) (t : TileId) (e : QEnt) : (pushEnt d t e).fab = d.fab := rfl
@[simp] theorem pushEnt_safety (d : Dev) (t : TileId) (e : QEnt) : (pushEnt d t e).safety = d.safety := rfl
@[simp] theorem pushEnt_host (d : Dev) (t : TileId) (e : QEnt) : (pushEnt d t e).host = d.host := rfl
@[simp] theorem pushEnt_mgmt (d : Dev) (t : TileId) (e : QEnt) : (pushEnt d t e).mgmt = d.mgmt := rfl
@[simp] theorem pushEnt_sec (d : Dev) (t : TileId) (e : QEnt) : (pushEnt d t e).sec = d.sec := rfl
@[simp] theorem pushEnt_count (d : Dev) (t : TileId) (e : QEnt) : (pushEnt d t e).count = d.count := rfl
@[simp] theorem pushEnt_log (d : Dev) (t : TileId) (e : QEnt) : (pushEnt d t e).log = d.log := rfl
@[simp] theorem pushEnt_power (d : Dev) (t : TileId) (e : QEnt) : (pushEnt d t e).power = d.power := rfl
@[simp] theorem pushEnt_dict (d : Dev) (t : TileId) (e : QEnt) : (pushEnt d t e).dict = d.dict := rfl
@[simp] theorem pushEnt_stamp (d : Dev) (t : TileId) (e : QEnt) : (pushEnt d t e).stamp = d.stamp + 1 := rfl
@[simp] theorem putHost_tc (d : Dev) (m : HostOut) : (putHost d m).tc = d.tc := rfl
@[simp] theorem putHost_resetTc (d : Dev) (m : HostOut) : (putHost d m).resetTc = d.resetTc := rfl
@[simp] theorem putHost_stamp (d : Dev) (m : HostOut) : (putHost d m).stamp = d.stamp := rfl
@[simp] theorem putHost_fresh (d : Dev) (m : HostOut) : (putHost d m).fresh = d.fresh := rfl
@[simp] theorem putHost_tiles (d : Dev) (m : HostOut) : (putHost d m).tiles = d.tiles := rfl
@[simp] theorem putHost_sigs (d : Dev) (m : HostOut) : (putHost d m).sigs = d.sigs := rfl
@[simp] theorem putHost_mem (d : Dev) (m : HostOut) : (putHost d m).mem = d.mem := rfl
@[simp] theorem putHost_curv (d : Dev) (m : HostOut) : (putHost d m).curv = d.curv := rfl
@[simp] theorem putHost_fab (d : Dev) (m : HostOut) : (putHost d m).fab = d.fab := rfl
@[simp] theorem putHost_safety (d : Dev) (m : HostOut) : (putHost d m).safety = d.safety := rfl
@[simp] theorem putHost_mgmt (d : Dev) (m : HostOut) : (putHost d m).mgmt = d.mgmt := rfl
@[simp] theorem putHost_sec (d : Dev) (m : HostOut) : (putHost d m).sec = d.sec := rfl
@[simp] theorem putHost_log (d : Dev) (m : HostOut) : (putHost d m).log = d.log := rfl
@[simp] theorem putHost_power (d : Dev) (m : HostOut) : (putHost d m).power = d.power := rfl
@[simp] theorem putHost_dict (d : Dev) (m : HostOut) : (putHost d m).dict = d.dict := rfl

end Sys2Proof.Machine
end

