-- ==== Sys2Proof/Laws/Memory.lean ====
section
/-!
SUPPORT. What the shared operations do to the memories: most leave them as they are, and every one that writes them
keeps their canonical form.
-/
namespace Sys2Proof.Machine

/-- A fold of steps that each leave the memories leaves them. -/
theorem foldl_mem {α : Type} (f : Dev → α → Dev) (h : ∀ d a, (f d a).mem = d.mem) :
    ∀ (l : List α) (d : Dev), (l.foldl f d).mem = d.mem := by
  intro l
  induction l with
  | nil => intro d; rfl
  | cons a as ih => intro d; rw [List.foldl_cons, ih, h]

/-- A fold of steps that each keep the canonical form keeps it. -/
theorem foldl_wf {α : Type} (f : Dev → α → Dev) (h : ∀ d a, d.mem.wf = true → (f d a).mem.wf = true) :
    ∀ (l : List α) (d : Dev), d.mem.wf = true → (l.foldl f d).mem.wf = true := by
  intro l
  induction l with
  | nil => intro d hd; exact hd
  | cons a as ih => intro d hd; exact ih _ (h _ _ hd)

/-- The memories of the state right after reset are in canonical form. -/
theorem reset_wf : State.reset.dev.mem.wf = true := rfl

theorem wf_parts (m : MemSt) : m.wf = true ↔ memWf m.scratch = true ∧ memWf m.tier = true := by
  simp [MemSt.wf]

/-! ### Writes -/

theorem spWrite_wf (d : Dev) (t : TileId) (a : Nat) (b : List Byte) (h : d.mem.wf = true) :
    (spWrite d t a b).mem.wf = true := by
  rw [wf_parts] at h ⊢
  exact ⟨mwrite_wf b _ _ h.1, h.2⟩

theorem spUndefine_wf (d : Dev) (t : TileId) (a n : Nat) (h : d.mem.wf = true) :
    (spUndefine d t a n).mem.wf = true := by
  rw [wf_parts] at h ⊢
  exact ⟨fclear_wf 0 _ _ _ h.1, h.2⟩

theorem spValidate_wf (d : Dev) (t : TileId) (a n : Nat) (h : d.mem.wf = true) : (spValidate d t a n).mem.wf = true := by
  unfold spValidate
  split
  · exact h
  · exact h

theorem spInvalidate_wf (d : Dev) (t : TileId) (a n : Nat) (h : d.mem.wf = true) : (spInvalidate d t a n).mem.wf = true := by
  unfold spInvalidate
  split
  · exact h
  · refine foldl_wf _ ?_ _ _ h
    intro d i hd
    exact hd

theorem putAlloc_wf (d : Dev) (id : Nat) (a : Option Alloc) (h : d.mem.wf = true) : (putAlloc d id a).mem.wf = true := h

theorem modAlloc_wf (d : Dev) (id : Nat) (f : Alloc → Alloc) (h : d.mem.wf = true) : (modAlloc d id f).mem.wf = true := by
  unfold modAlloc
  split
  · exact h
  · exact h

/-- A step of a fold that counts under a condition leaves the memories. -/
theorem bumpIf_mem (c : Prop) [Decidable c] (d : Dev) (b i n : Nat) : (if c then bump d b i n else d).mem = d.mem := by
  by_cases h : c
  · rw [if_pos h, bump_mem]
  · rw [if_neg h]

/-- Counting the units of an access leaves the memories. -/
@[simp] theorem countUnits_mem (d : Dev) (id slot off n ctr : Nat) : (countUnits d id slot off n ctr).mem = d.mem := by
  unfold countUnits
  split
  · split
    · refine foldl_mem _ (fun d k => ?_) _ _
      split
      · rfl
      · exact bump_mem _ _ _ _
    · split <;> rfl
  · rfl

theorem storeSlot_wf (d : Dev) (id slot off : Nat) (b : List Byte) (h : d.mem.wf = true) :
    (storeSlot d id slot off b).mem.wf = true := by
  unfold storeSlot
  split
  · exact h
  · split
    · exact spWrite_wf _ _ _ _ h
    · rw [wf_parts] at h ⊢
      exact ⟨h.1, mwrite_wf b _ _ h.2⟩

theorem allocWriteSlot_wf (d : Dev) (id slot off : Nat) (b : List Byte) (h : d.mem.wf = true) :
    (allocWriteSlot d id slot off b).mem.wf = true :=
  storeSlot_wf _ id slot off b (by rw [countUnits_mem]; exact h)

theorem allocWrite_wf (d : Dev) (id off : Nat) (b : List Byte) (h : d.mem.wf = true) :
    (allocWrite d id off b).mem.wf = true := allocWriteSlot_wf d id 0 off b h

theorem allocUndefine_wf (d : Dev) (id off n : Nat) (h : d.mem.wf = true) : (allocUndefine d id off n).mem.wf = true := by
  unfold allocUndefine
  split
  · exact h
  · split
    · exact spUndefine_wf _ _ _ _ h
    · rw [wf_parts] at h ⊢
      exact ⟨h.1, fclear_wf 0 _ _ _ h.2⟩

theorem noteOtherWrite_wf (d : Dev) (id : Nat) (h : d.mem.wf = true) : (noteOtherWrite d id).mem.wf = true :=
  modAlloc_wf d id _ h

theorem allocWriteOther_wf (d : Dev) (id off : Nat) (b : List Byte) (h : d.mem.wf = true) :
    (allocWriteOther d id off b).mem.wf = true := by
  have h1 := noteOtherWrite_wf (allocWrite d id off b) id (allocWrite_wf d id off b h)
  unfold allocWriteOther
  simp only []
  split
  · split
    · exact h1
    · exact storeSlot_wf _ _ _ _ _ h1
  · exact h1

/-! ### Operations that leave the memories -/

@[simp] theorem freeNat_mem (d : Dev) : (freeNat d).2.mem = d.mem := rfl

@[simp] theorem tileEv_mem (d : Dev) (t : TileId) (c n : Nat) : (tileEv d t c n).mem = d.mem := by
  unfold tileEv
  simp only []
  by_cases c1 : t.val ≥ 128 ∧ (getCurv d (t.val - 128)).testing
  · rw [if_pos c1]
  · rw [if_neg c1]
    exact foldl_mem _ (fun d i => bumpIf_mem _ _ _ _ _) _ _

@[simp] theorem requestTest_mem (d : Dev) (a b : Nat) (m : Bool) : (requestTest d a b m).mem = d.mem := by
  unfold requestTest
  simp only []
  split
  · simp
  · split
    · simp
    · split
      · simp
      · split <;> simp

@[simp] theorem checkerFlag_mem (d : Dev) (t : TileId) : (checkerFlag d t).mem = d.mem := by
  unfold checkerFlag
  simp only []
  split <;> simp

@[simp] theorem poisonSource_mem (d : Dev) (id off : Nat) : (poisonSource d id off).2.mem = d.mem := by
  unfold poisonSource
  split
  · split
    · rfl
    · split
      · rfl
      · simp only []
        split <;> rfl
  · rfl

@[simp] theorem pump_mem : ∀ (n : Nat) (d : Dev) (p : Nat), (pump n d p).mem = d.mem := by
  intro n
  induction n with
  | zero => intro d p; rfl
  | succ n ih =>
    intro d p
    unfold pump
    split
    · rfl
    · split
      · rfl
      · rw [ih]; rfl

/-- Putting a packet on a port's stream leaves the memories. -/
@[simp] theorem wireSend_mem (d : Dev) (p vc : Nat) (r : Bool) (k : Packet) : (wireSend d p vc r k).mem = d.mem := by
  unfold wireSend
  simp only [pumpPort, pump_mem]
  rfl

@[simp] theorem flushMirror_mem (d : Dev) : (flushMirror d).mem = d.mem := by
  unfold flushMirror
  split
  · rw [foldl_mem _ (fun d m => by simp [wirePush])]; rfl
  · rfl

@[simp] theorem sendMirror_mem (d : Dev) (m : MirrorPkt) : (sendMirror d m).mem = d.mem := by
  simp only [sendMirror, flushMirror_mem]; rfl

@[simp] theorem requestRepair_mem (d : Dev) (id off : Nat) : (requestRepair d id off).mem = d.mem := by
  unfold requestRepair
  split
  · split
    · exact sendMirror_mem _ _
    · rfl
  · rfl

@[simp] theorem pumpHost_mem : ∀ (n : Nat) (d : Dev), (pumpHost n d).mem = d.mem := by
  intro n
  induction n with
  | zero => intro d; rfl
  | succ n ih =>
    intro d
    unfold pumpHost
    split
    · split
      · rw [ih]; simp
      · rfl
    · rfl

@[simp] theorem sendHost_mem (d : Dev) (m : HostOut) : (sendHost d m).mem = d.mem := by
  unfold sendHost
  simp only [pumpHost_mem, modHost_mem]

@[simp] theorem interrupt_mem (d : Dev) (v : Nat) : (interrupt d v).mem = d.mem := by
  unfold interrupt
  split
  · rfl
  · split
    · rfl
    · simp only []
      split <;> simp

@[simp] theorem hostComplete_mem (d : Dev) (q : HQueue) (r : List Byte) : (hostComplete d q r).mem = d.mem := by
  simp [hostComplete]

@[simp] theorem wakeThread_mem (d : Dev) (t : TileId) (th : Thr) : (wakeThread d t th).mem = d.mem := rfl

@[simp] theorem endSwait_mem (d : Dev) (t : TileId) (th : Thr) (v : W64) : (endSwait d t th v).mem = d.mem := by
  unfold endSwait
  split <;> rfl

@[simp] theorem grant_mem (d : Dev) (t : TileId) (w : Waiter) : (grant d t w).mem = d.mem := by
  unfold grant
  split <;> simp

@[simp] theorem serveWaiters_mem : ∀ (n : Nat) (d : Dev) (t : TileId) (s : SemId), (serveWaiters n d t s).mem = d.mem := by
  intro n
  induction n with
  | zero => intro d t s; rfl
  | succ n ih =>
    intro d t s
    unfold serveWaiters
    split
    · rfl
    · split
      · rw [ih]; simp
      · rfl

@[simp] theorem serveSem_mem (d : Dev) (t : TileId) (s : SemId) : (serveSem d t s).mem = d.mem := serveWaiters_mem _ d t s

@[simp] theorem markBackpressure_mem (d : Dev) (t : TileId) (s : SemId) (w : Waiter) : (markBackpressure d t s w).mem = d.mem := by
  unfold markBackpressure
  split
  · split <;> rfl
  · rfl

@[simp] theorem joinSem_mem (d : Dev) (t : TileId) (s : SemId) (w : Waiter) : (joinSem d t s w).mem = d.mem := by
  unfold joinSem
  simp only []
  split
  · simp
  · simp [markLate]

@[simp] theorem leaveSems_mem (d : Dev) (t : TileId) (th : Thr) : (leaveSems d t th).mem = d.mem := by
  unfold leaveSems
  split
  · simp
  · rfl

/-! ### Operations that write the memories and keep their form -/

theorem poisonScratch_wf (d : Dev) (t : TileId) (a : Nat) (h : d.mem.wf = true) : (poisonScratch d t a).mem.wf = true := by
  unfold poisonScratch
  simp only [dbump_mem, post_mem, modMem_mem]
  exact h

theorem poisonUnit_wf (d : Dev) (id off : Nat) (h : d.mem.wf = true) : (poisonUnit d id off).mem.wf = true := by
  unfold poisonUnit
  split
  · exact h
  · split
    · exact poisonScratch_wf _ _ _ h
    · simp only [dbump_mem, post_mem, poisonSource_mem]
      split
      · exact modAlloc_wf _ _ _ h
      · exact h

theorem poisonAlloc_wf (d : Dev) (id off : Nat) (h : d.mem.wf = true) : (poisonAlloc d id off).mem.wf = true := by
  have h1 := poisonUnit_wf d id off h
  unfold poisonAlloc
  simp only []
  split
  · split
    · exact h1
    · rw [requestRepair_mem]; exact h1
  · exact h1

theorem writeOwn_wf (d : Dev) (t : TileId) (a : Nat) (b : List Byte) (h : d.mem.wf = true) :
    (writeOwn d t a b).mem.wf = true := by
  unfold writeOwn
  split
  · exact h
  · exact spWrite_wf _ _ _ _ h

theorem writeOwnAlloc_wf (d : Dev) (id off : Nat) (b : List Byte) (h : d.mem.wf = true) :
    (writeOwnAlloc d id off b).mem.wf = true := by
  unfold writeOwnAlloc
  split
  · simp only [post_mem, poisonSource_mem]; exact h
  · exact allocWriteOther_wf _ _ _ _ h

theorem writeRec_wf (d : Dev) (r : Rec) (h : d.mem.wf = true) : (writeRec d r).mem.wf = true := writeOwn_wf _ _ _ _ h

/-- The end of an entry, whichever tile its signal comes from. -/
theorem endEntFrom_wf (d : Dev) (t : TileId) (e : QEnt) (sig : Bool) (o : Option TileId) (h : d.mem.wf = true) :
    (endEntFrom d t e sig o).mem.wf = true := by
  unfold endEntFrom
  split
  · exact h
  · split
    · exact writeRec_wf _ _ h
    · exact h

theorem endThreadEnt_wf (d : Dev) (t : TileId) (e : QEnt) (sig : Bool) (h : d.mem.wf = true) :
    (endThreadEnt d t e sig).mem.wf = true := endEntFrom_wf d t e sig (some t) h

theorem writeStore_wf (d : Dev) (t : TileId) (s : Nat × Nat × List Byte) (h : d.mem.wf = true) :
    (writeStore d t s).mem.wf = true := by
  unfold writeStore
  split
  · exact h
  · exact spWrite_wf _ _ _ _ h

theorem flushStores_wf (d : Dev) (t : TileId) (th : Thr) (n : Nat) (h : d.mem.wf = true) :
    (flushStores d t th n).mem.wf = true := by
  unfold flushStores
  simp only [modThread_mem]
  exact foldl_wf _ (fun d s h => writeStore_wf d t s h) _ _ h

/-- What a fault leaves on record: its bytes at FAULT_BASE keep the form. -/
theorem faultNoted_wf (d : Dev) (t : TileId) (th : Thr) (c : Nat) (pc : W64) (w : W32) (x : Nat) (h : d.mem.wf = true) :
    (faultNoted d t th c pc w x).mem.wf = true := by
  unfold faultNoted
  simp only [tileEv_mem, post_mem]
  split
  · simp only [makeSig_mem]
    split
    · exact writeOwn_wf _ _ _ _ h
    · exact h
  · split
    · exact writeOwn_wf _ _ _ _ h
    · exact h

theorem threadFault_wf (d : Dev) (t : TileId) (th : Thr) (c : Nat) (pc : W64) (w : W32) (x : Nat) (h : d.mem.wf = true) :
    (threadFault d t th c pc w x).mem.wf = true :=
  faultNoted_wf _ t th c pc w x (by rw [modThread_mem, leaveSems_mem]; exact h)

theorem lateFault_wf (d : Dev) (t : TileId) (th : Thr) (c : Nat) (pc : W64) (w : W32) (x : Nat) (h : d.mem.wf = true) :
    (lateFault d t th c pc w x).mem.wf = true :=
  faultNoted_wf _ t th c pc w x (by rw [modThread_mem]; exact h)

theorem collChunkEnd_wf (d : Dev) (p : Port) (ec code st : Nat) (h : d.mem.wf = true) :
    (collChunkEnd d p ec code st).mem.wf = true := by
  unfold collChunkEnd
  simp only []
  split
  · exact h
  · simp only [modFab_mem]
    have key : ∀ (c : Prop) [Decidable c] (i o : Nat) (b : List Byte),
        (if c then allocWriteOther d i o b else d).mem.wf = true := by
      intro c _ i o b
      split
      · exact allocWriteOther_wf _ _ _ _ h
      · exact h
    exact key _ _ _ _

theorem endEnt_wf (d : Dev) (t : TileId) (e : QEnt) (sig : Bool) (h : d.mem.wf = true) : (endEnt d t e sig).mem.wf = true := by
  unfold endEnt
  simp only []
  split
  · exact endThreadEnt_wf _ _ _ _ h
  · exact collChunkEnd_wf _ _ _ _ _ h
  · exact h
  · exact h
  · exact h

/-! ### What a read gives after a write -/

theorem uFind_append (u v : Undef) (a : Nat) :
    uFind (u ++ v) a = match uFind u a with | some t => some t | none => uFind v a := by
  induction u with
  | nil => rfl
  | cons r rs ih =>
    simp only [List.cons_append, uFind]
    split
    · rfl
    · exact ih

/-- What range holds a key once the ranges were cut out of `[lo, hi)`. -/
theorem uFind_uCut (lo hi a : Nat) (u : Undef) :
    uFind (uCut u lo hi) a = if lo ≤ a ∧ a < hi then none else uFind u a := by
  induction u with
  | nil => simp [uCut, uFind]
  | cons r rs ih =>
    have e : uCut (r :: rs) lo hi = uCut [r] lo hi ++ uCut rs lo hi := by simp [uCut]
    rw [e, uFind_append, ih]
    obtain ⟨x, y, t⟩ := r
    simp only [uCut, List.flatMap_cons, List.flatMap_nil, List.append_nil]
    by_cases c1 : hi ≤ x ∨ y ≤ lo
    · simp only [c1, if_true, uFind]
      by_cases c2 : x ≤ a ∧ a < y
      · have : ¬ (lo ≤ a ∧ a < hi) := by omega
        simp [c2, this]
      · simp [c2]
    · simp only [c1, if_false]
      by_cases c2 : x < lo
      · by_cases c3 : hi < y
        · simp only [c2, c3, if_true, List.cons_append, List.nil_append, uFind]
          split <;> rename_i q <;> revert q <;> split <;> intro q <;> (try split at q) <;> (try split) <;> simp_all <;> omega
        · simp only [c2, c3, if_true, if_false, List.append_nil, uFind]
          split <;> rename_i q <;> revert q <;> split <;> intro q <;> (try split) <;> simp_all <;> omega
      · by_cases c3 : hi < y
        · simp only [c2, c3, if_true, if_false, List.nil_append, uFind]
          split <;> rename_i q <;> revert q <;> split <;> intro q <;> (try split) <;> simp_all <;> omega
        · simp only [c2, c3, if_false, List.nil_append, uFind]
          split <;> (try split) <;> simp_all <;> omega

/-- One byte of a memory some of whose ranges are undefined. -/
theorem uread_one (m : Mem) (u : Undef) (a : Nat) :
    uread m u a 1 = [match uFind u a with | some t => Config.freeByte t a | none => fget 0 m a] := by
  cases u with
  | nil => simp [uread, mread, uFind]
  | cons r rs =>
    simp [uread] <;> rfl

/-- A byte of any scratchpad outside the bytes written reads as before. -/
theorem spRead_spWrite_outside (d : Dev) (t u : TileId) (a x : Nat) (b : List Byte)
    (hx : spKey u x < spKey t a ∨ spKey t a + b.length ≤ spKey u x) :
    spRead (spWrite d t a b) u x 1 = spRead d u x 1 := by
  have h : ¬ (spKey t a ≤ spKey u x ∧ spKey u x < spKey t a + b.length) := by omega
  simp only [spRead, uread_one, spWrite, modMem, uFind_uCut, h, if_false,
    mwrite_outside b _ _ _ hx]

/-- A byte written reads as what was written. -/
theorem spRead_spWrite_inside (d : Dev) (t : TileId) (a i : Nat) (b : List Byte) (hi : i < b.length) :
    spRead (spWrite d t a b) t (a + i) 1 = [b.getD i 0] := by
  have e : spKey t (a + i) = spKey t a + i := by unfold spKey; omega
  have h : spKey t a ≤ spKey t a + i ∧ spKey t a + i < spKey t a + b.length := by omega
  simp only [spRead, uread_one, spWrite, modMem, e, uFind_uCut, h, and_self, if_true,
    mwrite_inside b _ _ _ hi]

/-- What a register reads as after a register was written. -/
@[simp] theorem getReg_setReg (k : Thread) (r q : Reg) (v : W64) : getReg (setReg k r v) q = if q = r then v else getReg k q := by
  simp [getReg, setReg, fget_fput, Fin.ext_iff]

/-! ### Reads of the parts after a part was changed -/

theorem getTile_modTile (d : Dev) (t u : TileId) (f : Tile → Tile) :
    getTile (modTile d t f) u = if u = t then f (getTile d t) else getTile d u := by
  simp [getTile, fget_fmod, Fin.ext_iff]

theorem getThread_modThread (d : Dev) (t u : TileId) (th x : Thr) (f : Thread → Thread) :
    getThread (modThread d t th f) u x = if u = t ∧ x = th then f (getThread d t th) else getThread d u x := by
  unfold getThread modThread
  rw [getTile_modTile]
  by_cases h : u = t
  · subst h
    simp [fget_fmod, Fin.ext_iff]
  · simp [h]

theorem getSem_modSem (d : Dev) (t u : TileId) (m n : SemId) (f : Sem → Sem) :
    getSem (modSem d t m f) u n = if u = t ∧ n = m then f (getSem d t m) else getSem d u n := by
  unfold getSem modSem
  rw [getTile_modTile]
  by_cases h : u = t
  · subst h
    simp [fget_fmod, Fin.ext_iff]
  · simp [h]

theorem getPort_modPort (d : Dev) (p q : Nat) (f : PortSt → PortSt) :
    getPort (modPort d p f) q = if q = p then f (getPort d p) else getPort d q := by
  simp [getPort, modPort, fget_fmod]

/-- What an entry of the dictionary reads as after a write of an entry. -/
theorem dget_dset (d : Dev) (i j v x y : Nat) :
    dget (dset d i j v) x y = if ekey x y = ekey i j then v else dget d x y := by
  unfold dget
  rw [dset_dict, fget_fput]
  by_cases h : ekey x y = ekey i j
  · simp only [h, if_true]
    by_cases hv : v = dictDefault (ekey i j)
    · simp [hv]
    · simp [hv]
  · simp [h]

end Sys2Proof.Machine
end

