-- ==== Sys2Proof/Laws/Sequencer.lean ====
section
/-!
SUPPORT. What the sequencer's shared operations can do: counting an event touches the counters and nothing else, an issue slot
touches the thread's turn and the counters, and a finished instruction writes its register and advances the PC.
-/
namespace Sys2Proof.Machine

/-- A fold of steps that each change the counters changes the counters and nothing else. -/
theorem foldl_counters_only {α : Type} (f : Dev → α → Dev) (h : ∀ d i, f d i = { d with count := (f d i).count }) :
    ∀ (l : List α) (d : Dev), l.foldl f d = { d with count := (l.foldl f d).count } := by
  intro l
  induction l with
  | nil => intro d; rfl
  | cons a as ih => intro d; rw [List.foldl_cons, ih, h]

/-- Counting an event of a tile touches the counters and nothing else. -/
theorem tileEv_only (d : Dev) (t : TileId) (c n : Nat) : tileEv d t c n = { d with count := (tileEv d t c n).count } := by
  unfold tileEv
  simp only []
  generalize (if t.val < 128 then 0x4010 else 0x4011) = sel
  split
  · rfl
  · exact foldl_counters_only _ (fun d i => by split <;> rfl) _ _

@[simp] theorem tileEv_tiles (d : Dev) (t : TileId) (c n : Nat) : (tileEv d t c n).tiles = d.tiles := by rw [tileEv_only]
@[simp] theorem tileEv_sigs (d : Dev) (t : TileId) (c n : Nat) : (tileEv d t c n).sigs = d.sigs := by rw [tileEv_only]
@[simp] theorem tileEv_curv (d : Dev) (t : TileId) (c n : Nat) : (tileEv d t c n).curv = d.curv := by rw [tileEv_only]
@[simp] theorem tileEv_fab (d : Dev) (t : TileId) (c n : Nat) : (tileEv d t c n).fab = d.fab := by rw [tileEv_only]
@[simp] theorem tileEv_host (d : Dev) (t : TileId) (c n : Nat) : (tileEv d t c n).host = d.host := by rw [tileEv_only]
@[simp] theorem tileEv_log (d : Dev) (t : TileId) (c n : Nat) : (tileEv d t c n).log = d.log := by rw [tileEv_only]
@[simp] theorem tileEv_dict (d : Dev) (t : TileId) (c n : Nat) : (tileEv d t c n).dict = d.dict := by rw [tileEv_only]
@[simp] theorem tileEv_stamp (d : Dev) (t : TileId) (c n : Nat) : (tileEv d t c n).stamp = d.stamp := by rw [tileEv_only]

@[simp] theorem getTile_tileEv (d : Dev) (t u : TileId) (c n : Nat) : getTile (tileEv d t c n) u = getTile d u := by
  simp [getTile]

/-- An issue slot changes no thread. -/
@[simp] theorem getThread_takeSlot (d : Dev) (t u : TileId) (th x : Thr) : getThread (takeSlot d t th) u x = getThread d u x := by
  simp only [takeSlot, getThread, getTile, tileEv_tiles, modTile_tiles, fget_fmod]
  split
  · rename_i h; rw [h]
  · rfl

/-- An instruction that ends without fault and writes `v` to register `d` writes that register and no other, advances the PC, and
changes nothing outside its thread but the turns to issue and the counters (R216, R220). -/
theorem seqDone_wroteReg (s : State) (t : TileId) (th : Thr) (d : Reg) (g : Thread → W64) (v : W64)
    (hg : g (getThread s.dev t th).issued = v) :
    wroteReg s { s with dev := seqDone (takeSlot s.dev t th) t th fun k => setReg k d (g k) } t th d v := by
  have hv : g { getThread s.dev t th with
      pc := (getThread s.dev t th).pc + 4
      st := .blocked
      busy := true
      wait := .none } = v := hg
  refine ⟨?_, ⟨?_, ?_⟩, ?_, ?_, ?_⟩
  · simp only [onlyTiles, seqDone, modThread, modTile, takeSlot]
    rw [tileEv_only]
  · intro u hu
    simp [seqDone, modThread, takeSlot, getTile, modTile, fget_fmod, ← Fin.ext_iff, hu]
  · simp [seqDone, modThread, takeSlot, getTile, modTile, fget_fmod]
  · intro x hx
    simp [seqDone, getThread_modThread, hx]
  · intro q
    simp only [seqDone, getThread_modThread, getThread_takeSlot, and_self, if_true, getReg_setReg, hv]
    rfl
  · simp [seqDone, getThread_modThread]
    rfl

/-- A three-register command whose value is `v` completes and writes it. -/
theorem seqCmd_alu (s : State) (t : TileId) (th : Thr) (op : AluOp) (d a b : Reg) (v : W64) (hm : mayIssue s.dev t th = true)
    (hv : aluVal op (getReg (getThread s.dev t th) a) (getReg (getThread s.dev t th) b) = v) :
    ∃ n, seqCmd s t th (.alu op d a b) = .next n ∧ wroteReg s n t th d v := by
  refine ⟨_, rfl, ?_⟩
  simp only [hm, if_true, seqIssueWord, seqEffect]
  exact seqDone_wroteReg s t th d _ v hv

/-! ### Counters of cycles, and the vector engine queue of a curvature tile -/

theorem settleBlk_only (d : Dev) (blk : Nat) : settleBlk d blk = { d with count := (settleBlk d blk).count } := by
  unfold settleBlk
  split
  · rfl
  · rw [foldl_counters_only _ (fun _ _ => rfl)]
    rfl

theorem markBackpressure_only (d : Dev) (t : TileId) (s : SemId) (w : Waiter) :
    markBackpressure d t s w = { d with count := (markBackpressure d t s w).count } := by
  unfold markBackpressure
  split
  · split <;> rfl
  · rfl

theorem remark_only (d : Dev) (t : TileId) : remark d t = { d with count := (remark d t).count } :=
  foldl_counters_only _ (fun d s => foldl_counters_only _ (fun e w => markBackpressure_only e t s w) (getSem d t s).waiters d) _ _

theorem settleQuads_only (d : Dev) : settleQuads d = { d with count := (settleQuads d).count } := by
  unfold settleQuads modCount
  rfl

/-- Bringing the counters of cycles up to now touches the counters and nothing else (R379, R384). -/
theorem tally_only (d : Dev) : tally d = { d with count := (tally d).count } := by
  have h : ∀ (l : List Nat) (m : List TileId), m.foldl remark (settleQuads (l.foldl settleBlk d)) =
      { d with count := (m.foldl remark (settleQuads (l.foldl settleBlk d))).count } := fun l m => by
    rw [foldl_counters_only _ remark_only, settleQuads_only, foldl_counters_only _ settleBlk_only]
  exact h _ _

@[simp] theorem tally_mem (d : Dev) : (tally d).mem = d.mem := by rw [tally_only]
@[simp] theorem tally_tiles (d : Dev) : (tally d).tiles = d.tiles := by rw [tally_only]
@[simp] theorem tally_dict (d : Dev) : (tally d).dict = d.dict := by rw [tally_only]
@[simp] theorem tally_safety (d : Dev) : (tally d).safety = d.safety := by rw [tally_only]

@[simp] theorem leaveVec_mem (d : Dev) (t : TileId) (o : Org) : (leaveVec d t o).mem = d.mem := rfl
@[simp] theorem leaveVec_curv (d : Dev) (t : TileId) (o : Org) : (leaveVec d t o).curv = d.curv := rfl
@[simp] theorem takeVec_mem (d : Dev) (t : TileId) (o : Org) : (takeVec d t o).mem = d.mem := by
  simp [takeVec, openBeats, modCount]
@[simp] theorem takeVec_curv (d : Dev) (t : TileId) (o : Org) : (takeVec d t o).curv = d.curv := by
  simp [takeVec, openBeats, modCount]
@[simp] theorem joinVec_mem (d : Dev) (t : TileId) (o : Org) (w : Nat) : (joinVec d t o w).mem = d.mem := by
  unfold joinVec
  split <;> rfl
@[simp] theorem joinVec_curv (d : Dev) (t : TileId) (o : Org) (w : Nat) : (joinVec d t o w).curv = d.curv := by
  unfold joinVec
  split <;> rfl

/-- Vector work runs with its entry gone and its beats counted where the queue lets it, and else it stands in the queue (R78, R129). -/
theorem passVec_cases (d : Dev) (t : TileId) (o : Org) (w : Nat) (f : Dev → Dev) :
    (vecFree d t o = true ∧ passVec d t o w f = f (takeVec d t o)) ∨ (vecFree d t o = false ∧ passVec d t o w f = joinVec d t o w) := by
  unfold passVec
  cases vecFree d t o <;> simp

end Sys2Proof.Machine
end

