-- ==== Sys2Proof/Laws/Wire.lean ====
section
/-! SUPPORT. What the device puts on the wire: every flit that it builds is 320 bytes long and carries its own CRC. -/
namespace Sys2Proof.Machine

theorem padTo_length (n : Nat) (b : List Byte) : (padTo n b).length = n := by
  simp [padTo, zbytes]; omega

/-- A flit that the device builds is 320 bytes long, and its last four spell the CRC of the others (R247). -/
theorem flitBytes_sound (fseq type vc ack cred cvc : Nat) (data : List Byte) :
    (flitBytes fseq type vc ack cred cvc data).length = 320 ∧
    recf (flitBytes fseq type vc ack cred cvc data) 0x13C 4 =
      (crc32c ((flitBytes fseq type vc ack cred cvc data).take 0x13C)).toNat := by
  have h : ∀ b : List Byte, b.length = 316 → (b ++ natLe 4 (crc32c b).toNat).length = 320 ∧
      recf (b ++ natLe 4 (crc32c b).toNat) 0x13C 4 = (crc32c ((b ++ natLe 4 (crc32c b).toNat).take 0x13C)).toNat := by
    intro b hb
    have ht : (b ++ natLe 4 (crc32c b).toNat).take 0x13C = b := by
      rw [List.take_append_of_le_length (by omega), List.take_of_length_le (by omega)]
    have hd : (b ++ natLe 4 (crc32c b).toNat).drop 0x13C = natLe 4 (crc32c b).toNat := by
      rw [List.drop_append_of_le_length (by omega), List.drop_of_length_le (by omega), List.nil_append]
    refine ⟨by simp [hb, natLe_length], ?_⟩
    rw [ht, recf, hd, List.take_of_length_le (by simp [natLe_length]), leNat_natLe]
    have := (crc32c b).isLt
    omega
  refine h _ ?_
  simp [natLe_length, zbytes, padTo_length]

end Sys2Proof.Machine
end

