-- ==== Sys2Proof/Tests/Slice0.lean ====
section
/-!
SUPPORT. The model's own tests: a term that each check of well-formedness refuses, words decoded, single commands on small
states, and for the statements with hypotheses a witness that meets them together. Expected results come from the spec's tables
and rules, named in the docstrings.
-/
namespace Sys2Proof.Tests
open Sys2Proof Sys2Proof.Machine
set_option Elab.async false

/-! ### Small states -/

/-- The device at READY. -/
def up : Dev := { Dev.reset with power := { step := 10, devState := 1 } }
def st (d : Dev) : State := ⟨d, []⟩
/-- Tile 0 of Die A holds `k`. -/
def withTile (k : Tile) : Dev := { up with tiles := [(0, k)] }
/-- Thread 0 of tile 0 is `k`. -/
def withThread (k : Thread) : Dev := withTile { threads := [(0, k)] }
def ready : Thread := { st := .ready }
/-- Tile 0 holds `es` in queue `u`. -/
def withQueue (u : Nat) (es : List QEnt) : Dev := withTile { queues := [(u, es)] }
/-- A thread's descriptor of unit `u` with some words set. -/
def ent (u : Nat) (ws : List (Nat × Nat)) (ph : Phase) : QEnt :=
  { id := 1, unit := u, words := (List.range 16).map fun i => BitVec.ofNat 32 ((ws.filter fun e => e.1 == i).foldl (fun a e => a + e.2) 0)
    org := .thread 0 1 none, phase := ph }
/-- WAIT_SEM 63 and SIGNAL_SEM `s` in word 15. -/
def sems (s : Nat) : Nat × Nat := (15, 63 + 64 * s)
/-- The device holds allocation `id`. -/
def withAlloc (d : Dev) (id : Nat) (a : Alloc) : Dev := putAlloc d id (some a)
/-- An HBM4 allocation of `n` bytes. -/
def hbm (n : Nat) : Alloc := { flags := 1, kind := 0, size := n, elems := 0 }
def zeros64 : List Byte := zbytes 64
def flit0 : List Byte := zbytes 320
def record0 : List Byte := zbytes 304
/-- A host message of type `typ` with the CRC that R323 gives it. -/
def msg (typ arg : Nat) (data : List Byte) : HostMsg :=
  let m : HostMsg := { typ := BitVec.ofNat 8 typ, crc := 0, seq := 0, ackSeq := 0xFFFFFFFF, credit := 0, tag := 0, arg := BitVec.ofNat 32 arg, addr := 0
                       arg2 := 0, data := data }
  { m with crc := msgCrc m }
/-- The value that a next state gives a function, or the default. -/
def after {α : Type} (o : Host.Outcome State Fault Refusal) (f : Dev → α) (dflt : α) : α :=
  match o with
  | .next s => f s.dev
  | _ => dflt

/-! ### What well-formedness refuses -/

theorem test_wf_flit_length : (Instr.idleFlit 0 (.decoded 0) zeros64).wf = false := by decide
theorem test_wf_data_flit_length : (Instr.dataFlit 0 (.decoded 0) []).wf = false := by decide
theorem test_wf_replay_length : (Instr.replayReq 0 (.decoded 0) zeros64).wf = false := by decide
theorem test_wf_any_undecodable_flit : (Instr.idleFlit 0 .failed zeros64).wf = true := by decide
theorem test_wf_ident_length : (Instr.ident 0 zeros64).wf = false := by decide
theorem test_wf_ident_ack_length : (Instr.identAck 0 zeros64).wf = false := by decide
theorem test_wf_down_length : (Instr.down 0 zeros64).wf = false := by decide
theorem test_wf_unreach_length : (Instr.unreach 0 zeros64).wf = false := by decide
theorem test_wf_reach_length : (Instr.reach 0 zeros64).wf = false := by decide
theorem test_wf_portmap_length : (Instr.portmap 0 zeros64).wf = false := by decide
theorem test_wf_message_type : (Instr.nop (msg 2 0 [])).wf = false ∧ (Instr.nak (msg 1 0 [])).wf = false ∧ (Instr.hello (msg 1 0 []) ⟨15, []⟩).wf = false ∧
    (Instr.qdoorbell (msg 0x21 0 [])).wf = false ∧ (Instr.nop (msg 0x77 0 [])).wf = true := by decide +kernel
theorem test_wf_doorbell_action : (Instr.tdoorbellStart (msg 0x21 (1 * 2 ^ 14) [])).wf = false ∧ (Instr.tdoorbellWake (msg 0x21 0 [])).wf = false ∧
    (Instr.tdoorbellStop (msg 0x21 0 [])).wf = false := by decide +kernel
theorem test_wf_hread_whole_units : (Instr.hreadData (msg 0x11 0 [0])).wf = false ∧ (Instr.hreadData (msg 0x11 0 zeros64)).wf = true := by decide +kernel
theorem test_wf_role_key_length : (Instr.roleKey 1 0 zeros64).wf = false := by decide
theorem test_wf_nonce_length : (Instr.attestNonce zeros64).wf = false := by decide
theorem test_wf_stage_length : (Instr.fwStageData zeros64).wf = false := by decide
/-- A value of another size is refused and changes nothing (Table 15-6). -/
theorem test_nonce_length_changes_nothing : exec (.attestNonce zeros64) State.reset = .next State.reset := rfl

/-! ### Words (Table 10-2, Table 10-12) -/

/-- SETK r3, 0x0C00 of Table 10-12. -/
theorem test_word_setk : decodeSeq 0x0C0000D7 = some (.setk 3 0x0C00) := by decide
/-- ADDK r4, r3, 64 of Table 10-12. -/
theorem test_word_addk : decodeSeq 0x00401911 = some (.aluK .addk 4 3 64) := by decide
/-- SWAIT of semaphore 6 into r6 of Table 10-12. -/
theorem test_word_swait : decodeSeq 0x00C001A4 = some (.sem .swait 6 0 0 6 false) := by decide
/-- OP 0 and an unlisted OP are ILLEGAL (R220). -/
theorem test_word_illegal : decodeSeq 0 = none ∧ decodeSeq 0x3F = none := by decide

/-! ### The step -/

theorem test_step_takes_the_front : step { State.reset with pending := [.pwrGoodFall] } = exec .pwrGoodFall State.reset := rfl
theorem test_step_idles : step State.reset = .next { State.reset with dev := { State.reset.dev with tc := 1 } } := rfl
/-- The UCIe link has been down for longer than the host tier's deadline. -/
def hostLate (d : Dev) : Prop := d.power.devState = 1 ∧ d.mem.offlineNoted = false ∧ d.host.up = false ∧
  dget d 0xA002 2 * Config.tclkMhz < d.tc + 1 - d.mem.hostDown
theorem witness_StepRunsFrontCommand : hostLate { up with tc := 2000000 } ∧ ¬ hostLate up := by
  have h : dget { up with tc := 2000000 } 0xA002 2 = 500 ∧ dget up 0xA002 2 = 500 := by decide +kernel
  constructor
  · refine ⟨rfl, rfl, rfl, ?_⟩
    rw [h.1]
    simp only [Config.tclkMhz]
    split <;> decide
  · rintro ⟨-, -, -, hl⟩
    rw [h.2] at hl
    simp only [Config.tclkMhz] at hl
    split at hl <;> revert hl <;> decide
theorem witness_StepsKeepMemoryCanonical : State.reset.Inv := rfl
theorem witness_CommandsComplete : (∀ u, Instr.pwrGoodFall ≠ .eccCorrectedRewrite u) ∧ (∀ u r, Instr.pwrGoodFall ≠ .patrolScrub u r) ∧
    unitExists State.reset.dev (.scratch 0 0) = true :=
  ⟨(by intro u h; cases h), (by intro u r h; cases h), rfl⟩

/-! ### Sequencers -/

def regs (l : List (Nat × Nat)) : Thread := { st := .ready, regs := l.map fun e => (e.1, BitVec.ofNat 64 e.2) }
/-- Register 1 of thread 0 after a command of thread 0 whose registers are `l`. -/
def r1 (l : List (Nat × Nat)) (f : State → Host.Outcome State Fault Refusal) : Nat :=
  after (f (st (withThread (regs l)))) (fun d => (getReg (getThread d 0 0) 1).toNat) 12345

/-- R220: arithmetic wraps modulo 2^64. -/
theorem test_add_wraps : r1 [(2, 2 ^ 64 - 1), (3, 2)] (execAdd 0 0 1 2 3) = 1 := by decide +kernel
theorem test_sub_wraps : r1 [(2, 0), (3, 1)] (execSub 0 0 1 2 3) = 2 ^ 64 - 1 := by decide +kernel
theorem test_mulhu : r1 [(2, 2 ^ 63), (3, 6)] (execMulhu 0 0 1 2 3) = 3 := by decide +kernel
/-- The shift amount is B[5:0]. -/
theorem test_shl_amount : r1 [(2, 1), (3, 65)] (execShl 0 0 1 2 3) = 2 := by decide +kernel
theorem test_shrs_sign : r1 [(2, 2 ^ 63), (3, 63)] (execShrs 0 0 1 2 3) = 2 ^ 64 - 1 := by decide +kernel
/-- Table 10-4: CMPS is signed, CMPU is not. -/
theorem test_cmps_signed : r1 [(2, 2 ^ 64 - 1), (3, 1)] (execCmps 0 0 1 2 3) = 2 ^ 64 - 1 := by decide +kernel
theorem test_cmpu_unsigned : r1 [(2, 2 ^ 64 - 1), (3, 1)] (execCmpu 0 0 1 2 3) = 1 := by decide +kernel
/-- A source that is also the destination. -/
theorem test_add_same_register : r1 [(1, 5)] (execAdd 0 0 1 1 1) = 10 := by decide +kernel
theorem test_insk_keeps_the_rest : r1 [(1, 0x1111222233334444)] (execInsk 0 0 1 1 0xABCD) = 0x11112222ABCD4444 := by decide +kernel
/-- A thread that is not READY issues nothing. -/
theorem test_idle_thread_issues_nothing :
    after (execAdd 0 0 1 2 3 (st (withThread { ready with st := .idle, regs := [(2, 5)] }))) (fun d => getReg (getThread d 0 0) 1) 9 = 0 := by
  decide +kernel

theorem witness_RegisterResults : mayIssue (withThread ready) 0 0 = true := by decide
theorem witness_BranchResults : mayIssue (withThread ready) 0 0 = true ∧
    (0 : W64).toInt = 0 ∧ (1 : W64).toInt ≠ 0 ∧ (BitVec.ofInt 64 (-1)).toInt < 0 := by decide
theorem test_brz_taken : after (execBrz 0 0 .zero 2 3 (st (withThread ready))) (fun d => (getThread d 0 0).pc) 0 = 12 := by decide +kernel
/-- The last word of the scratchpad is the highest aligned address that a load may name. -/
theorem witness_LoadStoreResults : mayIssue (withThread (regs [(2, 0x1FFFF8)])) 0 0 = true ∧ 0x1FFFF8 % 8 = 0 ∧ 0x1FFFF8 + 8 ≤ scratchSize 0 ∧
    spPoisonAt (withThread (regs [(2, 0x1FFFF8)])) 0 0x1FFFF8 8 = none := by decide +kernel
theorem test_ld_sign_extends : after (execLd 0 0 1 2 .w8 true 0 (st (spWrite (withThread (regs [(2, 64)])) 0 64 [0x80])))
    (fun d => (getReg (getThread d 0 0) 1).toNat) 0 = 2 ^ 64 - 128 := by decide +kernel
/-- The thread's own posted store is seen, and not yet written (R238). -/
theorem test_ld_sees_posted_store :
    after (execLd 0 0 1 2 .w16 false 0 (st (modThread (withThread (regs [(2, 64)])) 0 0 fun k => { k with posted := [(0, 65, [7])] })))
      (fun d => getReg (getThread d 0 0) 1) 0 = 0x700 := by
  decide +kernel
theorem witness_LoadStoreResults_seen : let d := modThread (withThread ready) 0 0 fun k => { k with posted := [(0, 64, [7])] }
    ∀ p ∈ (getThread d 0 0).posted, p.1 < 1 ∧ spPoisonAt d 0 p.2.1 p.2.2.length = none := by decide +kernel

def stored : Dev := modThread (withThread (regs [(2, 64), (3, 0x1234)])) 0 0 fun k => { k with posted := [(0, 64, [7]), (1, 65, [8])], stNext := 2 }
theorem witness_LoadStoreResults_store : mayIssue stored 0 0 = true ∧ 64 % 2 = 0 ∧ 64 + 2 ≤ scratchSize 0 ∧ spPoisonAt stored 0 64 2 = none ∧
    tileActs stored 0 = true ∧ (getThread stored 0 0).posted = (0, 64, [7]) :: [(1, 65, [8])] ∧ (∀ y ∈ [(1, 65, [(8 : Byte)])], 0 < y.1) := by
  decide +kernel
def poisoned : Dev := poisonScratch stored 0 64
theorem witness_LoadStoreResults_poisoned : spPoisonAt poisoned 0 64 1 ≠ none ∧ spPoisonAt stored 0 64 1 = none ∧
    (getThread poisoned 0 0).posted = (0, 64, [7]) :: [(1, 65, [8])] := by decide +kernel
theorem test_store_is_posted : after (execSt 0 0 3 2 .w16 0 (st stored)) (fun d => ((getThread d 0 0).posted.length, spRead d 0 64 2)) (0, []) =
    (3, [0, 0]) := by decide +kernel
theorem test_store_written : after (execStoreWritten 0 0 (st stored)) (fun d => (spRead d 0 64 2, (getThread d 0 0).posted)) ([], []) =
    ([7, 0], [(1, 65, [8])]) := by decide +kernel

theorem witness_ControlRegisters : csrVal (withThread ready) 0 0 4 = some 63 ∧ csrTakes 0 4 47 = true ∧ csrTakes 0 4 48 = false ∧
    csrTakes 0 4 63 = true ∧ csrTakes 0 6 3 = true ∧ csrTakes 0 6 4 = false ∧ csrTakes 0 5 (2 ^ 24 - 1) = true ∧ csrTakes 0 5 (2 ^ 24) = false := by
  decide +kernel

def withSem (s : Sem) (k : Thread) : Dev := withTile { threads := [(0, k)], sems := [(5, s)] }
theorem witness_SemaphoreResults : mayIssue (withSem { count := 3 } (regs [(2, 2), (3, 0x7F)])) 0 0 = true ∧ (5 : SemId).val = (5 : BitVec 6).toNat ∧
    tileOfCode 0 (0x7F % 128) (0x7F / 128 % 2 == 1) = some 0 ∧
    2 ≤ (getSem (withSem { count := 3 } ready) 0 5).count ∧ (getSem (withSem { count := 3 } ready) 0 5).waiters = [] := by decide +kernel
theorem witness_SemaphoreResults_waits : (getSem (withSem { count := 1 } ready) 0 5).count < 2 ∧
    (getSem (withSem { count := 1, waiters := [.thread 1 4] } ready) 0 5).count < waiterN (.thread 1 4) := by decide +kernel
/-- Thread 1 waits for 2; semaphore 5 of tile 0 counts `c`, and thread 0 asks for `m`. -/
def lined (c m : Nat) : Dev := withTile { threads := [(0, regs [(2, m)]), (1, { st := .blocked, wait := .swait 4 5 })]
                                          sems := [(5, { count := c, waiters := [.thread 1 2] })] }
theorem witness_SemaphoreResults_line : let d := lined 3 2
    mayIssue d 0 0 = true ∧ (getSem d 0 5).waiters = [.thread 1 2] ∧ (1 : Thr) ≠ 0 ∧ (getThread d 0 1).wait = .swait 4 5 ∧
    semN (getReg (getThread d 0 0) 2) true = 2 ∧ 2 ≤ 3 ∧ 3 - 2 < 2 ∧ semN (getReg (getThread (lined 3 1) 0 0) 2) true ≤ 3 - 2 ∧
    (getSem (lined 1 2) 0 5).count = 1 ∧ 1 < waiterN (.thread 1 2) := by decide +kernel
/-- R231: an SSET that satisfies the head of the line releases it. -/
theorem test_sset_serves : after (execSset 0 0 0 2 0 5 true (st (lined 0 2))) (fun d => ((getSem d 0 5).count, (getThread d 0 1).wait, (getSem d 0 5).waiters)) (9, .none, []) =
    (0, .none, []) := by decide +kernel
/-- An SWAIT behind a head that can be served takes what that head leaves. -/
theorem test_swait_behind : after (execSwait 0 0 1 2 0 5 true (st (lined 3 1))) (fun d => ((getSem d 0 5).count, (getThread d 0 1).wait, (getThread d 0 0).wait)) (9, .none, .none) =
    (0, .none, .none) := by decide +kernel
/-- Rank 1 is this device (address 0) or another one. -/
def ranked (a : Nat) : Dev := { withSem {} (regs [(3, 256)]) with fab := { ranks := some [(7, true), (a, true)] } }
theorem witness_SemaphoreResults_remote : mayIssue (ranked 0) 0 0 = true ∧ (ranked 0).fab.ranks = some [(7, true), (0, true)] ∧
    [(7, true), (0, true)][(256 / 256 % 65536)]? = some (0, true) ∧ remoteTile (256 % 256) = some 0 ∧ 0 = ownAddr (ranked 0) ∧
    9 ≠ ownAddr (ranked 9) := by decide +kernel
theorem test_swait_takes : after (execSwait 0 0 1 2 0 5 true (st (withSem { count := 3 } (regs [(1, 9), (2, 2)]))))
    (fun d => ((getSem d 0 5).count, getReg (getThread d 0 0) 1)) (9, 9) = (1, 0) := by decide +kernel
theorem test_swait_joins : after (execSwait 0 0 1 2 0 5 true (st (withSem { count := 1 } (regs [(2, 2)]))))
    (fun d => ((getSem d 0 5).waiters, (getThread d 0 0).wait)) ([], .none) = ([.thread 0 2], .swait 1 5) := by decide +kernel

def two (a b : Thread) : Dev := withTile { threads := [(0, a), (1, b)], sems := [(5, { waiters := [.thread 1 2] })] }
theorem witness_ThreadControl : mayIssue (two (regs [(2, 1)]) {}) 0 0 = true ∧ (getReg (regs [(2, 1)]) 2).toNat = (1 : Thr).val ∧
    (getThread (two ready {}) 0 1).st = .idle ∧ (getThread (two ready ready) 0 1).st ≠ .idle ∧ (getThread (two ready ready) 0 1).st ≠ .faulted ∧
    (1 : Thr) ≠ 0 ∧ (getThread (two ready { st := .blocked, wait := .swait 4 5 }) 0 1).wait = .swait 4 5 := by decide +kernel
/-- A FAULTED thread whose SWAIT still stands. -/
theorem witness_ThreadControl_faulted : let d := two (regs [(2, 1)]) { st := .faulted, wait := .swait 4 5 }
    mayIssue d 0 0 = true ∧ (getThread d 0 0).wait = .none ∧ (getThread d 0 1).st = .faulted ∧ (getThread d 0 1).wait = .swait 4 5 := by decide +kernel
theorem test_tstart : after (execTstart 0 0 1 2 3 (st (two (regs [(2, 1), (3, 0x40)]) {}))) (fun d => ((getThread d 0 1).st, (getThread d 0 1).pc)) (.idle, 0) =
    (.ready, 0x40) := by decide +kernel
theorem test_twake : after (execTwake 0 0 1 2 0 (st (two (regs [(2, 1)]) { st := .blocked, wait := .swait 4 5 })))
    (fun d => ((getThread d 0 1).st, getReg (getThread d 0 1) 4, (getSem d 0 5).waiters)) (.idle, 0, []) = (.ready, 1, []) := by decide +kernel

/-- A FREE of allocation 7, issued by thread 0 to the memory unit; its descriptor stands at address 64. -/
def freeWords : List W32 := (ent 2 [(0, 0x91), (1, 7), sems 63] .waiting).words
def issuing (words : List W32) (k : Thread) : Dev := spWrite (withAlloc (withThread k) 7 (hbm 4096)) 0 64 (words.flatMap fun w => natLe 4 w.toNat)
theorem witness_IssueResults : let d := issuing freeWords (regs [(2, 64)])
    let e1 := flushStores (takeSlot d 0 0) 0 0 (getThread d 0 0).stNext
    mayIssue d 0 0 = true ∧ 64 + 64 ≤ scratchSize 0 ∧ spPoisonAt e1 0 64 64 = none ∧ checkDesc e1 0 2 (toWords 16 (spRead e1 0 64 64)) = 0 := by
  decide +kernel
theorem witness_IssueResults_refused : let d := withThread (regs [(2, 64)])
    let e1 := flushStores (takeSlot d 0 0) 0 0 (getThread d 0 0).stNext
    checkDesc e1 0 2 (toWords 16 (spRead e1 0 64 64)) ≠ 0 := by decide +kernel
def full : Dev := withTile { threads := [(0, { st := .blocked, wait := .queue 1 (ent 2 [] .waiting) })], queues := [(2, List.replicate 16 (ent 2 [] .waiting))] }
def waiting : Dev := withTile { threads := [(0, { st := .blocked, wait := .queue 1 (ent 2 [] .waiting) })] }
theorem witness_IssueResults_queue : hasRoom full 0 (ent 2 [] .waiting) = false ∧ tileActs waiting 0 = true ∧
    (getThread waiting 0 0).wait = .queue 1 (ent 2 [] .waiting) ∧ hasRoom waiting 0 (ent 2 [] .waiting) = true ∧
    cancellable 0 true (ent 2 [] .waiting) = true ∧ (ent 2 [] .waiting).unit = (2 : BitVec 3).toNat := by decide +kernel
/-- Two entries of thread 0, of which the second is running. -/
theorem witness_IssueResults_left : let q := [ent 2 [] .waiting, { ent 2 [] .running with id := 2 }]
    let d := withQueue 2 q
    (∀ e ∈ getQueue d 0 2, e.unit = 2) ∧ ((getQueue d 0 2).map QEnt.id).Nodup ∧ q.map (cancellable 0 true) = [true, false] ∧
    (getTile d 0).sems = [] := by decide +kernel
/-- ISSUE reads and checks; the descriptor is accepted by the queue afterwards (R223, Table 10-13). -/
theorem test_issue_waits : after (execIssue 0 0 1 2 0 2 false (st (issuing freeWords (regs [(1, 9), (2, 64)]))))
    (fun d => ((getQueue d 0 2).length, getReg (getThread d 0 0) 1, (getThread d 0 0).issueSeq)) (9, 0, 9) = (0, 9, 0) := by decide +kernel
theorem test_issue_accepts : after (execIssueQueueEntry 0 0 (st waiting))
    (fun d => ((getQueue d 0 2).length, getReg (getThread d 0 0) 1, (getThread d 0 0).issueSeq)) (0, 9, 9) = (1, 0, 1) := by decide +kernel

def fencing (m : BitVec 3) : Dev := withThread { st := .blocked, wait := .fence m, busy := true }
theorem witness_FenceAndBlocks : mayIssue (withThread ready) 0 0 = true ∧ tileActs (fencing 7) 0 = true ∧ (getThread (fencing 7) 0 0).wait = .fence 7 ∧
    (getThread (fencing 7) 0 0).posted = [] ∧ hasOpen (fencing 7) 0 0 = false ∧ (getThread (fencing 7) 0 0).busy = true := by decide +kernel
theorem test_fence_end_invalidates : after (execFenceEnd 0 0 (st (modTile (fencing 4) 0 fun k => { k with icache := [(1, [1])] })))
    (fun d => ((getTile d 0).icache, (getThread d 0 0).wait)) ([], .icache 9) = ([], .none) := by decide +kernel

/-- A cached line whose first word is SETK r3, 0x0C00. -/
def cached : Dev := modTile (withThread ready) 0 fun k => { k with icache := [(0, natLe 4 0x0C0000D7 ++ zbytes 60)] }
theorem witness_SelectionRule : tileActs cached 0 = true ∧ selectThread cached 0 = some 0 ∧ (getThread cached 0 0).pc.toNat % 4 = 0 ∧
    hitsPool cached 0 0 4 = false ∧ (fget [] (getTile cached 0).icache 0).isEmpty = false ∧
    decodeSeq (BitVec.ofNat 32 (recf (fget [] (getTile cached 0).icache 0) 0 4)) = some (.setk 3 0x0C00) ∧
    (getThread (withThread { st := .blocked, wait := .icache 3 }) 0 0).wait = .icache 3 ∧
    spPoisonAt (withThread { st := .blocked, wait := .icache 3 }) 0 (3 * 64) 64 = none ∧ fget [] (getTile (withThread ready) 0).icache 0 = [] := by decide +kernel
theorem test_issue_select : after (execIssueSelect 0 (st cached)) (fun d => (getReg (getThread d 0 0) 3, (getThread d 0 0).pc)) (0, 0) =
    (0x0C00, 4) := by decide +kernel
/-- Thread 1 of the higher priority is selected (R215). -/
theorem test_priority : selectThread (two ready { st := .ready, prio := 1 }) 0 = some 1 := by decide +kernel

/-- A signal of 3 on its way to semaphore 5. -/
def signalled (x : Sem) : Dev := { withSem x ready with sigs := [⟨0, 5, 3, .program, none, none⟩] }
theorem witness_SignalsAndWaits : (pickSigs 0 5 [0] [] 0 (signalled {}).sigs).1 ≠ [] ∧ (getSem (signalled {}) 0 5).waiters = [] ∧
    0 + ((pickSigs 0 5 [0] [] 0 (signalled {}).sigs).1.map (·.n)).sum ≤ 65535 ∧
    65535 < (getSem (signalled { count := 65535 }) 0 5).count + ((pickSigs 0 5 [0] [] 0 (signalled {}).sigs).1.map (·.n)).sum := by decide +kernel
theorem witness_SignalsAndWaits_limit : let d := two { st := .ready } { st := .blocked, wait := .swait 4 5, waitLimit := 1 }
    tileActs d 0 = true ∧ (getThread d 0 1).wait = .swait 4 5 ∧ (getThread d 0 1).waitLimit ≠ 0 := by decide +kernel
theorem witness_SignalsAndWaits_descriptor : let e := ent 2 [(0, 0x91), (15, 5)] .waiting
    let d := withTile { queues := [(2, [e])], sems := [(5, { count := 1 })] }
    tileActs d 0 = true ∧ getQueue d 0 2 = e :: [] ∧ atHead d 0 e = true ∧ (5 : SemId).val = waitSemOf e.words ∧ 1 ≤ (getSem d 0 5).count ∧
    48 ≤ waitSemOf (ent 2 [sems 63] .waiting).words ∧ (getSem (withQueue 2 [e]) 0 5).count = 0 := by decide +kernel
/-- The signal of 3 and, in the same tc, an SSET of 1 (or an SDEC of 1) of semaphore 5 by thread 0. -/
def sameTick (f : SemFn) : Dev :=
  let w := encodeSeq (.sem f 0 2 0 5 true)
  modTile { withSem { count := 2 } (regs [(2, 1)]) with sigs := [⟨0, 5, 3, .program, none, none⟩] } 0 fun k =>
    { k with icache := [(0, natLe 4 w.toNat ++ zbytes 60)] }
theorem witness_SignalsAndWaits_same : alive (sameTick .sset) = true ∧
    sameTc (sameTick .sset) 0 5 = some (0, encodeSeq (.sem .sset 0 2 0 5 true), .sem .sset 0 2 0 5 true) ∧
    sameTc (sameTick .sdec) 0 5 = some (0, encodeSeq (.sem .sdec 0 2 0 5 true), .sem .sdec 0 2 0 5 true) ∧
    (getSem (sameTick .sset) 0 5).waiters = [] := by decide +kernel
/-- R229: the SSET first, then the increments; an SDEC after the increments. -/
theorem test_same_tc : after (execSignalTakesEffect 0 5 ⟨[0], true⟩ (st (sameTick .sset))) (fun d => (getSem d 0 5).count) 0 = 4 ∧
    after (execSignalTakesEffect 0 5 ⟨[0], true⟩ (st (sameTick .sdec))) (fun d => (getSem d 0 5).count) 0 = 4 := by decide +kernel
theorem test_signal_saturates : after (execSignalTakesEffect 0 5 ⟨[0], false⟩ (st (signalled { count := 65533 }))) (fun d => getSem d 0 5) {} =
    { count := 65535, ovf := true } := by decide +kernel

theorem witness_ThreadFaults : let d := withSem {} (regs [(2, 65), (3, 0x1FFFFF + 1)])
    mayIssue d 0 0 = true ∧ (getThread d 0 0).wait = .none ∧ (getSem d 0 5).count < semN (getReg (getThread d 0 0) 4) false ∧
    48 ≤ (48 : BitVec 6).toNat ∧ 11 ≤ (11 : BitVec 6).toNat ∧ csrVal d 0 0 4 = some 63 ∧ csrTakes 0 4 65 = false ∧
    65 % widthBytes .w16 ≠ 0 ∧ scratchSize 0 < 0x200000 + widthBytes .w8 ∧
    spPoisonAt (poisonScratch d 0 64) 0 64 (widthBytes .w8) ≠ none := by decide +kernel
/-- R239: PC, code 3 (ALIGN) and the address stand in the record of thread 0, and FAULT_SEM is signalled. -/
theorem test_fault_record : after (execLd 0 0 1 2 .w16 false 0 (st (modTile (withThread { regs [(2, 65)] with pc := 8 }) 0 fun k =>
      { k with faultBase := 0x1001, faultSem := 9 })))
    (fun d => (spRead d 0 0x1000 8, spRead d 0 0x100C 4, d.sigs.map (·.sem), (getThread d 0 0).st)) ([], [], [], .idle) =
    ([3, 0, 0, 0, 8, 0, 0, 0], [65, 0, 0, 0], [9], .faulted) := by decide +kernel

/-! ### Matrix operations -/

/-- A product of 1 × 1 by 1 × 1, C in binary32 at address 0x100, A at 0, B at 0x40, no WAIT_SEM. -/
def product (extra : List (Nat × Nat)) (ph : Phase) : QEnt :=
  ent 0 ([(1, 8 * 256), (2, 1), (3, 1), (4, 1), (6, 64), (7, 0x40), (8, 64), (9, 0x100 + 0x7F * 2 ^ 21), (10, 64), sems 63] ++ extra) ph
def oneMat (extra : List (Nat × Nat)) (ph : Phase) : Dev := withQueue 0 [product extra ph]

theorem witness_MatrixStart : let e := product [] .ready
    let d := oneMat [] .ready
    alive d = true ∧ getQueue d 0 0 = e :: [] ∧ loadAhead d 0 e = false ∧ bitAt (wordAt e.words 13) 12 = false ∧ dfield e.words 0 15 1 = 0 := by
  decide +kernel
theorem witness_MatrixStart_accum : let e := product [(0, 2 ^ 15)] .ready
    dfield e.words 0 15 1 = 1 ∧ ∀ i, i < matM e.words → spIsInvalid (oneMat [(0, 2 ^ 15)] .ready) (matDest 0 e.words) (cAddr e.words i 0) (4 * matN e.words) = false := by
  decide +kernel
theorem witness_MatrixDrainResult : let e := product [] .running
    let d := oneMat [] .running
    let w := e.words
    getQueue d 0 0 = e :: [] ∧ 0 ∉ e.blks ∧ 0 < matBlocks w ∧ e.bufBlk = none ∧ earlierOp d 0 e = false ∧ matBlock w 0 = (0, 1, 0, 1) ∧
    spansPoison d 0 (operandSpans w 0 1 0 1) = none ∧ hasEpilogue w = false ∧ isMx (dfield w 1 8 4) = false ∧ addsIntoC d 0 w = false ∧
    spPartial d (matDest 0 w) (cAddr w 0 0) 4 = none ∧ (rowOut (dfield w 1 8 4) (bitAt (wordAt w 1) 14) [0]).1.length ≤ dfield w 10 0 21 ∧
    tapsHold d w e.id 0 1 = false := by
  decide +kernel
theorem witness_MatrixDrainResult_held : hasEpilogue (product [(13, 1)] .running).words = true ∧
    earlierOp (oneMat [(13, 1)] .running) 0 (product [(13, 1)] .running) = false := by decide +kernel
def held : QEnt := { product [(13, 1)] .running with bufBlk := some 0, buf := [0] }
theorem witness_MatrixDrainResult_beat : let d := withQueue 0 [held]
    getQueue d 0 0 = held :: [] ∧ held.bufBlk = some 0 ∧ held.buf.length ≤ held.bufPos + 256 ∧ d.mem.spPoison = [] ∧
    { held with buf := List.replicate 257 0 }.bufPos + 256 < { held with buf := List.replicate 257 0 }.buf.length := by decide +kernel
theorem witness_MatrixDrainResult_end : let e := { product [] .running with blks := [0] }
    getQueue (withQueue 0 [e]) 0 0 = e :: [] ∧ e.unit = 0 ∧ matBlocks e.words ≤ e.blks.length ∧ earlierOp (withQueue 0 [e]) 0 e = false ∧
    tapsOpen (withQueue 0 [e]) e.words e.id = false ∧
    e.org = .thread 0 1 none ∧ 48 ≤ signalSemOf e.words ∧ (5 : SemId).val = signalSemOf (ent 0 [sems 5] .running).words := by decide +kernel
/-- 2.0 × 3.0 in BF16 gives 6.0 in binary32. -/
theorem test_matrix_drain : after (execMatrixDrain 0 0 0 .none (st (spWrite (spWrite (withQueue 0 [product [(1, 0)] .running]) 0 0 [0, 0x40]) 0 0x40 [0x40, 0x40])))
    (fun d => spRead d 0 0x100 4) [] = [0, 0, 0xC0, 0x40] := by decide +kernel

/-! ### Vector instructions -/

/-- A vector instruction on one row of one binary32 element: X at 0, Y at 0x40, W at 0x80, Z at 0x100, ROWVEC at 0x140. -/
def vec (op : Nat) (extra : List (Nat × Nat)) (ph : Phase) : QEnt :=
  ent 1 ([(0, op), (1, 8 + 8 * 16 + 8 * 256 + 8 * 4096), (2, 1), (3, 1), (4, 0), (5, 64), (6, 0x40), (8, 0x100), (10, 0x80), (14, 0x140), sems 63] ++ extra) ph
def oneVec (op : Nat) (extra : List (Nat × Nat)) (ph : Phase) : Dev := withQueue 1 [vec op extra ph]

theorem witness_VectorElementResults : ∀ op ∈ [0x20, 0x21, 0x22, 0x23, 0x24, 0x25, 0x26, 0x27, 0x28, 0x30, 0x38, 0x39, 0x3A, 0x3B, 0x3C, 0x3D, 0x40, 0x41],
    let e := vec op [(0, 3 * 2 ^ 15)] .ready
    let w := e.words
    getQueue (oneVec op [(0, 3 * 2 ^ 15)] .ready) 0 1 = e :: [] ∧ opcodeOf w = op ∧ 0 < dfield w 2 0 24 ∧ dfield w 2 0 24 ≤ 256 ∧ dfield w 3 0 24 = 1 ∧
    isMx (dfield w 1 0 4) = false ∧ isMx (dfield w 1 8 4) = false ∧ dfield w 1 8 4 ≠ 9 ∧ slotEmpty (oneVec op [] .ready) 0 (dfield w 0 15 8) = false ∧
    bitAt (wordAt w 0) 13 = false := by decide +kernel
theorem witness_VectorElementResults_pairs : ∀ op ∈ [0x54, 0x55, 0x56], let e := vec op [] .ready
    getQueue (oneVec op [] .ready) 0 1 = e :: [] ∧ opcodeOf e.words = op ∧ bitAt (wordAt e.words 0) 10 = false ∧ bitAt (wordAt e.words 0) 11 = false := by
  decide +kernel
/-- The longest row of the statement. -/
theorem witness_VectorElementResults_longest : dfield (vec 0x20 [(2, 255)] .ready).words 2 0 24 = 256 := by decide +kernel
theorem witness_VectorRowResults : ∀ op ∈ [0x48, 0x49, 0x4A, 0x4B, 0x4C, 0x4D, 0x4E, 0x4F, 0x50, 0x51], let e := vec op [] .ready
    getQueue (oneVec op [] .ready) 0 1 = e :: [] ∧ opcodeOf e.words = op ∧ dfield e.words 3 0 24 = 1 ∧ 0 < dfield e.words 2 0 24 ∧
    dfield e.words 8 0 23 + 4 ≤ dfield e.words 14 0 23 := by decide +kernel
theorem witness_VectorReduceResult : let e := vec 0x58 [] .ready
    getQueue (oneVec 0x58 [] .ready) 0 1 = e :: [] ∧ opcodeOf e.words = 0x58 ∧ 0 < dfield e.words 3 0 24 ∧ isMx (dfield e.words 1 8 4) = false ∧
    (modeAt (oneVec 0x58 [] .ready) 0 e.words (dfield e.words 8 0 23)).1 = false := by decide +kernel
/-- 1.0 + 2.0 = 3.0. -/
theorem test_vadd : after (execVadd 0 .none (st (spWrite (spWrite (oneVec 0x20 [] .ready) 0 0 [0, 0, 0x80, 0x3F]) 0 0x40 [0, 0, 0, 0x40])))
    (fun d => spRead d 0 0x100 4) [] = [0, 0, 0x40, 0x40] := by decide +kernel
/-- VSEL takes Y where X is above zero and W elsewhere (Table 4-3). -/
theorem test_vsel_at_zero : after (execVsel 0 .none (st (spWrite (oneVec 0x28 [] .ready) 0 0x80 [0, 0, 0x80, 0x3F])))
    (fun d => spRead d 0 0x100 4) [] = [0, 0, 0x80, 0x3F] := by decide +kernel
/-- R88: softmax of one element is 1. -/
theorem test_vsmf_one : after (execVsmf 0 .none (st (spWrite (oneVec 0x50 [] .ready) 0 0 [0, 0, 0x80, 0x40])))
    (fun d => spRead d 0 0x100 4) [] = [0, 0, 0x80, 0x3F] := by decide +kernel

theorem witness_VectorTablesAndEnd : let e := vec 0x60 [(0, 0x80 * 2 ^ 15)] .ready
    getQueue (oneVec 0x60 [(0, 0x80 * 2 ^ 15)] .ready) 0 1 = e :: [] ∧ opcodeOf e.words = 0x60 ∧ matrixAhead (oneVec 0x60 [] .ready) 0 e = false ∧
    spPoisonAt (oneVec 0x60 [] .ready) 0 0 32896 = none ∧ opcodeOf (vec 0x61 [(0, 3 * 2 ^ 15)] .ready).words = 0x61 ∧
    slotEmpty (oneVec 0x61 [] .ready) 0 3 = false := by decide +kernel
theorem witness_VectorTablesAndEnd_end : let e := { vec 0x20 [] .done with code := 0 }
    getQueue (withQueue 1 [e]) 0 1 = e :: [] ∧ e.unit = 1 ∧ e.phase = .done ∧ e.org = .thread 0 1 none ∧ opcodeOf e.words ≠ 0x80 ∧ opcodeOf e.words ≠ 0x72 := by
  decide +kernel
theorem test_vector_end_signals : after (execVectorInstructionEnd 0 (st (withQueue 1 [ent 1 [(0, 0x20), (15, 63 + 64 * 5)] .done])))
    (fun d => (d.sigs.map (·.sem), getQueue d 0 1)) ([], []) = ([5], []) := by decide +kernel

/-! ### Updates, allocations, tiers -/

/-- An SGD update of master 1, optimiser 2, gradient 7, hyper-parameters at 0x200, norm result at 0x240, scratch at 0x10000. -/
def updEnt (extra : List (Nat × Nat)) (ph : Phase) : QEnt :=
  ent 1 ([(0, 0x80), (1, 1), (2, 2), (7, 7), (8, 0x200), (9, 0x240), (10, 0x10000), sems 63] ++ extra) ph
/-- Its device, the norm result's decision being `dec`, the master's DELAY `k`. -/
def updDev (dec : Byte) (k : Nat) (e : QEnt) : Dev :=
  spWrite (withAlloc (withAlloc (withAlloc (withQueue 1 [e]) 1 { hbm 4096 with flags := 1 + 32 * k }) 2 (hbm 4096)) 7 (hbm 4096)) 0 0x24C [dec]
theorem witness_UpdateStart : ∀ dec ∈ [(0 : Byte), 1, 2, 3], let e := updEnt [] .ready
    let d := updDev dec 0 e
    getQueue d 0 1 = e :: [] ∧ opcodeOf e.words = 0x80 ∧ mirrorOwed d e.words = false ∧ counterBefore d e.words e.id = false ∧
    d.mem.spPoison = [] ∧ hyperReserved (spRead d 0 0x200 32) true = false ∧ updSgd e.words = true ∧ updMarks (asBefore d e.id) e.words = 0 ∧
    dget d 0x9010 3 = 0 ∧ recf (spRead d 0 0x240 64) 0x20 8 = dget d 0x9010 8 ∧ recf (spRead d 0 0x240 64) 0x0C 1 = dec.toNat ∧
    isDelay d e.words = false ∧ updHostReads d (updOf d e.words (spRead d 0 0x200 32) (spRead d 0 0x240 64) 0 []) = [] := by decide +kernel
def slowE (e : QEnt) : SlowEnt :=
  { words := e.words, hp := zbytes 40, norm := zbytes 64, region := 0, from_ := some (0, e), ackWait := false }
theorem witness_UpdateStart_delay : let e := updEnt [] .ready
    let d := updDev 0 1 e
    isDelay d e.words = true ∧ getAlloc d (wordAt e.words 7) = some (hbm 4096) ∧ mayClose d e.words = true ∧
    mayClose { d with mem := { d.mem with slow := List.replicate 32 (slowE e) } } e.words = false := by decide +kernel
theorem witness_UpdateEnd : let e := { updEnt [(0, 2 ^ 17)] .done with code := 0 }
    let d := updDev 0 0 e
    getQueue d 0 1 = e :: [] ∧ e.unit = 1 ∧ opcodeOf e.words = 0x80 ∧ d.mem.spPoison = [] ∧ bitAt (wordAt e.words 0) 17 = true ∧
    (updNames e.words).Nodup ∧ e.status ≠ 0x10 := by decide +kernel
/-- An update under way of no element, hyper-parameters and norm record zero. -/
def updRunning : QEnt := { updEnt [(0, 2 ^ 17)] .running with buf := List.replicate 30 0 }
theorem witness_UpdateEnd_running : let d := updDev 0 0 updRunning
    getQueue d 0 1 = updRunning :: [] ∧ updRunning.buf ≠ [] ∧ updWaits d updRunning = false ∧ d.mem.offlineNoted = false ∧
    (updChunks (heldRun d updRunning) (updSpans updRunning.words) 0 d).2.2 = none ∧ bitAt (wordAt updRunning.words 0) 17 = true := by
  decide +kernel
/-- A chunk of one element of an SGD update, all of whose operands are zero. -/
def oneElem : UpdRun := { words := (updEnt [] .running).words, hyper := ⟨0, 0, 0, 0, 0, 0, 0, 0, 0⟩, scale := 0, n := 1, ctr := 0, wcCtr := 0, region := 0, data := [] }
theorem witness_UpdateEnd_chunk : let d := updDev 0 0 (updEnt [] .running)
    let w := oneElem.words
    let o := pair32 0
    (getAlloc d (wordAt w 1)).map tierOf = some 1 ∧ (getAlloc d (wordAt w 2)).map tierOf = some 1 ∧ wordAt w 1 ≠ wordAt w 2 ∧ updWcf w = 0 ∧
    0 + 1 ≤ oneElem.n ∧ updPoison d oneElem 0 1 = none ∧ allocRead d (wordAt w 1) 0 2 = [0, 0] ∧ allocRead d (wordAt w 1) 64 2 = [0, 0] ∧
    allocRead d (wordAt w 2) 0 4 = [0, 0, 0, 0] ∧ allocRead d (wordAt w 7) 0 4 = [0, 0, 0, 0] ∧ masterOk 0 (corrInt 0) = true ∧ updSgd w = true ∧
    isFin32 (pfma o o (pmul o (pmul o o))).1 = true ∧ bitAt (wordAt w 0) 10 = false ∧
    (let y := pair32 (master32 0 (corrInt 0))
     let x := padd y (pmul (pair32 (fneg 0)) (padd (pfma o o (pmul o (pmul o o))) (pmul o y)))
     pfin x = true ∧ (masterRound (xpair x)).isSome = true) := by decide +kernel
theorem witness_UpdateEnd_slow : let e := updEnt [] .running
    let d := updDev 0 1 e
    getQueue d 0 1 = e :: [] ∧ e.phase = .running ∧ e.buf = [] ∧ mayClose d e.words = true ∧
    someAlloc d (wordAt e.words 7 :: updNames e.words) (·.torn) = false ∧ getAlloc d (wordAt e.words 7) = some (hbm 4096) := by decide +kernel
theorem witness_UpdateEnd_commit : let e := ent 1 [(0, 0x80 + 2 ^ 17), (1, 1), (2, 2), (7, 7), (15, 63 + 64 * 5)] .running
    let d := { updDev 0 1 e with mem := { (updDev 0 1 e).mem with slow := [slowE e] }, host := { up := true } }
    alive d = true ∧ d.mem.slow = slowE e :: [] ∧ (slowE e).ackWait = false ∧ (slowE e).from_ = some (0, e) ∧ e.org = .thread 0 1 none ∧
    (5 : SemId).val = signalSemOf e.words ∧ d.mem.offlineNoted = false ∧ d.host.up = true ∧ (updNames e.words).Nodup ∧
    (updHostReads d (updOf d e.words (zbytes 40) (zbytes 64) 0 [])).length ≤ (slowE e).reqs ∧ readsOpen d (slowE e).id = false ∧
    someAlloc d (wordAt e.words 7 :: updNames e.words) (·.torn) = false ∧
    (updChunks (updOf d e.words (zbytes 40) (zbytes 64) 0 []) (updSpans e.words) 0 d).2.2 = none := by decide +kernel
/-- R188: a commit advances the counter of both allocations. -/
theorem test_update_commits : after (execUpdateComplete 0 (st (updDev 0 0 { updEnt [(0, 2 ^ 17)] .done with code := 0 })))
    (fun d => ((getAlloc d 1).map (·.counter), (getAlloc d 2).map (·.counter))) (none, none) = (some 1, some 1) := by decide +kernel
/-- R180: HALT sets 0x9010:03. -/
theorem test_update_halt : after (execUpdate 0 (st (updDev 3 0 (updEnt [] .ready)))) (fun d => (dget d 0x9010 3, (getQueue d 0 1).map (·.code))) (9, []) =
    (1, [0x31]) := by decide +kernel

/-- A memory-unit entry. -/
def mem2 (ws : List (Nat × Nat)) (ph : Phase) : QEnt := ent 2 (ws ++ [sems 63]) ph
def allocE (ph : Phase) : QEnt := mem2 [(0, 0x90), (1, 7), (2, 1), (3, 4096)] ph
theorem witness_AllocationLife : let e := allocE .ready
    let d := withQueue 2 [e]
    getQueue d 0 2 = e :: [] ∧ e.unit = 2 ∧ d.mem.spPoison = [] ∧ opcodeOf e.words = 0x90 ∧ wordAt e.words 1 ≠ 0 ∧ getAlloc d 7 = none ∧
    (allocList d).length < 16384 ∧ dfield e.words 2 0 2 ≠ 2 ∧ (placeAlloc d (some 0) e.words).isSome = true := by decide +kernel
theorem witness_AllocationLife_fill : let e := allocE .running
    let a := { hbm 4096 with filling := true }
    let d := withAlloc (withQueue 2 [e]) 7 a
    getAlloc d 7 = some a ∧ fillCodeOk d a 0 = true ∧ fillCodeOk d { a with flags := 2 } 0x16 = true := by decide +kernel
theorem witness_AllocationLife_free : let e := mem2 [(0, 0x91), (1, 7)] .ready
    let d := withAlloc (withQueue 2 [e]) 7 (hbm 4096)
    opcodeOf e.words = 0x91 ∧ getAlloc d 7 = some (hbm 4096) ∧ inUse d 7 e.id = false ∧
    inUse (withAlloc (withQueue 2 [mem2 [(0, 0x94), (1, 7), (4, 7)] .running, { e with id := 2 }]) 7 (hbm 4096)) 7 2 = true := by decide +kernel
theorem witness_AllocationLife_ctl : let e := fun k => mem2 [(0, 0x92 + 256 * k), (1, 7)] .ready
    let d := withAlloc (withQueue 2 [e 3]) 7 { hbm 4096 with flags := 3 }
    opcodeOf (e 3).words = 0x92 ∧ dfield (e 3).words 0 8 4 = 3 ∧ updatesBefore d 7 1 = false ∧ movesOn d 7 true = false ∧ movesOn d 7 false = false ∧
    opcodeOf (mem2 [(0, 0x93), (1, 7)] .ready).words = 0x93 ∧ dfield (e 1).words 0 8 4 = 1 ∧ dfield (e 4).words 0 8 4 = 4 ∧
    readsOn d 7 = false ∧ writesOn d 7 = false ∧ delayOf { hbm 4096 with flags := 3 } = 0 ∧ hostWaits d { hbm 4096 with flags := 2 + 32 } = true ∧
    hostWaits d { hbm 4096 with flags := 1 + 32 } = false ∧ tierOf { hbm 64 with flags := 0 } = 0 := by decide +kernel
theorem test_alloc_then_fill : after (execAllocFillComplete (.tile 0 0) 0 (st (allocWrite (withAlloc (withQueue 2 [allocE .running]) 7 { hbm 4096 with filling := true }) 7 5 [1])))
    (fun d => (allocRead d 7 5 1, (getAlloc d 7).map (·.filling), getQueue d 0 2)) ([], none, []) = ([0], some false, []) := by decide +kernel
/-- R199: SET_COUNTER sets the counter. -/
theorem test_set_counter : after (execSetCounter (.tile 0 0) (st (withAlloc (withQueue 2 [mem2 [(0, 0x92 + 256 * 3), (1, 7), (8, 5)] .ready]) 7 (hbm 4096))))
    (fun d => (getAlloc d 7).map (·.counter)) none = some 5 := by decide +kernel

/-- A tier move of 64 bytes from allocation 7 to allocation 8. -/
def moveE (ph : Phase) : QEnt := mem2 [(0, 0x94), (1, 7), (4, 8), (7, 64), (8, 1)] ph
def moving (ph : Phase) : Dev := withAlloc (withAlloc (withQueue 2 [moveE ph]) 7 (hbm 4096)) 8 (hbm 4096)
theorem witness_TierMoves : let e := moveE .ready
    let d := moving .ready
    getQueue d 0 2 = e :: [] ∧ opcodeOf e.words = 0x94 ∧ getAlloc d (wordAt e.words 1) = some (hbm 4096) ∧ getAlloc d (wordAt e.words 4) = some (hbm 4096) ∧
    moveAllocs d e.words = 0 ∧ moveInvalid (asBefore d e.id) e.words = false ∧ bitAt (wordAt e.words 0) 8 = false ∧ checkAllocRead (asBefore d e.id) 7 0 0 = (0, 0) ∧
    checkAllocWrite (asBefore d e.id) 8 0 0 = (0, 0) := by decide +kernel
theorem witness_TierMoves_row : let e := moveE .running
    let d := moving .running
    getQueue d 0 2 = e :: [] ∧ tierOf (hbm 4096) = 1 ∧ d.mem.tierPoison = [] ∧ dfield e.words 8 0 24 = 1 ∧ readsOpen d e.id = false ∧
    recordsHeld d = false := by decide +kernel
theorem test_tier_move_copies : after (execTierMoveComplete (.tile 0 0) (st (allocWrite (moving .running) 7 3 [9])))
    (fun d => (allocRead d 8 3 1, getQueue d 0 2)) ([], []) = ([9], []) := by decide +kernel
/-- R209: the poison stands in the allocation's unit. -/
theorem witness_ErrorCorrection : let d := withAlloc up 7 (hbm 4096)
    alive d = true ∧ getAlloc d (7 : W32).toNat = some (hbm 4096) ∧ 4095 < (hbm 4096).size ∧ allocPoisonAt d 7 4095 1 = none ∧
    0x1FFFFF < scratchSize 0 ∧ unitExists d (.alloc 9 0) = false ∧ unitExists d (.scratch 0 0x200000) = false ∧ tierOf (hbm 4096) = 1 ∧
    unitExists d (.hbm 7 (48 * 2 ^ 30)) = false ∧ unitExists d (.hbm 7 (48 * 2 ^ 30 - 1)) = true := by decide +kernel
theorem test_scrub_poisons : after (execPatrolScrub (.alloc 7 100) .uncorrectable (st (withAlloc up 7 (hbm 4096))))
    (fun d => ((allocPoisonAt d 7 64 64).isSome, dget d 0xA003 2)) (false, 0) = (true, 1) := by decide +kernel
theorem test_scrub_no_such_unit : execPatrolScrub (.alloc 7 4096) .clean (st (withAlloc up 7 (hbm 4096))) = .fault .noSuchUnit := rfl

/-! ### Launches -/

def launchE (op : Nat) (ph : Phase) : QEnt := ent 4 [(0, op), (1, 0x40), (2, 7), sems 63] ph
theorem witness_LaunchResults : ∀ op ∈ [0xA0, 0xA1, 0xA2], let e := launchE op .ready
    let d := withQueue 4 [e]
    tileActs d 0 = true ∧ getQueue d 0 4 = e :: [] ∧ opcodeOf e.words = op ∧ launchRoom d e.words = true ∧ (getCurv d 0).grind = none ∧
    (getCurv d 0).grindQ = [] := by decide +kernel
theorem witness_LaunchResults_full : let e := launchE 0xA0 .running
    let l : Launch := ⟨0, e⟩
    let d := { withQueue 4 [e] with curv := [(0, { grind := some { launch := l, addr := 0, idx := 0 }, grindQ := List.replicate 4 l })] }
    launchRoom d e.words = false ∧ (getCurv d 0).grind ≠ none := by decide +kernel
theorem test_launch_starts : after (execLaunchGrinderProgram 0 (st (withQueue 4 [launchE 0xA0 .ready])))
    (fun d => ((getCurv d 0).grind.map (·.addr), getQueue d 0 4)) (none, []) = (some 0x40, []) := by decide +kernel

/-- A PRECONDITION of gradient 1 with the root container in allocation 5, whose factor's allocation is 6; both maps hold one block
of one element. -/
def precE : QEnt := ent 3 [(0, 0x72 + 3 * 512), (1, 1), (3, 1), (4, 1), (5, 5), (6, 0x400), (7, 0x440), sems 63] .ready
theorem witness_PreconditionResult : let e := precE
    getQueue (withQueue 3 [e]) 0 3 = e :: [] ∧ e.unit = 3 ∧ e.phase = .ready ∧ opcodeOf e.words = 0x72 ∧
    anyWaits (withQueue 3 [e]) [wordAt e.words 1, wordAt e.words 5] = false := by decide +kernel

/-! ### The Grinder -/

def ct : CTile := 0
/-- The Grinder of curvature tile 0 stands at instruction `w`, which lies at address 0; its stream 0 is `x`; allocation 3 holds images. -/
def prog : Prog := { launch := ⟨0, ent 4 [(0, 0xA0), (15, 63 + 64 * 5)] .running⟩, addr := 0, idx := 0 }
def grinding (w : Nat) (x : Stream) (k : CurvSt) : Dev :=
  withAlloc (spWrite { up with curv := [(0, { k with grind := some prog, streams := fput {} [] 0 x })] } 128 0 (natLe 8 w)) 3 (hbm 0x100000)
/-- A stream descriptor of one block of one element, S, F and D images in allocation 3; its map stands at address 0x100. -/
def strWords : List W32 := ((List.range 16).map fun i => BitVec.ofNat 32 (([(0, 1), (1, 0x3F800000), (2, 0x100), (3, 3), (5, 3), (6, 0x10000), (7, 3),
  (8, 0x20000), (9, 0x3F000000), (12, 1)].lookup i).getD 0))
def closed : Stream := { st := .closed, words := strWords, sizes := [1] }
theorem witness_GrinderStreams_open : let w := 1 + 64 * 2 ^ 32
    let d := spWrite (spWrite (grinding w {} {}) 128 64 (strWords.flatMap fun v => natLe 4 v.toNat)) 128 0x100 [1]
    let ws := toWords 16 (spRead d 128 64 64)
    let map := toWords (strNblk ws) (spRead d 128 0x100 4)
    grindsAt d ct prog w ∧ w % 256 = 1 ∧ bitf w 32 23 = 64 ∧ (getStream d 0 0).st = .unbound ∧ hitsPool d (ctileNat 0) 64 64 = false ∧ d.mem.spPoison = [] ∧
    dfield ws 2 0 23 = 0x100 ∧ checkStream d (ctileNat 0) ws map = 0 ∧ (imgsWrite d (strImg ws 0) (mapSizes map)).1 = 0 := by
  refine ⟨⟨?_, ?_, ?_, ?_, ?_, ?_⟩, ?_⟩ <;> decide +kernel
theorem witness_GrinderStreams_others : ∀ op ∈ [2, 5, 6], let x : Stream := if op = 2 then { closed with st := .open_ } else closed
    let d := grinding op x {}
    progWord d (ctileNat 0) prog = .inl op ∧ grindReserved op = false ∧ getStream d 0 0 = x ∧ imgsFit d (strImg x.words 0) x.sizes = true ∧
    imgsFit d (strImg x.words 1) x.sizes = true ∧ (imgsWrite d (strImg x.words 0) x.sizes).1 = 0 ∧ (imgsWrite d (strImg x.words 1) x.sizes).1 = 0 := by
  decide +kernel
theorem witness_GrinderStreams_close : let d := { grinding 2 { closed with st := .closing } {} with
      curv := [(0, { grind := some { prog with scPending := some 0 }, streams := [(0, { closed with st := .closing })] })] }
    (getCurv d 0).grind = some { prog with scPending := some 0 } ∧ (getCurv d 0).testing = false ∧ (getStream d 0 0).st = .closing ∧
    (getCurv d 0).openRecs = [] ∧ closePoison d (getStream d 0 0) = none ∧ (getCurv d 0).adm = [] ∧ groupsOf 0 (getCurv d 0).fill = [] ∧ groupsOf 0 (getCurv d 0).sweep = [] ∧ (getStream d 0 0).disc = 0 ∧
    (getStream d 0 0).residue = false ∧ anyWaits d [(strImg (getStream d 0 0).words 0).1] = false := by decide +kernel
/-- The S image at 0 and the F image at 0x10000 have sound headers: one row, one update. -/
def factors (w : Nat) : Dev :=
  let d := allocWrite (grinding w closed {}) 3 8 [1]
  let d := allocWrite d 3 0x18 [1]
  allocWrite (allocWrite d 3 0x10010 [1]) 3 0x10018 [1]
theorem witness_GrinderFactors_ema : let d := factors 3
    let img := fun (k : Nat) => strImg closed.words k
    progWord d (ctileNat 0) prog = .inl 3 ∧ grindReserved 3 = false ∧ getStream d 0 0 = closed ∧ closed.sizes = [1] ∧ imgsFit d (img 0) [1] = true ∧
    imgsFit d (img 1) [1] = true ∧ (imgsRead d (img 0) [1]).1 = 0 ∧ (emaReadsF d (img 1) [1]).1 = 0 ∧ getQueue d (ctileNat 0) 1 = [] ∧
    getAlloc d 3 = some (hbm 0x100000) ∧ (imgsWrite d (img 1) [1]).1 = 0 ∧
    matFin (readSym d 3 0 8 1) = true ∧ bitAt (recf (allocRead d 3 0 64) 0x18 4) 0 = true ∧
    isZero32 (f32OfNat (recf (allocRead d 3 0 64) 8 8)) = false ∧ isFin32 (f32OfNat (recf (allocRead d 3 0 64) 8 8)) = true := by decide +kernel
theorem witness_GrinderFactors_damp : let d := factors 4
    progWord d (ctileNat 0) prog = .inl 4 ∧ grindReserved 4 = false ∧ imgsFit d (strImg closed.words 2) [1] = true ∧
    (imgsRead d (strImg closed.words 1) [1]).1 = 0 ∧ (imgsWrite d (strImg closed.words 2) [1]).1 = 0 ∧
    bitAt (recf (allocRead d 3 0x10000 64) 0x18 4) 0 = true ∧ recf (allocRead d 3 0x10000 64) 0x10 8 ≠ 0 ∧
    isFin32 (lambdaEff closed 1 (readSym d 3 0x10000 8 1)) = true := by decide +kernel
/-- A tree of one body in allocation 4 (bodies at 0, states at 0x1000, the image at 0x2000); MASS of the body is 1. -/
def treeWords : List W32 := ((List.range 16).map fun i => BitVec.ofNat 32 (([(0, 1), (1, 0x3F800000), (3, 4), (5, 4), (6, 0x1000), (7, 4), (8, 0x2000)].lookup i).getD 0))
def treed : Dev :=
  let d := withAlloc (grinding (8 + 64 * 2 ^ 32) {} {}) 4 (hbm 0x10000)
  allocWrite (spWrite d 128 64 (treeWords.flatMap fun v => natLe 4 v.toNat)) 4 0 ([0xFF, 0xFF, 0, 0] ++ natLe 4 0x3F800000)
theorem witness_GrinderFactors_tree : let ws := toWords 16 (spRead treed 128 64 64)
    let bodies := [allocRead treed 4 0 128]
    let states := [allocRead treed 4 0x1000 32]
    progWord treed (ctileNat 0) prog = .inl (8 + 64 * 2 ^ 32) ∧ grindReserved (8 + 64 * 2 ^ 32) = false ∧ bitf (8 + 64 * 2 ^ 32) 32 23 = 64 ∧ ws = treeWords ∧
    hitsPool treed (ctileNat 0) 64 64 = false ∧ treed.mem.spPoison = [] ∧ anySet ws ([(0, 16, 16)] ++ (List.range 7).map fun i => (9 + i, 0, 32)) = false ∧
    zeros (bodies.getD 0 []) 2 2 = true ∧ zeros (bodies.getD 0 []) 0x5C 36 = true ∧ zeros (states.getD 0 []) 0x1C 4 = true ∧
    bodyOk (bodies.getD 0 []) (states.getD 0 []) 0 = true ∧ (rangeRead treed 4 0 128).1 = 0 ∧ (rangeRead treed 4 0x1000 32).1 = 0 ∧
    (rangeWrite treed 4 0x2000 (treeBytes 1)).1 = 0 ∧ flt 0 (ws.getD 1 0) = true ∧ isFin32 (ws.getD 2 0) = true ∧
    getAlloc treed 4 = some (hbm 0x10000) ∧ allocInPool treed 4 0 128 = false ∧ allocInPool treed 4 0x1000 32 = false ∧
    allocInPool treed 4 0x2000 (treeBytes 1) = false ∧ getQueue treed (ctileNat 0) 1 = [] := by decide +kernel
theorem witness_GrinderFlow : ∀ w ∈ [0x10 + 5 * 2 ^ 13, 0x11 + 5 * 2 ^ 13, 0x1F], let d := grinding w {} {}
    progWord d (ctileNat 0) prog = .inl w ∧ grindReserved w = false ∧ (w % 256 ≠ 0x1F → bitf w 13 6 = (5 : SemId).val) ∧ (getSem d 128 5).waiters = [] ∧
    (getSem d 128 5).count = 0 ∧ signalSemOf prog.launch.ent.words = (5 : SemId).val ∧ prog.launch.ent.org = .thread 0 1 none := by decide +kernel
theorem test_grinder_end : after (execGrinderEnd ct (st (grinding 0x1F {} {}))) (fun d => ((getCurv d 0).grind, d.sigs.map (·.sem))) (some prog, []) = (none, [5]) := by
  decide +kernel
def tap1 : Tap := { stream := 0, m := 1, l := 1, fmt := 8, elem := false, src := 0, rows := [[0x3F800000]] }
theorem witness_TapResults : let d := grinding 0 { closed with st := .open_ } { openRecs := [{ tap1 with fmt := 0 }], adm := [⟨tap1, 0, 0, true, []⟩], fill := [⟨0, []⟩] }
    (getCurv d 0).testing = false ∧ (getCurv d 0).openRecs = { tap1 with fmt := 0 } :: [] ∧ (getStream d 0 0).st = .open_ ∧ tap1.l = strDim closed.words ∧
    (getCurv d 0).fillBytes + stagedBytes (getStream d 0 0) 0 { tap1 with fmt := 0 } 0 ≤ 0x200000 ∧ (getCurv d 0).adm = ⟨tap1, 0, 0, true, []⟩ :: [] ∧
    tap1.rows = [0x3F800000] :: [] ∧ keepsRow (getStream d 0 0) 0 0 = true ∧ maySwap d 0 = true ∧
    keepsRow { closed with words := strWords.set 0 (1 + BitVec.ofNat 32 (2 ^ 24)) } 1 0 = false := by decide +kernel
theorem witness_TapResults_sweep : let d := grinding 0 closed { sweep := [⟨0, [[0x3F800000]]⟩] }
    groupsOf 0 (getCurv d 0).sweep ≠ [] ∧ (getStream d 0 0).sizes = [1] ∧ imgsFit d (strImg closed.words 0) [1] = true ∧
    (blockUse d (strImg closed.words 0) [1] 0).1 = 0 ∧ anyWaits d [(strImg closed.words 0).1] = false ∧ sweepPoison d 0 0 = none ∧
    (getAlloc d 3).map tierOf = some 1 := by decide +kernel
/-- A poisoned line among the staged rows. -/
theorem witness_TapResults_sweep_poison :
    let d := poisonScratch (grinding 0 closed { sweep := [⟨0, [[0x3F800000]]⟩], sweepAt := [(0, 0x400000, 64)] }) 128 0x400000
    groupsOf 0 (getCurv d 0).sweep ≠ [] ∧ (getStream d 0 0).sizes = [1] ∧ getAlloc d (strImg closed.words 0).1 = some (hbm 0x100000) ∧
    sweepPoison d 0 0 ≠ none := by decide +kernel
/-- R135: the code of the sweep that failed stands at the stream. -/
theorem test_sweep_poisoned : after (execSweepEnd 0 0 [] (st (poisonScratch (grinding 0 closed { sweep := [⟨0, [[0x3F800000]]⟩], sweepAt := [(0, 0x400000, 64)] }) 128 0x400000)))
    (fun d => ((getStream d 0 0).code, (getStream d 0 0).lost, (getCurv d 0).sweep.length)) (0, [], 9) = (0x11, [0], 0) := by decide +kernel

/-! ### The Percolator -/

def scripting (w : Nat) : Dev := { spWrite up 128 0 (natLe 8 w) with curv := [(0, { script := some prog })] }
theorem witness_PercolatorScripts : ∀ w ∈ [0x10 + 5 * 2 ^ 13, 0x11 + 5 * 2 ^ 13, 0x1F, 1 + 64 * 2 ^ 32], let d := scripting w
    fetchProg d (ctileNat 0) prog = .inl w ∧ scriptReserved w = false ∧ (getCurv d 0).job = none ∧ (getCurv d 0).script = some prog ∧
    hitsPool d (ctileNat 0) 64 64 = false ∧ d.mem.spPoison = [] ∧ checkJob d (ctileNat 0) (toWords 16 (spRead d (ctileNat 0) 64 64)) ≠ 0 := by decide +kernel
/-- A job of method `m` on one block of one element: D in allocation 2, OUT in 5, workspace in 7, the map at 0x1000. -/
def jobWords (m p : Nat) : List W32 := ((List.range 16).map fun i => BitVec.ofNat 32 (([(0, 0x70 + 256 * m + 4096 * p + 8 * 2 ^ 17), (2, 2), (4, 0x1000), (5, 5), (7, 7),
  (9, 0x100000), (10, 100), (11, 0x2000), (12, if m = 1 then 0x3F800000 else 0), (13, 0x3F800000), (14, if m = 1 then 1 else if m = 3 then 256 else 0), (15, 63 + 64 * 5)].lookup i).getD 0))
/-- The D image is 1.0, its header sound. -/
def jobDev (j : Job) : Dev :=
  let d := withAlloc (withAlloc (withAlloc (spWrite { up with curv := [(0, { script := some prog, job := some j })] } 128 0x1000 [1]) 2 (hbm 0x10000)) 5 (hbm 0x10000)) 7 (hbm 0x100000)
  allocWrite (allocWrite d 2 0 ([1, 0, 0, 0, 2] ++ zbytes 19 ++ [1])) 2 64 [0, 0, 0x80, 0x3F]
def jobE (m p : Nat) : Job := { words := jobWords m p, j := 0, total := 1, ready := true }
theorem witness_PercolatorScripts_job : let d := jobDev (jobE 1 1)
    checkJob d (ctileNat 0) (jobWords 1 1) = 0 ∧ waitSemOf (jobWords 1 1) = 63 := by decide +kernel
theorem witness_PercolatorScripts_limit : let j := { jobE 1 1 with started := true }
    j.ready = true ∧ testAsked (jobDev j) 0 = false ∧ (getCurv (jobDev j) 0).job = some j ∧ (getCurv (jobDev j) 0).testing = false ∧ j.finished = false ∧ j.root = none ∧
    ple (0x3F800000, 0) (pair32 ((jobWords 1 1).getD 13 0)) = true ∧ ple (0x40000000, 0) (pair32 ((jobWords 1 1).getD 13 0)) = false := by decide +kernel
theorem witness_PercolatorScripts_end : let j := { jobE 1 1 with finished := true, out := [(0, [1])] }
    (getCurv (jobDev j) 0).job = some j ∧ (getCurv (jobDev j) 0).script = some prog ∧ (jobDev j).mem.spPoison = [] ∧ j.total ≤ j.j + 1 ∧
    signalSemOf j.words = (5 : SemId).val ∧ getAlloc (jobDev j) 5 = some (hbm 0x10000) ∧ wordAt j.words 7 ≠ wordAt j.words 5 ∧
    (jobTested (jobDev j) 128 j).out = [(0, [1])] ∧ wordAt j.words 8 + wsBytes j.words (jobSize (jobDev j) 128 j) ≤ 2 ^ 64 := by decide +kernel
/-- A poisoned line of the workspace. -/
theorem witness_PercolatorScripts_poison : let j := { jobE 1 1 with finished := true, out := [(0, [1])] }
    wsPoison (poisonAlloc (jobDev j) 7 0) 128 j = true ∧ (getCurv (poisonAlloc (jobDev j) 7 0) 0).job = some j := by decide +kernel
theorem witness_BlockJobs_root : let d := jobDev (jobE 1 1)
    startable d 0 1 = some (jobE 1 1) ∧ bitAt (wordAt (jobWords 1 1) 0) 15 = false ∧ readD d (jobWords 1 1) [1] 0 0 = .inl [[(0x3F800000, 0)]] ∧
    (frob 1 [[(0x3F800000, 0)]]).1 = 0x3F800000 ∧ frcp 0x3F800000 = 0x3F800000 ∧ matFin (ident 1 (0x3F800000, 0)) = true ∧
    pfin (residOf 1 [[(0x3F800000, 0)]]) = true ∧ readD d (jobWords 1 1) [2] 0 0 = .inr 0x23 := by decide +kernel
def rootJ (rho : Pair) : Job := { jobE 1 1 with started := true, root := some ⟨[[pOne]], [[pOne]], [[pOne]], [[pOne]], rho, rho, 0, 0, 0, none⟩ }
theorem witness_BlockJobs_iteration : let j := rootJ (0x40000000, 0)
    (getCurv (jobDev j) 0).job = some j ∧ wsPoison (jobDev j) 128 j = false ∧ (getCurv (jobDev j) 0).testing = false ∧
    ple (0x40000000, 0) (pair32 ((jobWords 1 1).getD 12 0)) = false ∧ 0 ≠ dfield (jobWords 1 1) 14 0 8 ∧
    ¬ wordAt (jobWords 1 1) 10 ≤ 99 ∧ wordAt (jobWords 1 1) 10 ≤ 100 ∧ ple (0, 0) (pair32 ((jobWords 1 1).getD 12 0)) = true ∧
    bitAt (wordAt (jobWords 1 1) 0) 16 = false ∧ j.verify = false ∧ vecFree (jobDev j) (ctileNat 0) .solver = true ∧ 100 < hardLimit (jobWords 1 1) ∧
    hardLimit (jobWords 1 1) ≤ 400 := by decide +kernel
/-- The direct residual of VERIFY is still to be formed. -/
theorem witness_BlockJobs_verify : let j := { rootJ (0x40000000, 0) with verify := true }
    (getCurv (jobDev j) 0).job = some j ∧ j.verify = true ∧ vecFree (jobDev j) (ctileNat 0) .solver = true ∧ wsPoison (jobDev j) 128 j = false := by
  decide +kernel
theorem witness_BlockJobs_chol : startable (jobDev (jobE 2 0)) 0 2 = some (jobE 2 0) ∧ readD (jobDev (jobE 2 0)) (jobWords 2 0) [1] 0 0 = .inl [[(0x3F800000, 0)]] ∧
    (match chol [[(0x3F800000, 0)]] 1 0 with | .ok _ => true | _ => false) = true ∧
    (match chol [[(0xBF800000, 0)]] 1 0 with | .pivot _ => true | _ => false) = true := by decide +kernel
theorem witness_BlockJobs_cholsolve : startable (jobDev (jobE 3 0)) 0 3 = some (jobE 3 0) ∧
    readD (jobDev (jobE 3 0)) (jobWords 3 0) [1] 0 (rhsBytes (jobWords 3 0) 1) = .inl [[(0x3F800000, 0)]] := by decide +kernel
/-- A tree image of one body whose node matrix is the identity. -/
def treeJob : Dev :=
  let row := fun (i : Nat) => (List.range 6).flatMap fun j => if i = j then [0, 0, 0x80, (0x3F : Byte)] else zbytes 4
  allocWrite (allocWrite (jobDev (jobE 4 0)) 2 0 ([1, 0, 0, 0, 3] ++ zbytes 19 ++ [1])) 2 64 ([0xFF, 0xFF] ++ zbytes 62 ++ (List.range 6).flatMap row)
theorem witness_BlockJobs_tree : let w := jobWords 4 0
    let h := allocRead treeJob 2 0 64
    let n := (List.range 6).map fun r => rowPairs 8 (allocRead treeJob 2 (128 + 24 * r) 24) 6
    startable treeJob 0 4 = some (jobE 4 0) ∧ jobBodies treeJob w = 1 ∧
    jobUse treeJob w (0, treeBytes 1) (0, rhsBytes w 6) (0, wsBytes w 1) = 0 ∧ recf h 4 4 = 3 ∧ bitAt (recf h 0x18 4) 0 = true ∧
    matFin n = true ∧ flt 0 (maxDiag (diagOf n)) = true ∧
    (match treeElim [0xFFFF] [n] 0 [0] ⟨[n], [], []⟩ with | .inl _ => true | .inr _ => false) = true := by decide +kernel

/-! ### Collectives -/

def words16 (l : List (Nat × Nat)) : List W32 := (List.range 16).map fun i => BitVec.ofNat 32 ((l.lookup i).getD 0)
/-- An entry of a group of this device alone: COLL_ID 5, EPOCH 1, the rank list at 0x400, counts or table at 0x440, one element
(RESHARD: two slots of 64 bytes) of four bytes, SRC in allocation 2 and DST in allocation 3, one staging tile. -/
def entryW (op : Nat) : List W32 :=
  let red := op = 0xC0 ∨ op = 0xC1
  let moves := op ≠ 0xC6 ∧ op ≠ 0xC8 ∧ op ≠ 0xCF
  words16 ([(0, op + (if op = 0xC5 ∨ op = 0xC6 ∨ op = 0xC8 ∨ op = 0xCF then 0 else 2 ^ 11) + (if moves then 2 * 2 ^ 13 else 0) + (if red then 0 else 0)),
    (1, 5), (2, 1), (4, 0x400), (5, if op = 0xC5 then 0x440 else 0), (6, if op = 0xC5 then 64 else if moves ∨ op = 0xC8 then 1 else 0), (7, if op = 0xC5 then 2 else 0),
    (8, if op = 0xC5 then 3 else if op = 0xC8 then 4 else 2), (9, if op = 0xC8 then 18 else 0), (10, 3), (11, if op = 0xC5 ∨ ¬ moves then 0 else 1), (15, 63 + 64 * 63)])
/-- Engine P07 runs a program at 0 in allocation 4, its results at 0x800; this device is rank 0 alone; the list at 0x480 says so. -/
def cprog : CProg := { launch := ⟨0, ent 4 [(0, 0xA2), (15, 63 + 64 * 5)] .running⟩, alloc := 4, off := 0, resOff := 0x800 }
def coll0 (op : Nat) : Dev :=
  let d := withAlloc (withAlloc (withAlloc up 2 (hbm 4096)) 3 { hbm 4096 with kind := 1 }) 4 (hbm 4096)
  let d := allocWrite d 4 0 ((entryW op).flatMap fun v => natLe 4 v.toNat)
  let d := allocWrite d 4 0x440 (natLe 8 0 ++ natLe 2 0 ++ natLe 6 1 ++ natLe 2 0 ++ natLe 6 1 ++ natLe 8 0)
  let d := allocWrite d 4 0x480 (natLe 8 (2 ^ 32))
  { d with fab := { engines := [(7, some cprog)], ranks := some [(0, true)] } }
/-- 1.0 stands at SRC. -/
def coll1 (op : Nat) : Dev := allocWrite (coll0 op) 2 0 [0, 0, 0x80, 0x3F]
theorem witness_CollectiveStarts : ∀ op ∈ [0xC0, 0xC1, 0xC2, 0xC3, 0xC4, 0xC5], let d := coll1 op
    let w := entryW op
    alive d = true ∧ fget none d.fab.engines 7 = some cprog ∧ cprog.waiting = false ∧ collOn d 7 = none ∧ entryOf d cprog = (0, w) ∧ d.fab.early = [] ∧ checkEntryFields w = 0 ∧ waitSemOf w = 63 ∧
    collOp w = op ∧ (prepareColl d 7 cprog w).1 = 0 ∧ isNorm w = false ∧ d.mem.spPoison = [] ∧ d.mem.tierPoison = [] ∧
    (getAlloc d 3).map (·.poisonFull) = some false := by decide +kernel
theorem witness_CollectiveStarts_prepared : ∀ op ∈ [0xC0, 0xC1, 0xC2, 0xC3, 0xC4, 0xC5], let d := coll1 op
    let k := (prepareColl d 7 cprog (entryW op)).2
    k.map (·.faddrs) = some [ownAddr d] ∧ k.map (srcRead d) = some false ∧ k.map (·.mode) = some 0 ∧
    progWaits d cprog = false ∧ k.map (collWaits d) = some false ∧ (op = 0xC3 → k.map (·.recvCounts) = k.map (·.counts)) ∧ (op = 0xC5 → k.map (·.table) = some [(0, 0, 0, 1), (0, 1, 0, 0)]) := by decide +kernel
theorem witness_CollectiveStarts_barrier : let d := coll0 0xC6
    progWaits d cprog = false ∧ (prepareColl d 7 cprog (entryW 0xC6)).2.map (collWaits d) = some false ∧
    (prepareColl d 7 cprog (entryW 0xC6)).1 = 0 ∧ (prepareColl d 7 cprog (entryW 0xC6)).2.map (·.faddrs) = some [0] ∧ entryOf d cprog = (0, entryW 0xC6) ∧
    checkEntryFields (entryW 0xC6) = 0 := by decide +kernel
/-- The destination lies in host memory, and the link is down. -/
theorem witness_CollectiveStarts_held : let d := putAlloc (coll1 0xC2) 3 (some { hbm 4096 with kind := 1, flags := 2 })
    let w := entryW 0xC2
    entryOf d cprog = (0, w) ∧ (prepareColl d 7 cprog w).1 = 0 ∧ (prepareColl d 7 cprog w).2.map (collWaits d) = some true ∧
    (prepareColl d 7 cprog w).2.map (·.faddrs) = some [ownAddr d] ∧ d.fab.colls = [] ∧ d.fab.early = [] ∧ progWaits d cprog = false := by decide +kernel
/-- R337: the entry is active and moves nothing; with the link back up it goes on. -/
theorem test_collective_held : after (execAllgather 7 (st (putAlloc (coll1 0xC2) 3 (some { hbm 4096 with kind := 1, flags := 2 }))))
    (fun d => d.fab.colls.map (·.held)) [] = [true] := by decide +kernel
/-- 64 collectives are active, of other engines. -/
theorem witness_CollectiveStarts_full : let k : Coll := { port := 8, words := (entryW 0xC6).set 1 6, group := [0], faddrs := [0], counts := [], recvCounts := [], me := 0, hash := 0, mode := 0 }
    let d := { coll0 0xC6 with fab := { (coll0 0xC6).fab with colls := List.replicate 64 k } }
    64 ≤ d.fab.colls.length ∧ collOn d 7 = none ∧ (prepareColl d 7 cprog (entryW 0xC6)).1 = 0 ∧ (prepareColl d 7 cprog (entryW 0xC6)).2.isSome = true := by
  decide +kernel
/-- No such rank ends the entry with its code. -/
theorem witness_CollectiveStarts_refused : let d := { coll0 0xC6 with fab := { (coll0 0xC6).fab with ranks := some [(0, false)] } }
    (prepareColl d 7 cprog (entryW 0xC6)).1 = 0x52 ∧ (prepareColl d 7 cprog (entryW 0xC6)).2 = none := by decide +kernel
theorem test_allreduce_alone : after (execAllreduce 7 (st (coll1 0xC0))) (fun d => allocRead d 3 64 4) [] = [0, 0, 0x80, 0x3F] := by decide +kernel
/-- The RESHARD of two slots in allocation 3, at a point of its cycle. -/
def swapping (moved staged : List Nat) (stages : List (Nat × Nat × List Byte)) : Dev :=
  let d := withAlloc up 3 (hbm 4096)
  let w := (entryW 0xC5).set 8 3
  let k : Coll := { port := 7, words := w, group := [0], faddrs := [0], counts := [1], recvCounts := [], me := 0, hash := 0, mode := 1
                    table := [(0, 0, 0, 1), (0, 1, 0, 0)], moved := moved, staged := staged, stages := stages }
  { allocWrite d 3 64 [7] with fab := { colls := [k] } }
theorem witness_ReshardMoves : ∀ d ∈ [swapping [] [] [], swapping [] [0] [], swapping [1] [0] [(0, 0, [7])]], ∀ k ∈ d.fab.colls,
    d.fab.colls.length = 1 ∧ k.port = 7 ∧ k.held = false ∧ collOp k.words = 0xC5 ∧ k.group.length = 1 ∧ k.ins = [] ∧ d.fab.retained = [] ∧ d.mem.spPoison = [] ∧
    d.mem.tierPoison = [] ∧ wordAt k.words 8 = wordAt k.words 10 ∧ wordAt k.words 9 = wordAt k.words 11 ∧
    getAlloc d (wordAt k.words 10) = some (hbm 4096) := by decide +kernel
/-- Two cycles of two slots: the buffer holds the first one's slot. -/
theorem witness_ReshardMoves_taken : let d := swapping [] [0] [(0, 0, [])]
    let d := { d with fab := { d.fab with colls := d.fab.colls.map fun k => { k with table := k.table ++ [(0, 2, 0, 3), (0, 3, 0, 2)] } } }
    ∀ k ∈ d.fab.colls, collOn d 7 = some k ∧ cycleHead k.table 2 = 2 ∧ 2 ∉ k.moved ∧ 2 ∉ k.staged ∧ fixedMove (0, 2, 0, 3) = false ∧
      k.table[2]? = some (0, 2, 0, 3) ∧ stageTaken d (stagePort d k 2) = true := by decide +kernel
/-- R107: the slots are exchanged through the buffer. -/
theorem test_reshard_last_move : after (execReshard ⟨7, some 0⟩ (st (swapping [1] [0] [(0, 0, [7])]))) (fun d => (allocRead d 3 64 1, d.fab.colls.map (·.moved))) ([], []) =
    ([7], [[1, 0]]) := by decide +kernel
theorem witness_CollectiveEntries_setranks : let d := coll0 0xC8
    let w := entryW 0xC8
    progWaits d cprog = false ∧ collOn d 7 = none ∧ entryOf d cprog = (0, w) ∧ collOp w = 0xC8 ∧ checkEntryFields w = 0 ∧ waitSemOf w = 63 ∧ signalSemOf w = 63 ∧ d.fab.colls = [] ∧
    collTotal w = 1 ∧ (∀ a, getAlloc d cprog.alloc = some a → cprog.resOff + 16 ≤ a.size) ∧ readList d (wordAt w 8) (srcOff w) 8 = (0, natLe 8 (2 ^ 32)) ∧
    numbers 8 (natLe 8 (2 ^ 32)) = [ownAddr d + 2 ^ 32] ∧ (getAlloc d (wordAt w 8)).map tierOf = some 1 := by decide +kernel
def active (op : Nat) (w15 : Nat) (k : Coll → Coll) : Dev :=
  let w := (entryW op).set 15 (BitVec.ofNat 32 w15)
  let j : Coll := k { port := 7, words := w, group := [0], faddrs := [0], counts := [1], recvCounts := [], me := 0, hash := 0, mode := 1 }
  { coll0 op with fab := { (coll0 op).fab with colls := [j] } }
theorem witness_CollectiveEntries_complete : ∀ op ∈ [0xC2, 0xC6], let d := active op (63 + 64 * 5) fun k => { k with part := 1, released := true }
    (collOn d 7).map (·.code) = some 0 ∧ (collOn d 7).map (collDone d) = some true ∧ (collOn d 7).map (fun k => signalSemOf k.words) = some (5 : SemId).val ∧
    (collOn d 7).map (fun k => semTile k.words) = some (some 0) ∧ (collOn d 7).map (fun k => isNorm k.words) = some false ∧
    (collOn d 7).map (·.ins) = some [] ∧ d.fab.colls.length = 1 := by decide +kernel
theorem witness_CollectiveEntries_end : let d := coll0 0xCF
    progWaits d cprog = false ∧ entryOf d cprog = (0, entryW 0xCF) ∧ collOn d 7 = none ∧ waitSemOf (entryW 0xCF) = 63 ∧ collOp (entryW 0xCF) = 0xCF ∧ checkEntryFields (entryW 0xCF) = 0 ∧ cprog.launch.ent.org = .thread 0 1 none ∧
    signalSemOf cprog.launch.ent.words = (5 : SemId).val := by decide +kernel
theorem witness_CollectiveEntries_staged : let d := active 0xC1 (63 + 64 * 63) fun k => { k with words := k.words.set 12 (BitVec.ofNat 32 64), ins := [(0, { cum := 1 })] }
    ∀ k, collOn d 7 = some k → k.code = 0 ∧ findColl d 5 1 0 = some k ∧ isReducing (collOp k.words) = true ∧ k.mode ≠ 0 ∧ isNorm k.words = false ∧
      isAccum k.words = false ∧ (getIn k 0).got = [] ∧ chunkReady d k 0 = true ∧
      (∀ i, i < k.group.length → k.counts.getD i 0 ≠ 0) := by decide +kernel

/-! ### Packets, flits and ports -/

def pkt (type : Nat) (payload : List Byte) : Packet :=
  { type := type, flags := 1, dst := 0, src := 1, srcIndex := 1, dstIndex := 0, collId := 5, epoch := 1, seq := 0, hops := 0, dhash := 0, payload := payload }
/-- Port 0 is up and a packet stands at its head on channel `vc`. -/
def arrivedOn (d : Dev) (vc : Nat) (q : Packet) : Dev := { d with fab := { d.fab with ports := [(0, { state := 2, rxq := [(vc, q)] })] } }
/-- An active issue of ranks 0 (this device) and 1. -/
def issueOf (op : Nat) : Dev := active op (63 + 64 * 63) fun k => { k with group := [0, 1], faddrs := [0, 1], counts := [1, 1], port := 7 }
theorem witness_IssuePackets_early : let d := arrivedOn up 0 (pkt 1 [])
    headPkt d 0 0 = some (pkt 1 []) ∧ (d.fab.colls.all fun k => collId k.words != 5) = true ∧ fget [] d.fab.doneIds 5 = [] ∧ earlyRoom d (pkt 1 []) = true := by
  decide +kernel
theorem witness_IssuePackets_chunk : let q := pkt 1 (natLe 4 7)
    let d := arrivedOn (issueOf 0xC2) 0 q
    headPkt d 0 0 = some q ∧ ∃ k, findColl d 5 1 0 = some k ∧ chunkHeld d k q = false ∧ collOp k.words = 0xC2 ∧ isNorm k.words = false ∧ q.dhash = k.hash ∧
      haveChunk (getIn k 1) q.seq = false ∧ chunkPlace (esize k.words * k.counts.getD 1 0) none q.seq = some (0, 0, 4, true) ∧ q.payload.length = roundUp 4 4 ∧
      bitAt q.flags 0 = true ∧ d.mem.spPoison = [] ∧ d.mem.tierPoison = [] ∧ destCode d (wordAt k.words 10) = 0 ∧
      (getAlloc d (wordAt k.words 10)).isSome = true :=
  ⟨by decide +kernel, _, rfl, by decide +kernel⟩
theorem witness_IssuePackets_again : let q := pkt 1 []
    let d := arrivedOn (active 0xC2 (63 + 64 * 63) fun k => { k with ins := [(1, { cum := 1 })] }) 0 q
    ∃ k, findColl d 5 1 0 = some k ∧ chunkHeld d k q = false ∧ haveChunk (getIn k 1) q.seq = true := ⟨_, rfl, by decide +kernel⟩
/-- The issue waits for the link. -/
theorem witness_IssuePackets_held : let q := pkt 1 []
    let d := arrivedOn (active 0xC2 (63 + 64 * 63) fun k => { k with held := true }) 0 q
    headPkt d 0 0 = some q ∧ ∃ k, findColl d 5 1 0 = some k ∧ chunkHeld d k q = true := ⟨by decide +kernel, _, rfl, by decide +kernel⟩
/-- A row of an ORDERED reduction for the first half of the window. -/
theorem witness_IssuePackets_staged : let q := pkt 1 (natLe 4 7)
    let d := arrivedOn (active 0xC1 (63 + 64 * 63) fun k => { k with words := k.words.set 12 (BitVec.ofNat 32 64), group := [0, 1], faddrs := [0, 1], counts := [1, 1] }) 0 q
    headPkt d 0 0 = some q ∧ ∀ k, findColl d 5 1 0 = some k → chunkHeld d k q = false ∧ collOp k.words = 0xC1 ∧ k.mode = 1 ∧ isRecords k.words = false ∧ isNorm k.words = false ∧
      (getIn k 1).got = [] ∧ k.counts.getD 1 0 ≠ 0 ∧ haveChunk (getIn k 1) 0 = false ∧ chunkPlace (4 * k.counts.getD k.me 0) none 0 = some (0, 0, 4, true) ∧
      4 / 4 ≤ chunkElems k.words ∧ halfFree k 0 = true := by decide +kernel
/-- ABORT for an issue that has completed. -/
theorem witness_IssuePackets_completed : let q := pkt 3 []
    let d := arrivedOn { up with fab := { doneIds := [(5, [(1, true)])] } } 1 q
    headPkt d 0 1 = some q ∧ (d.fab.colls.all fun k => collId k.words != 5) = true ∧ (1, true) ∈ fget [] d.fab.doneIds 5 ∧ d.fab.abortsIn = [] := by
  decide +kernel
theorem witness_IssuePackets_barrier : ∀ y ∈ [4, 5], let q := pkt y []
    let d := arrivedOn (issueOf 0xC6) 1 q
    headPkt d 0 1 = some q ∧ (findColl d 5 1 0).map (fun k => [k.hash, collOp k.words, b2n (isNorm k.words), k.code, k.me, k.part, k.arrived.length, k.group.length]) =
      some [0, 0xC6, 0, 0, 0, 0, 0, 2] ∧ (findColl d 5 1 0).map (fun k => k.held || collWaits d k) = some false := by decide +kernel
theorem witness_IssuePackets_abort : let q := pkt 3 []
    let d := arrivedOn (issueOf 0xC6) 1 q
    headPkt d 0 1 = some q ∧ d.fab.colls.length = 1 ∧ d.fab.abortsIn = [] ∧ fget none d.fab.engines 7 = some cprog ∧
    (getAlloc d 4).map tierOf = some 1 := by decide +kernel
theorem test_early_packet_is_held : after (execDataPacket 0 (st (arrivedOn up 0 (pkt 1 [1])))) (fun d => d.fab.early) [] = [(0, pkt 1 [1])] := by decide +kernel
theorem test_release : after (execRelease 0 (st (arrivedOn (issueOf 0xC6) 1 (pkt 5 [])))) (fun d => d.fab.colls.map (·.released)) [] = [true] := by decide +kernel

theorem witness_FabricFlow : let q := pkt 6 [0, 5, 2, 0]
    let d := arrivedOn up 1 q
    alive d = true ∧ headPkt d 0 1 = some q ∧ flowHas (sigFlow d 1) q.seq = false ∧ semOfNat (sigSem q) = some 5 ∧ remoteTile (recf q.payload 0 1) = some 0 ∧
    (getPort d 0).rxq ≠ [] ∧ partnerAddr d = 1 ∧ recf (pkt 6 [2, 63, 0xFF, 0xFF]).payload 0 1 = 2 ∧
    isPairControl (pkt 6 [0, 63, 0, 0]) 0 = true ∧ isPairControl (pkt 6 [1, 63, 0xFF, 0xFF]) 0xFFFF = true ∧ d.safety.pairState < 2 ∧
    flowHas { cum := 1 } q.seq = true := by decide +kernel
def retained1 (n : Nat) : Dev := { arrivedOn up 1 (pkt 2 []) with fab := { (arrivedOn up 1 (pkt 2 [])).fab with retained := [⟨pkt 1 [], 0, n, false⟩], early := [(0, pkt 1 [])] } }
theorem witness_FabricFlow_timers : (retained1 0).fab.retained[0]? = some ⟨pkt 1 [], 0, 0, false⟩ ∧ portUp (retained1 0) 0 = true ∧ 0 < 16 ∧
    (retained1 8).fab.retained[0]? = some ⟨pkt 1 [], 0, 8, false⟩ ∧ (retained1 8).fab.colls = [] ∧ (retained1 0).fab.early[0]? = some (0, pkt 1 []) ∧
    (∀ r ∈ (retained1 0).fab.retained, r.port < 16) := by decide +kernel
theorem witness_FabricFlow_owing : let d := { up with fab := { sigIn := [(1, { cum := 1, unacked := 1 })] } }
    (owingFlows d)[0]? = some (none, 1) := by decide +kernel
theorem witness_FabricFlow_owing_issue : let d := active 0xC2 (63 + 64 * 63) fun k => { k with ins := [(1, { cum := 1, unacked := 1 })] }
    ∀ k ∈ d.fab.colls, (owingFlows d)[0]? = some (some k, 1) ∧ findColl d (collId k.words) (collEpoch k.words) k.me = some k := by decide +kernel
theorem test_signal_packet_once : after (execSignalPacket 0 (st (arrivedOn up 1 (pkt 6 [0, 5, 2, 0])))) (fun d => (d.sigs, flowHas (sigFlow d 1) 0)) ([], false) =
    ([⟨0, 5, 2, .program, none, none⟩], true) := by decide +kernel

/-- A flit of type `t` and its CRC. -/
def flit (t : Nat) (area : List Byte) : List Byte :=
  let b := flitBytes 0 t 0 0 (0, 0).1 (0, 0).2 (padTo 304 area)
  b
def portUp0 : Dev := { up with fab := { ports := [(0, { state := 2 })] } }
theorem witness_FlitResults : ∀ t ∈ [0, 1, 2], let b := flit t []
    portUp portUp0 0 = true ∧ ftypeOf b = t ∧ (getPort portUp0 0).txq = [] ∧ selective portUp0 0 = false ∧ (getPort portUp0 0).codeword = none ∧
    flitsPerCodeword portUp0 0 = 1 ∧ flitsPerCodeword { up with fab := { ports := [(0, { state := 2, mode := some 2 })] } } 0 = 2 := by decide +kernel
theorem witness_FlitResults_crc : (flit 0 []).length = 320 ∧ recf (flit 0 []) 0x13C 4 = (crc32c ((flit 0 []).take 0x13C)).toNat := flitBytes_sound _ _ _ _ _ _ _
theorem witness_FlitResults_data : let q := { pkt 1 [] with dst := 0 }
    let b := flit 1 (encPacket q)
    let area := (b.drop 12).take 304
    fseqOf b = (getPort portUp0 0).rxSeq ∧ fvcOf b = 0 ∧ (decPacket area).type = 1 ∧ recf area 2 2 % 4 = 0 ∧ recf area 2 2 = 0 ∧ (area.drop 32).take 4 = pktCrc (decPacket area) ∧
    (area.drop 36).headD 0 = 0 ∧ (decPacket area).hops = 0 ∧ (decPacket area).dst = ownAddr portUp0 := by decide +kernel
theorem witness_FlitResults_order : let b := flitBytes 1 1 0 0 0 0 (zbytes 304)
    (fseqOf b + seqMod - 0) % seqMod < seqMod / 2 ∧ (fseqOf b + seqMod - 0) % seqMod ≠ 0 ∧ [(0, 8, ([] : List Byte))].any (fun e => decide (8 ≤ e.2.1)) = true := by
  decide +kernel
/-- Port 7 or 0 in state `s`. -/
def ports (p s : Nat) : Dev := { up with fab := { ports := [(p, { state := s, negRev := 7 })] } }
def rec_ (ty : Nat) (l : List (Nat × Byte)) : List Byte := natLe 1 ty ++ (List.range 303).map fun i => (l.lookup (i + 1)).getD 0
theorem witness_TrainingResults : listening (ports 0 1) 0 = true ∧ record0.length = 304 ∧ (getPort (ports 0 1) 0).ackRecv = false ∧ (getPort (ports 0 1) 0).l8For = none ∧
    dget up 0x6010 1 ≠ 3 ∧ portUp (ports 7 2) 7 = true ∧ portUp (ports 0 2) 0 = true ∧ (getPort (ports 0 2) 0).negRev = 7 ∧
    (getPort (ports 0 1) 0).codeword ≠ some false ∧ (getPort (ports 0 2) 0).codeword ≠ some false ∧ (getPort (ports 7 2) 7).codeword ≠ some false := by decide +kernel
/-- A codeword whose first flit was bad is not over. -/
theorem witness_TrainingResults_codeword : let d := { up with fab := { ports := [(0, { state := 2, codeword := some false })] } }
    portUp d 0 = true ∧ listening d 0 = true ∧ (getPort d 0).codeword = some false := by decide +kernel
/-- A SWITCH port that is not up yet takes a flit as the first of a codeword. -/
theorem witness_TrainingResults_listening : listening (ports 7 1) 7 = true ∧ portUp (ports 7 1) 7 = false ∧ (getPort (ports 7 1) 7).codeword = none ∧
    (zbytes 320).length = 320 := by decide +kernel
theorem test_training_codeword : after (execIdleFlit 7 (.decoded 0) flit0 (st { up with fab := { ports := [(7, { state := 1, mode := some 1 })] } })) (fun d => (getPort d 7).codeword) none = some true := by
  decide +kernel
theorem witness_TrainingResults_lanes : alive (ports 0 2) = true ∧ (0 : Fin 9).val ∉ (getPort (ports 0 2) 0).badLanes ∧ 8 ∉ (getPort (ports 0 2) 0).badLanes ∧
    (ports 0 2).power.devState = 1 ∧ (getPort (ports 0 2) 0).state = 2 ∧ (getPort (ports 0 2) 0).recal = none ∧ (getPort (ports 0 2) 0).l8For = none := by decide +kernel
theorem witness_TrainingResults_second_lane : let d := { up with fab := { ports := [(0, { state := 3, badLanes := [1], l8For := some 1 })] } }
    listening d 0 = true ∧ (getPort d 0).l8For = some 1 ∧ 0 ∉ (getPort d 0).badLanes ∧ 8 ∉ (getPort d 0).badLanes := by decide +kernel
theorem test_lane_failure : after (execLaneFailure 0 3 (st (ports 0 2))) (fun d => ((getPort d 0).state, (getPort d 0).l8For)) (0, none) = (3, some 3) := by decide +kernel
theorem test_port_silent : after (execPortSilent 0 (st (ports 0 2))) (fun d => ((getPort d 0).state, (getPort d 0).reason)) (9, 0) = (0, 17) := by decide +kernel
theorem witness_TrainingResults_record : ∀ ty ∈ [1, 2, 3, 4, 5, 6], let r := rec_ ty (if ty = 4 ∨ ty = 5 then [(0x28, 1)] else [])
    recOk r ty = true ∧ r.length = 304 := by decide +kernel
/-- An IDENT that passes every check at port P00 of the device at address 0x100, and one that fails the first check at address 0. -/
theorem witness_TrainingResults_ident : identCheck (dset (ports 0 1) 0x6001 1 0x100) 0 (rec_ 1 [(1, 6), (4, 1), (5, 1), (0x14, 7), (0x16, 5)]) = 0 ∧
    identCheck (ports 0 1) 0 (rec_ 1 []) = 1 := by decide +kernel
theorem witness_TrainingResults_down : recf (rec_ 3 [(0x1A, 7)]) 0x1A 1 = 7 ∧ 7 < recf (rec_ 3 [(0x1A, 8)]) 0x1A 1 := by decide +kernel
theorem nowMs_up : nowMs up = 0 := by
  have h : up.tc = 0 := rfl
  rw [nowMs, h, Nat.zero_div]
theorem witness_TrainingResults_flapping : 8 ≤ (recentDowns up { downs := List.replicate 8 0 }).length := by simp [recentDowns, nowMs_up]
theorem witness_TrainingResults_ident_ack : let r := rec_ 2 [] |>.take 32
    recf (r ++ natLe 8 Config.serial.toNat ++ zbytes 264) 0x20 8 = Config.serial.toNat := by
  have h1 : ((rec_ 2 []).take 32).length = 32 := by decide +kernel
  have := Config.serial.isLt
  simp only [recf, List.append_assoc]
  rw [List.drop_append_of_le_length (by omega), List.drop_of_length_le (by omega), List.nil_append,
    List.take_append_of_le_length (by simp [natLe_length]), List.take_of_length_le (by simp [natLe_length]), leNat_natLe]
  omega

/-! ### The pair and self-test -/

/-- Mirror packet of subtype `s` for allocation 7 at P15's head, with value `v` and data `b`. -/
def mpkt (s v epoch : Nat) (b : List Byte) : Packet := { pkt 7 ([BitVec.ofNat 8 s] ++ zbytes 7 ++ natLe 8 v ++ b) with collId := 7, epoch := epoch, seq := 0 }
def mirrored (a : Alloc) (q : Packet) : Dev := { withAlloc up 7 a with fab := { ports := [(15, { rxq := [(2, q)] })] } }
def copyA : Alloc := { hbm 4096 with flags := 1 + 8, mirrorCopy := true, begun := some 3 }
theorem witness_MirrorPackets : ∀ s ∈ [1, 2, 3], let q := mpkt s 3 3 [9]
    let d := mirrored copyA q
    headPkt d 15 2 = some q ∧ (mirrorOfPacket q).sub = s ∧ getAlloc d 7 = some copyA ∧ copyA.mirrorCopy = true ∧ tierOf copyA ≠ 0 ∧ d.safety.pairState ≠ 2 ∧
    3 % 2 ^ 32 = (mirrorOfPacket q).epoch ∧ d.mem.tierUndef = [] ∧ copyA.size ≤ 2 ^ 64 := by decide +kernel
theorem witness_MirrorPackets_inv : (st (mirrored copyA (mpkt 3 3 3 []))).Inv := rfl
theorem witness_MirrorPackets_ack : let a := { hbm 4096 with flags := 1 + 8, counter := 3 }
    let d := { mirrored a (mpkt 4 3 0 []) with safety := { pairState := 1 } }
    d.safety.pairState = 1 ∧ (mirrorOfPacket (mpkt 4 3 0 [])).sub = 4 ∧ a.mirrorCopy = false ∧ d.safety.joinWait = false ∧ a.mirrorAck < 3 ∧ 3 ≤ a.counter ∧ delayOf a = 0 ∧ a.counter = 3 := by decide +kernel
theorem witness_MirrorPackets_repair : ∀ s ∈ [5, 8, 9, 10, 11], (mirrorOfPacket (mpkt s 0 0 [1])).sub = s ∧
    allocPoisonAt (mirrored copyA (mpkt s 0 0 [1])) 7 0 64 = none ∧ clip copyA 0 [1] ≠ [] ∧ portUp (mirrored copyA (mpkt s 0 0 [1])) 15 = false := by decide +kernel
/-- The joined pair holds version 0 of allocation 7. -/
theorem witness_MirrorPackets_version : let d := { mirrored copyA (mpkt 8 0 0 []) with safety := { pairState := 1 } }
    versionHere d copyA 0 = true ∧ copyA.torn = false ∧ (0 : Nat) < copyA.size := by decide +kernel
theorem witness_MirrorPackets_join_wait : let d := { up with safety := { joinWait := true, joinAcks := [7], partnerDone := true } }
    d.safety.joinWait = true ∧ d.safety.joinAcks = [7] ∧ (mirrorOfPacket (mpkt 4 3 0 [])).alloc = 7 := by decide +kernel
/-- No region of the allocation waits. -/
theorem witness_MirrorPackets_no_region : ∀ e ∈ up.mem.slow, e.from_.isSome = true → 7 ∉ updNames e.words := by decide +kernel
/-- JOIN_COPY that says that the partner's copies are done. -/
theorem witness_MirrorPackets_done : let q := { mpkt 11 0 0 (zbytes 6 ++ [3, 0]) with collId := 0 }
    (mirrorOfPacket q).sub = 11 ∧ (mirrorOfPacket q).alloc = 0 ∧ (mirrorOfPacket q).seq = 0 ∧ recf (mirrorOfPacket q).data 6 2 = 3 := by decide +kernel
theorem witness_MirrorPackets_poison : let d := poisonAlloc (mirrored copyA (mpkt 9 0 0 [1])) 7 0
    allocPoisonAt d 7 0 1 ≠ none ∧ (getAlloc d 7).map (fun a => (a.counter, a.mirrorAck)) = some (0, 0) := by decide +kernel
theorem witness_MirrorPackets_join : let q := mpkt 11 0 0 (natLe 8 9 ++ natLe 8 4096 ++ zbytes 16)
    let d := { up with fab := { ports := [(15, { rxq := [(2, q)] })] } }
    let m := mirrorOfPacket q
    m.sub = 11 ∧ m.seq = 0 ∧ getAlloc d 7 = none ∧ recf m.data 6 2 ≠ 2 ∧ recf m.data 0 4 % 4 = 1 ∧ 0 < recf m.data 8 8 ∧ tierUsed d 1 + 2 * recf m.data 8 8 ≤ hbmCapacity d := by decide +kernel
theorem test_commit_end : after (execCommitEnd (st (mirrored copyA (mpkt 3 3 3 [])))) (fun d => (getAlloc d 7).map (fun a => (a.counter, a.begun))) none =
    some (3, none) := by decide +kernel

theorem witness_PairLoss : let d := { mirrored (hbm 64) (mpkt 6 0 0 []) with power := { step := 10, devState := 1 } }
    alive d = true ∧ headPkt d 15 2 = some (mpkt 6 0 0 []) ∧ d.fab.colls = [] ∧ d.safety.pairState < 2 ∧ partnerAddr d = 1 ∧ partnerAddr d ≠ ownAddr d := by decide +kernel
theorem witness_PairLoss_fence : (mirrorOfPacket (mpkt 7 1 0 [])).value = partnerAddr up ∧ (mirrorOfPacket (mpkt 7 0 0 [])).value = ownAddr up ∧
    ownAddr up % 2 = 0 ∧ { up with safety := { pairState := 2 } }.safety.pairState = 2 := by decide +kernel
theorem witness_PairLoss_heartbeats : let d := { ports 15 2 with safety := { hbOn := true } }
    d.safety.hbOn = true ∧ portUp d 15 = true ∧ 9 ≤ d.power.step ∧ d.safety.pairState ≠ 1 ∧ d.safety.pairState ≠ 3 ∧ ownMirrors d = [] ∧
    d.safety.joinWait = false ∧ d.safety.partnerDone = false ∧ { d with safety := { partnerDone := true } }.safety.partnerDone = true ∧
    (d.mem.allocs.map (·.1)).Nodup ∧ ownMirrors (withAlloc d 7 { hbm 64 with flags := 9 }) ≠ [] ∧ hasRoute (ports 0 2) (partnerAddr (ports 0 2)) = true := by decide +kernel
theorem test_fatal_fault : after (execFatalFault 3 (st up)) (fun d => (d.power.devState, d.safety.fatalCode, d.safety.pairState)) (0, 0, 0) = (2, 3, 3) := by decide +kernel

theorem witness_SelfTestResults : requestOk 0x203 = true ∧ bitf 0x203 8 1 = (0 : Fin 2).val ∧ (fget [] up.safety.testQ 0) = [] ∧ fget none up.safety.retired 0 = none ∧
    (nextTurn up 0).1 < 64 ∧ mayTurn up 0 = true ∧ atBoundary up (logicalTile 0 0) = true ∧ atBoundary (withThread ready) (logicalTile 0 0) = false ∧ (nextTurn up 0).2 = false := by
  decide +kernel
theorem witness_SelfTestResults_recovery : up.sec.recovery = false ∧ { up with sec := { up.sec with recovery := true } }.sec.recovery = true := ⟨rfl, rfl⟩
def testing : Dev := { up with safety := { testNow := [(0, some 5)], spareFor := [(0, some 5)] } }
theorem witness_SelfTestResults_end : fget none testing.safety.testNow 0 = some 5 ∧ fget none testing.safety.testDone 0 = none ∧ 5 < 64 ∧
    atBoundary testing (logicalTile 0 5) = true := by decide +kernel
theorem witness_SelfTestResults_curv : let d := { up with safety := { testQ := [(0, [(130, false)])] } }
    curvTurn d 0 = some 2 ∧ curvTesting d 0 = none ∧ atBoundary d (tileOfNat (128 + curvOf 0 2)) = true ∧ (getCurv d (curvOf 0 2)).grind = none ∧
    (getCurv d (curvOf 0 2)).sweep = [] ∧ curvTesting { d with curv := [(2, { testing := true })] } 0 = some 2 ∧ (getCurv d (curvOf 0 2)).script = none ∧
    jobHeld { d with safety := { testQ := [(0, [(130, true)])] }, curv := [(2, { job := some { words := [], j := 0, total := 1, ready := true } })] } 2 = true := by decide +kernel
theorem test_takeover : after (execSelftestTakeover 0 (st up)) (fun d => (fget none d.safety.testNow 0, fget none d.safety.spareFor 0)) (none, none) = (some 0, some 0) := by decide +kernel

/-! ### The host -/

/-- The helper's messages are whole. -/
theorem msg_whole (typ arg : Nat) (data : List Byte) (h : data.length % 64 = 0) : msgWhole (msg typ arg data) = true := by
  have : data.length % 64 == 0 := by simp [h]
  simp only [msgWhole, msg, Bool.and_eq_true, beq_iff_eq]
  exact ⟨h, rfl⟩
def linked : Dev := { up with host := { up := true } }
/-- A message whose CRC is wrong. -/
def broken : HostMsg := { msg 1 0 [] with crc := ~~~(msg 1 0 []).crc }
theorem witness_HostLink : msgWhole (msg 1 0 []) = true ∧ msgTaken 1 (msg 1 0 []) = true ∧ linked.host.up = true ∧ (msg 1 0 []).seq.toNat = linked.host.rxSeq ∧
    linked.host.waiting = [] ∧ linked.host.owed + 1 < 256 ∧ msgWhole broken = false ∧ linked.host.discarding = false ∧ msgTaken 1 (msg 1 0 zeros64) = false ∧
    msgWhole (msg 2 0 []) = true ∧ msgTaken 2 (msg 2 0 []) = true ∧ msgWhole (msg 0x40 0 []) = true ∧
    msgTaken 0x40 (msg 0x40 0 []) = true ∧ hostRoom linked.host .nak = true ∧ hostRoom { linked.host with credit := 0 } .nak = false ∧
    2 ≤ modulesIn (3 : BitVec 4).toNat ∧ modulesIn (1 : BitVec 4).toNat < 2 := by decide +kernel
/-- A message behind a gap, one taken before, and the message that is expected. -/
theorem witness_HostLink_order : let again := fun (s : Nat) => (linked.host.rxSeq + 2 ^ 32 - 1 - s) % 2 ^ 32 < 2 ^ 31
    ¬ again 5 ∧ again (2 ^ 32 - 1) ∧ ¬ again 0 ∧ (5 : Nat) ≠ linked.host.rxSeq ∧ 2 ^ 32 - 1 ≠ linked.host.rxSeq ∧ linked.host.discarding = false ∧
    { linked.host with discarding := true }.discarding = true := by decide +kernel
/-- Every message is whole once its CRC is that of its other fields. -/
theorem msgWhole_fixed (m : HostMsg) (h : m.data.length % 64 = 0) : msgWhole { m with crc := msgCrc m } = true := by
  have e : msgCrc { m with crc := msgCrc m } = msgCrc m := rfl
  simp [msgWhole, e, h]
theorem witness_HostLink_gap : ∃ m : HostMsg, msgWhole m = true ∧ m.seq.toNat = 5 :=
  ⟨_, msgWhole_fixed { msg 1 0 [] with seq := 5 } rfl, rfl⟩
theorem witness_HostLink_phases : { up with host := { linkPhase := 1 } }.host.linkPhase = 1 ∧ { up with host := { linkPhase := 2 } }.host.linkPhase = 2 ∧
    (∃ e ∈ { linked with host := { up := true, replay := [(0, 8, 0, .nop)] } }.host.replay, 8 ≤ e.2.1) ∧ alive linked = true := by decide +kernel
theorem test_nop_returns_credit : after (execNop (let m := { msg 1 0 [] with credit := 3 }; { m with crc := msgCrc m }) (st linked)) (fun d => (d.host.credit, d.host.rxSeq)) (0, 0) = (515, 1) := by decide +kernel
theorem test_bad_crc_naks_once : after (execNop broken (st linked)) (fun d => (d.host.discarding, d.host.sent.map (·.2.2.2))) (false, []) =
    (true, [.nak]) := by decide +kernel
/-- R325: SEQ begins again at 0 behind HELLO. -/
theorem test_hello_restarts_seq : after (execHello (msg 0x40 0 []) ⟨3, []⟩ (st { up with host := { linkPhase := 1, txSeq := 7, rxSeq := 9 } })) (fun d => (d.host.up, d.host.rxSeq)) (false, 9) =
    (true, 0) := by decide +kernel

def reading : Dev := { withAlloc linked 7 (hbm 4096) with host := { up := true, reads := [(0, some { what := .tier 7 0 9, bytes := 64 })] } }
theorem witness_HostQueues_data : let m := msg 0x11 0 zeros64
    msgTaken 0x11 m = true ∧ m.seq.toNat = reading.host.rxSeq ∧ fget none reading.host.reads 0 = some { what := .tier 7 0 9, bytes := 64 } ∧ getAlloc reading 7 = some (hbm 4096) ∧ tierOf (hbm 4096) ≠ 0 ∧
    m.data ≠ [] ∧ m.data.length ≤ 4096 ∧ 0 + m.data.length ≤ 64 ∧ m.tag.toNat = 0 ∧ bitf m.arg.toNat 16 2 = 0 := by decide +kernel
def queued : Dev := dset linked 0x2105 1 1
theorem witness_HostQueues : queueOn queued 0 = true ∧ (getHQ queued 0).error = false ∧ ctrDist 1 (getHQ queued 0).fetch ≤ ringS queued 0 ∧
    ctrDist (getHQ queued 0).write 0 < 2 ^ 31 ∧ ringS queued 0 < ctrDist 17 0 ∧ queued.power.devState = 1 ∧ queued.host.doorbells = [] ∧ 0 < cqFree queued 0 ∧
    tileOfCode 0 (0 % 128) (bitAt 0 7) = some 0 ∧ queueOn up 0 = false ∧ (getThread queued 0 0).st = .idle := by decide +kernel
theorem witness_HostQueues_wake : let d := dset { two ready { st := .blocked, wait := .swait 4 5 } with host := { up := true } } 0x2105 1 1
    (getThread d 0 1).wait = .swait 4 5 ∧ (∀ x ∈ (getSem d 0 5).waiters, x = .thread 1 (waiterN x)) ∧
    (∀ k ∈ [0, 1, 2], msgTaken 0x21 (msg 0x21 (k * 2 ^ 14) []) = true ∧ msgWhole (msg 0x21 (k * 2 ^ 14) []) = true ∧
      bitf (msg 0x21 (k * 2 ^ 14) []).arg.toNat 14 2 = k) ∧ msgTaken 0x20 (msg 0x20 0 []) = true := by decide +kernel
theorem witness_HostQueues_interrupt : fget false { linked with host := { irqOpen := [(3, true)] } }.host.irqOpen (3 : W16).toNat = true := by decide +kernel
/-- An INTERRUPT held back, with room for it, without, and behind another message. -/
theorem witness_HostQueues_interrupt_due : ∀ h ∈ [({ up := true, credit := 8, irqOpen := [(3, true)], irqDue := [(3, true)] } : HostSt),
      { irqOpen := [(3, true)], irqDue := [(3, true)] }, { irqOpen := [(3, true)], irqDue := [(3, true)], waiting := [.nop] }],
    fget false h.irqOpen (3 : W16).toNat = true ∧ fget false h.irqDue (3 : W16).toNat = true ∧ (3 : W16) ≠ 0xFFFF ∧
    hostRoom h (.interrupt 3) = h.up ∧ (∀ m ∈ h.waiting, hostRoom h m = false) := by decide +kernel
/-- A start doorbell for thread 0 of tile 0 at PC 0x40, to queue 0. -/
theorem test_doorbell_starts : after (execTdoorbellStart (let m := { msg 0x21 0 [] with addr := 0x40 }; { m with crc := msgCrc m }) (st queued)) (fun d => ((getThread d 0 0).st, (getThread d 0 0).pc)) (.idle, 0) =
    (.ready, 0x40) := by decide +kernel
theorem test_queue_overrun_sets_error : after (execQdoorbell (let m := { msg 0x20 0 [] with arg2 := 17 }; { m with crc := msgCrc m }) (st queued)) (fun d => (getHQ d 0).error) false = true := by decide +kernel

/-! ### Counters, events, throttling -/

def counting : Dev := { up with count := { busy := some (0, 1) } }
theorem witness_CounterResults : powered up = true ∧ up.count.busy = none ∧ counting.count.busy = some (0, 1) ∧ counting.count.selPending = [] ∧
    dget counting 0x4003 1 = 0 ∧ dget counting 0x4004 1 ≠ 1 ∧ dget (dset up 0x4002 1 100) 0x4002 1 ≠ 0 ∧ selOk false 0x11 = true ∧ selOk true 0x25 = true ∧
    selOk false 0x12 = false := by decide +kernel
/-- An image to offset 0 or 12,288 of allocation 7. -/
theorem witness_CounterResults_destination : let d := dset (withAlloc counting 7 (hbm 24576)) 0x4003 1 7
    let d := dset d 0x4003 2 2
    d.count.busy = some (0, 1) ∧ d.count.selPending = [] ∧ dget d 0x4003 1 ≠ 0 ∧ dget d 0x4004 1 ≠ 1 ∧ getAlloc d (dget d 0x4003 1) = some (hbm 24576) ∧
    tierOf (hbm 24576) = 1 ∧ d.mem.tierPoison = [] ∧ 12288 * ((d.count.seq + 1) % dget d 0x4003 2) + 12032 ≤ (hbm 24576).size := by decide +kernel
theorem test_selection_waits : after (execTileEventSelect false 0 3 (st counting)) (fun d => d.count.selPending) [] = [(false, 0, 3)] := by decide +kernel
theorem test_image_request_refused : after (execImageRequestDump (st counting)) (fun d => d.count.busy) none = some (0, 1) := by decide +kernel

def ev (sev : Nat) : Event := { code := 0x0023, sev := sev, source := 5, detail := zbytes 32 }
def logging (q : Nat) (folds : List Fold) : Dev :=
  { up with log := { recording := true, inbox := [ev 1], queue := List.replicate q (0, zeros64), folds := folds, total := q } }
def fold1 (n : Nat) : Fold := { code := 0x0023, sev := 1, source := 5, count := n, detail := [] }
theorem witness_RecorderResults : let d := logging 0 []
    d.log.recording = true ∧ d.log.droppedSince = 0 ∧ d.log.inbox[0]? = some (ev 1) ∧ d.log.queue.length < 60 ∧
    (d.log.folds.any fun w => w.code == 0x0023 && w.source == 5) = false ∧ ((logging 0 [fold1 0]).log.folds.any fun w => w.code == 0x0023 && w.source == 5) = true ∧
    (ev 1).sev ≤ 2 ∧ neverFolds (ev 1).code = false ∧ 60 ≤ (logging 60 []).log.queue.length ∧ (ev 1).sev < 3 := by decide +kernel
theorem witness_RecorderResults_program : let d := logging 1 []
    d.log.queue = (0, zeros64) :: [] ∧ d.mgmt.commit = none ∧ (logging 0 [fold1 0]).log.folds[0]? = some (fold1 0) ∧ (fold1 0).count = 0 ∧ (fold1 2).count ≠ 0 := by
  decide +kernel
/-- A Service session. -/
def ses (role : Nat) : Session := { id := 9, role := role, key := zbytes 32, path := .mailbox 0, claim := false }
def served (role : Nat) : Dev := { up with mgmt := { up.mgmt with sessions := [ses role], serving := true } }
theorem witness_RecorderResults_clear : findSession (served 2) (9 : W32).toNat = some (ses 2) ∧ 2 ≤ (ses 2).role ∧ (ses 2).claim = false ∧
    (served 2).sec.recovery = false := by decide +kernel
theorem test_fold_counts : after (execEventRecord 0 (st (logging 0 [fold1 0]))) (fun d => (d.log.queue, d.log.folds.map (·.count), dget d 0x5000 5)) ([], [], 0) =
    ([], [1], 1) := by decide +kernel
theorem test_record_program : after (execRecordProgram (st (logging 1 []))) (fun d => (d.log.queue, fget [] d.log.nor 0 == zeros64)) ([], false) = ([], true) := by
  decide +kernel

def reads (dk : Nat) : QuadReadings := { khz := (2250000, 2250000 - dk), mv := (750, 750), milliC := (50000, 50000) }
theorem witness_ThrottleResults : adjacent 0 1 = true ∧ overLimit (reads 200000) = true ∧ pairState_ up 0 1 ≠ 1 ∧ overLimit (reads 0) = false ∧ withinRelease (reads 0) = true ∧
    pairState_ { up with power := { up.power with pairs := [(pairKey 0 1, 1)] } } 0 1 = 1 ∧ (getQuad up 0).milliC < 100000 ∧ up.power.supply = 0 ∧ up.power.devState ≠ 2 := by
  decide +kernel
/-- The target of a rail lies in 680 to 820 mV. -/
theorem witness_ThrottleResults_droop : 0 + 15 < railTarget up 0 ∧ railTarget up 0 ≤ 820 + 15 := by
  have := (Config.railAbove (quadStep up 0) (getQuad up 0).milliC).isLt
  simp only [railTarget]
  omega
theorem witness_ThrottleResults_supply : let limit := f32Scaled (dget up 0xB007 2) * 1000
    up.power.samples = [] ∧ limit < 1300000 * 2 ^ 149 ∧ 100 * (1000000 * 2 ^ 149) < 97 * limit ∧ 97 * limit ≤ 100 * (1190000 * 2 ^ 149) ∧
    1190000 * 2 ^ 149 < limit := by decide +kernel
theorem witness_ThrottleResults_timers : let d := { up with power := { up.power with quads := [(0, { own := 1 })] } }
    (getQuad d 0).own ≠ 0 ∧ anyPair d 0 (· != 0) = false ∧ anyPair d 0 (· == 1) = false ∧ (getQuad d 0).milliC < 97000 ∧
    { d with power := { d.power with supply := 1 } }.power.supply = 1 ∧ tickOpen d 0 = false ∧ (getQuad d 0).own ≤ 10 ∧
    tickOpen { d with power := { d.power with tickTc := d.tc + 1, tickSteps := [(1, 3)] } } 1 = true := by decide +kernel
/-- Table 18-3: 100 °C lowers the quad by one step, 110 °C is fatal. -/
theorem test_thermal_step : after (execThermalSample 0 100000 (st up)) (fun d => (getQuad d 0).own) 9 = 1 := by decide +kernel
theorem test_thermal_fatal : after (execThermalSample 0 110000 (st up)) (fun d => (d.power.devState, d.safety.fatalCode)) (0, 0) = (2, 6) := by decide +kernel

/-! ### Resets and start-up -/

def powerOff : Dev := { up with power := { pwrGood := false } }
theorem witness_ResetResults : up.power.pwrGood = true ∧ powerOff.power.pwrGood = false ∧ up.power.resetN = true ∧ powered up = true ∧
    { up with mgmt := { up.mgmt with resetArmed := true } }.mgmt.resetArmed = true ∧ Dev.reset.power.devState = 0 ∧ Dev.reset.sec.recovery = false ∧
    Dev.reset.sec.lifecycle ≠ 4 ∧ { up with power := { resetN := false, tapIr := 3 } }.power.tapIr ∈ [0, 3, 4] ∧ up.mgmt.commit = none ∧ up.sec.recovery = false ∧
    powerOff.power.resetCause = 0 ∧ { powerOff with power := { resetCause := 1 } }.power.resetCause ≠ 0 ∧
    { powerOff with power := { pwrGood := false, resetN := false } }.power.resetN = false := by decide +kernel
/-- TRST_N is high and IDCODE is loaded, or TRST_N is low. -/
theorem witness_ResetResults_tap : let d := { up with power := { trstN := true, tapIr := 1 } }
    d.power.trstN = true ∧ d.power.tapIr = 1 ∧ (List.replicate 32 true).length = 32 ∧ { up with power := { trstN := false } }.power.trstN = false := by decide +kernel
theorem witness_StateAfterReset : powered Dev.reset = true ∧ Dev.reset.power.devState = 0 ∧ { up with sec := { lifeReq := some 3 } }.sec.lifeReq = some 3 ∧
    up.mgmt.commit = none := by decide +kernel
def atStep (n : Nat) : Dev := { Dev.reset with power := { step := n } }
theorem witness_StartupSteps : ∀ n ∈ [2, 3, 4, 5, 6, 7, 8, 9], powered (atStep n) = true ∧ (atStep n).power.devState = 0 ∧ (atStep n).sec.recovery = false ∧
    (atStep n).power.step = n ∧ (atStep n).sec.flashTag = (atStep n).sec.transitions ∧ (atStep n).mgmt.serving = false ∧ (atStep n).sec.lifecycle ≠ 4 ∧
    (atStep n).host.up = false := by decide +kernel
theorem test_step_two_fails : after (execStartupStepComplete false (st (atStep 2))) (fun d => (d.power.devState, d.safety.fatalCode)) (0, 0) = (2, 5) := by decide +kernel
theorem test_ready : after (execStartupStepComplete true (st (atStep 9))) (fun d => d.power.step) 0 = 10 := by decide +kernel
/-- R428: EXTEST is BYPASS while RESET_N is high. -/
theorem test_extest_is_bypass : after (execTapInstruction (.load 0) (st { up with power := { up.power with trstN := true } })) (fun d => d.power.tapIr) 0 = 0xFF := by
  decide +kernel
/-- R428: the identification register, bit 0 first; a bypass register of one bit. -/
theorem test_idcode_scan : after (execTapInstruction (.scan [] (List.replicate 4 false)) (st { up with power := { up.power with trstN := true, tapIr := 1 } }))
    (fun d => d.power.tapOut) [] = [true, true, false, false] := by decide +kernel
theorem test_power_fall_clears_threads : after (execPwrGoodFall (st (withThread (regs [(1, 5)])))) (fun d => (d.tiles, d.power.pwrGood)) ([(0, {})], true) =
    ([], false) := by decide +kernel

/-! ### Management, the dictionary, security -/

/-- A frame with OP `op`, session `s`, SEQ `q`, COUNT `n` and a body, with the TAG of a zero key. -/
def frame (op s q n : Nat) (body : List Byte) : List Byte :=
  let b := natLe 2 0x5057 ++ [1, 1] ++ natLe 2 (64 + body.length) ++ [0, 0] ++ natLe 4 s ++ natLe 4 q ++ [BitVec.ofNat 8 op, 0] ++ natLe 2 n ++ zbytes 12 ++ body
  b ++ hmac (zbytes 32) b
def datagram1 (b : List Byte) : Datagram := { src := 1, dst := 0, srcPort := 5, dstPort := 4810, checksumOk := true, fragmented := false, payload := b }
theorem witness_ManagementArrivals : portServes (served 0) = true ∧ (datagram1 []).checksumOk = true ∧ (datagram1 []).fragmented = false ∧ (datagram1 []).dstPort = 4810 ∧
    (served 0).mgmt.frames.length < 16 ∧ mailboxServes (served 0) = true ∧ bitf (64 : W64).toNat 0 16 ≤ 1280 ∧ 1 ≤ bitf (64 : W64).toNat 0 16 ∧
    bitf (2 ^ 31 : W64).toNat 0 16 = 0 ∧ 1280 < bitf (1281 : W64).toNat 0 16 ∧ 2 ^ 32 ≤ (2 ^ 32 : W64).toNat ∧ fget false (served 0).mgmt.lockout 0 = false := by decide +kernel
theorem witness_ManagementArrivals_address : ownIp (served 0) linkLocal = true := by simp [ownIp]
theorem witness_ManagementArrivals_lockout : 8 ≤ (recentFails { up with mgmt := { up.mgmt with failTimes := [(2, List.replicate 8 0)] } } 2).length := by
  have h : nowMs { up with mgmt := { up.mgmt with failTimes := [(2, List.replicate 8 0)] } } = 0 := by
    have : ({ up with mgmt := { up.mgmt with failTimes := [(2, List.replicate 8 0)] } } : Dev).tc = 0 := rfl
    rw [nowMs, this, Nat.zero_div]
  simp only [recentFails, h]
  decide +kernel
theorem witness_ManagementArrivals_mailbox : let d := { served 0 with host := { mailLen := 16, mailGot := zbytes 8 } }
    ((d.host.mailGot ++ natLe 8 0).length < d.host.mailLen) = False ∧ 0 < d.host.mailLen ∧ d.host.mailLen ≤ (d.host.mailGot ++ natLe 8 0).length := by decide +kernel

/-- Root container 5: LEN 40,000, master 6, no COMPLETE bank. -/
def precDev : Dev :=
  let d := withAlloc (withAlloc (withAlloc (withQueue 3 [precE]) 1 (hbm 4096)) 5 (hbm 100000)) 6 (hbm 4096)
  allocWrite (spWrite (spWrite d 0 0x400 [1]) 0 0x440 [1]) 5 0x18 (natLe 4 6 ++ natLe 4 40000)
theorem witness_PreconditionResult_fallback : let d := precDev
    let w := precE.words
    let words := fun (i : Nat) => toWords (dfield w i 23 6 + 1) (spRead d 0 (dfield w i 0 23) (4 * (dfield w i 23 6 + 1)))
    let h := allocRead d (wordAt w 5) 0 64
    d.mem.spPoison = [] ∧ anyWaits d [wordAt w 1, wordAt w 5] = false ∧ mapReserved (words 6) = false ∧ mapReserved (words 7) = false ∧ mapOk (dfield w 3 0 18) (mapSizes (words 6)) = true ∧
    mapOk (dfield w 4 0 18) (mapSizes (words 7)) = true ∧ getAlloc d (wordAt w 5) = some (hbm 100000) ∧ 64 + 2 * recf h 0x1C 4 ≤ 100000 ∧ preSmall d w = false ∧
    imgsBytes 8 (mapSizes (words 6)) + imgsBytes 8 (mapSizes (words 7)) ≤ recf h 0x1C 4 ∧
    (firstUse [rangeRead (asBefore d precE.id) (wordAt w 1) 0 0, rangeRead (asBefore d precE.id) (wordAt w 5) 0 64]).1 = 0 ∧ getAlloc d (recf h 0x18 4) = some (hbm 4096) ∧
    rootBank h (hbm 4096).counter = none := by decide +kernel
/-- Bank 0 is COMPLETE. -/
def rootedDev : Dev := allocWrite precDev 5 0x10 [1]
theorem witness_PreconditionResult_products : let d := rootedDev
    let w := precE.words
    let words := fun (i : Nat) => toWords (dfield w i 23 6 + 1) (spRead d 0 (dfield w i 0 23) (4 * (dfield w i 23 6 + 1)))
    let h := allocRead d (wordAt w 5) 0 64
    tileActs d 0 = true ∧ anyWaits d [wordAt w 1, wordAt w 5] = false ∧ getQueue d 0 3 = precE :: [] ∧ precE.org = .thread 0 1 none ∧ d.mem.spPoison = [] ∧ d.mem.tierPoison = [] ∧
    mapReserved (words 6) = false ∧ mapReserved (words 7) = false ∧ mapSizes (words 6) = [dfield w 3 0 18] ∧ mapSizes (words 7) = [dfield w 4 0 18] ∧
    mapOk 1 [1] = true ∧ dfield w 3 0 18 = 1 ∧ getAlloc d (wordAt w 1) = some (hbm 4096) ∧ tierOf (hbm 4096) = 1 ∧
    getAlloc d (wordAt w 5) = some (hbm 100000) ∧ 64 + 2 * recf h 0x1C 4 ≤ 100000 ∧ imgBytes 8 1 + imgBytes 8 1 ≤ recf h 0x1C 4 ∧
    preSmall d w = false ∧
    (firstUse [rangeRead (asBefore d precE.id) (wordAt w 1) 0 0, rangeRead (asBefore d precE.id) (wordAt w 5) 0 64]).1 = 0 ∧
    getAlloc d (recf h 0x18 4) = some (hbm 4096) ∧ rootBank h (hbm 4096).counter = some 0 := by decide +kernel

/-- FIPS 180-4, the digest of "abc". -/
theorem test_sha256_abc : sha256 [0x61, 0x62, 0x63] =
    [0xBA, 0x78, 0x16, 0xBF, 0x8F, 0x01, 0xCF, 0xEA, 0x41, 0x41, 0x40, 0xDE, 0x5D, 0xAE, 0x22, 0x23, 0xB0, 0x03, 0x61, 0xA3, 0x96, 0x17, 0x7A, 0x9C, 0xB4,
      0x10, 0xFF, 0x61, 0xF2, 0x00, 0x15, 0xAD] := by decide +kernel

/-- The device serves a frame that waits on mailbox path 0; its Observer key is 32 zero bytes. -/
def framed (b : List Byte) (role : Nat) : Dev :=
  { up with sec := { up.sec with roleKeys := [(0, zbytes 32)] }
            mgmt := { up.mgmt with sessions := [ses role], serving := true, frames := [(.mailbox 0, b)] } }
def openFrame : List Byte := frame 1 0 0 0 (zbytes 20)
theorem witness_DictionaryProtocol_open : let d := framed openFrame 0
    let b := openFrame
    powered d = true ∧ d.mgmt.serving = true ∧ d.mgmt.resetArmed = false ∧ d.mgmt.commit = none ∧ d.mgmt.frames = [(.mailbox 0, b)] ∧ opOf b = 1 ∧
    recf b 8 4 = 0 ∧ (bodyOf b).length = 20 ∧ openKey d (.mailbox 0) 0 = some (zbytes 32, false) ∧ headReserved b = false ∧ recf b 0x0C 4 = 0 ∧
    zeros (bodyOf b) 1 3 = true ∧ recf b 0x12 2 = 0 ∧ d.mgmt.sessions.length < 8 := by decide +kernel
theorem witness_DictionaryProtocol_tag : tagOk (zbytes 32) openFrame = true ∧ tagOk (List.replicate 32 1) openFrame = false := by decide +kernel
theorem witness_DictionaryProtocol_unlocked : locked (framed openFrame 0) 0 = false := by
  have h : recentFails (framed openFrame 0) 0 = [] := rfl
  rw [locked, h]
  rfl
def closeFrame : List Byte := frame 2 9 1 0 []
theorem witness_DictionaryProtocol_session : let d := framed closeFrame 2
    findSession d (recf closeFrame 8 4) = some (ses 2) ∧ samePath (ses 2).path (.mailbox 0) = true ∧ recf closeFrame 0x0C 4 = (ses 2).lastSeq + 1 ∧
    headReserved closeFrame = false ∧ opOf closeFrame = 2 ∧ bodyOf closeFrame = [] := by decide +kernel
theorem witness_DictionaryProtocol_session_tag : tagOk (ses 2).key closeFrame = true := by decide +kernel
/-- A READ of 0x9010:01. -/
def readFrame1 : List Byte := frame 0x10 9 1 1 ([0x10, 0x90, 1, 0] ++ zbytes 4)
theorem witness_DictionaryProtocol_read : let d := framed readFrame1 2
    let b := readFrame1
    opOf b = 0x10 ∧ (bodyOf b).length = 8 * recf b 0x12 2 ∧ recf b 0x12 2 = 1 ∧ recf (bodyOf b) 3 1 = 0 ∧ recf (bodyOf b) 4 4 = 0 ∧
    servedEntry d (recf (bodyOf b) 0 2) (recf (bodyOf b) 2 1) = some ⟨2, 2, 1, 1⟩ ∧ openEntry d 0x9010 1 = false ∧ liveVal d (some (ses 2)) 0x9010 1 = none := by
  decide +kernel
theorem witness_DictionaryProtocol_read_tag : tagOk (ses 2).key readFrame1 = true := by decide +kernel
/-- A WRITE of 0 to 0x1002:04. -/
def writeFrame1 : List Byte := frame 0x11 9 1 1 ([0x02, 0x10, 4, 1, 0, 0, 1, 0] ++ zbytes 4)
def item1 : WItem := ⟨0x1002, 4, 1, 0, [0], true⟩
theorem witness_DictionaryProtocol_write : let d := framed writeFrame1 2
    opOf writeFrame1 = 0x11 ∧ recf writeFrame1 0x12 2 = 1 ∧ servedEntry d 0x1002 4 = some ⟨1, 1, 2, 1⟩ ∧ plainEntry 0x1002 4 = true ∧ (ses 2).claim = false ∧
    valueStatus d 0x1002 4 ⟨1, 1, 2, 1⟩ (leNat item1.val) = stOk ∧ item1.val.length = 1 := by decide +kernel
theorem witness_DictionaryProtocol_write_item : (match parseItems 1 (bodyOf writeFrame1) with
    | some [w] => w.index == item1.index && w.sub == item1.sub && w.ty == item1.ty && w.off == item1.off && w.val == item1.val && w.padOk == item1.padOk
    | _ => false) = true := by decide +kernel
theorem witness_DictionaryProtocol_write_tag : tagOk (ses 2).key writeFrame1 = true := by decide +kernel
def worn : Dev := { up with mgmt := { up.mgmt with wear := [(ekey 0x9010 1, 100000)] } }
theorem witness_DictionaryProtocol_register : entryAt 0x9010 1 = some ⟨2, 2, 1, 1⟩ ∧ plainEntry 0x9010 1 = true ∧ valueStatus up 0x9010 1 ⟨2, 2, 1, 1⟩ 2 = stOk ∧
    wornOut up 0x9010 1 2 = false ∧ wornOut worn 0x9010 1 2 = true ∧ dget up 0x9010 1 ≠ 2 ∧ (served 0).mgmt.serving = true ∧ up.mgmt.serving = false := by decide +kernel
theorem witness_DictionaryProtocol_static : staticOk (addrOf (0x20010DB8000000000000000000000001 : BitVec 128).toNat) = true ∧
    wornOut up 0x3100 3 (addrOf (0x20010DB8000000000000000000000001 : BitVec 128).toNat) = false ∧ wornOut up 0x3100 4 64 = false ∧
    up.sec.recovery = false := by decide +kernel
def committing : Dev :=
  { up with mgmt := { up.mgmt with commit := some ⟨.mailbox 0, 9, [1], [2], [(0x9010, 1, 0)], true, none, false⟩ } }
theorem witness_DictionaryProtocol_commit : ∃ c, committing.mgmt.commit = some c ∧ c.nor = true ∧ c.recno = none ∧ c.items = [(0x9010, 1, 0)] :=
  ⟨_, rfl, rfl, rfl, rfl⟩

/-! ### Security -/

theorem witness_SecurityResults : let d := framed [] 2
    powered d = true ∧ d.sec.recovery = false ∧ d.mgmt.commit = none ∧ findSession d (9 : W32).toNat = some (ses 2) ∧ (ses 2).claim = false ∧ d.sec.fwResult ≠ 1 ∧ d.sec.stageBuf.length < 64 ∧
    dget d 0x8030 1 < 8 * 2 ^ 20 ∧ d.sec.attState ≠ 1 ∧ d.sec.leafUsed < 1048576 ∧ lifecycleStatus d 2 3 = stOk ∧ lifecycleStatus d 2 1 ≠ stOk ∧
    roleKeyStatus d (ses 2) 1 (List.replicate 32 1) = stOk ∧ roleKeyStatus d (ses 2) 1 (zbytes 32) ≠ stOk := by decide +kernel
/-- A key masked twice is the key, so every key is the operand of some write. -/
theorem witness_SecurityResults_key : (keyMask (ses 2) 1 1).length = 32 := by decide +kernel
/-- A staged image without the mark of R363 fails its check; whether a signature holds is Config's, so the check that passes is
met by the opaque function's value. -/
def unsigned : Dev := slotWrite { up with sec := { up.sec with fwResult := 1 } } 1 0 (zbytes 4)
theorem witness_SecurityResults_check : unsigned.sec.fwResult = 1 ∧ unsigned.sec.stageBuf = [] ∧ stagedSlot unsigned = 1 ∧ slotCheck unsigned 1 ≠ 0 := by decide +kernel
theorem witness_SecurityResults_work : { up with sec := { up.sec with stageBuf := [(1024, zbytes 1024)] } }.sec.stageBuf = (1024, zbytes 1024) :: [] ∧
    { up with sec := { up.sec with attState := 1 } }.sec.attState = 1 := ⟨rfl, rfl⟩
theorem witness_SecurityResults_life : { up with sec := { up.sec with lifeReq := some 3 } }.sec.lifeReq = some 3 := rfl
/-- Table 16-5: DEPLOYED may go to RMA by a Service session, not back to PROVISIONED. -/
theorem test_life_request : after (execLifecycleRequest 9 3 (st (framed [] 2))) (fun d => d.sec.lifeReq) none = some 3 := by decide +kernel

/-! ### The rules stated whole -/

theorem witness_BoardMesh : bitf (dget up 0x6020 1) 40 2 = 0 ∧ portMode up 0 ≠ 2 ∧ ownAddr up % 256 < 8 := by decide +kernel
theorem witness_BoardMesh_check : let d := dset (dset up 0x6020 1 (2 ^ 40)) 0x6020 2 (2 ^ 41)
    let long := { up with fab := { ports := [(7, { mode := some 2 })] } }
    bitf (dget d 0x6020 1) 40 2 = 1 ∧ bitf (dget d 0x6020 2) 40 2 = 2 ∧ bitf (dget up 0x6020 8) 40 2 = 0 ∧ portMode up 7 ≠ 2 ∧ portMode long 7 = 2 ∧
    bitf (dget long 0x6020 8) 40 2 = 0 ∧ bitf (dget up 0x6020 16) 40 2 = 0 ∧ portMode up 15 ≠ 2 ∧ ownAddr up < 2 ^ 32 ∧
    ownAddr (dset up 0x6001 1 0x100) ≠ 0 ∧ recf (rec_ 1 [(2, 1)]) 2 1 = 1 ∧ bitf (3 * 2 ^ 40) 40 2 = 3 := by decide +kernel
theorem witness_LogWindow : powered up = true ∧ up.sec.recovery = false ∧ (ses 2).claim = false ∧ findSession (framed [] 2) 9 = some (ses 2) ∧ (logging 1 []).log.total ≤ 1 ∧
    { up with log := { total := 1, nor := [(0, zeros64)] } }.log.total = 1 ∧
    (fget [] { up with log := { total := 1, nor := [(0, zeros64)] } }.log.nor 0).length = 64 := by decide +kernel

end Sys2Proof.Tests
end

section
/-!
PROOFS. The board mesh (R242) and the wiring check (R278): what `wiringOk` accepts for each value of CHECK and each kind of port, what
the dictionary refuses, and which mesh port leads to a board peer.
-/
namespace Sys2Proof.Machine

/-- A field of a record, in the arithmetic that `omega` reads. -/
theorem bitf_eq_div_mod (v lo len : Nat) : bitf v lo len = v / 2 ^ lo % 2 ^ len := by
  rw [bitf, Nat.shiftRight_eq_div_pow]

/-- The pair partner's address differs from the own one in the lowest bit alone (Table 12-4, P15). -/
theorem partnerAddr_eq_xor_one (d : Dev) : partnerAddr d = ownAddr d ^^^ 1 := by
  have hdiv : (ownAddr d ^^^ 1) / 2 = ownAddr d / 2 := by
    rw [Nat.xor_div_two]
    exact Nat.xor_zero _
  have hmod : (ownAddr d ^^^ 1) % 2 = 1 ↔ ¬ ownAddr d % 2 = 1 := by
    simp only [Nat.xor_mod_two_eq_one, Nat.one_mod, iff_true]
  unfold partnerAddr
  omega

/-! ### What the wiring check accepts (Tables 12-3 and 12-4) -/

section Wiring
variable {d : Dev} {p faddr port : Nat}

/-- CHECK 0b01: the peer that the entry names. -/
theorem wiringOk_explicit_iff (h : bitf (dget d 0x6020 (p + 1)) 40 2 = 1) : wiringOk d p faddr port = true ↔
    faddr = bitf (dget d 0x6020 (p + 1)) 0 32 ∧ port = bitf (dget d 0x6020 (p + 1)) 32 8 := by
  simp [wiringOk, h]

/-- CHECK 0b10: any peer. -/
theorem wiringOk_of_check_none (h : bitf (dget d 0x6020 (p + 1)) 40 2 = 2) : wiringOk d p faddr port = true := by
  simp [wiringOk, h]

/-- CHECK 0b00 on a LONG port: no peer. -/
theorem wiringOk_derived_long (h : bitf (dget d 0x6020 (p + 1)) 40 2 = 0) (hm : portMode d p = 2) :
    wiringOk d p faddr port = false := by
  simp [wiringOk, h, hm]

/-- CHECK 0b00 on a mesh port: the device p + 1 positions on, at the mirrored port (R242). -/
theorem wiringOk_derived_mesh_iff (h : bitf (dget d 0x6020 (p + 1)) 40 2 = 0) (hm : portMode d p ≠ 2) (hp : p < 7) :
    wiringOk d p faddr port = true ↔
      faddr = ownAddr d / 256 * 256 + (ownAddr d % 256 + p + 1) % 8 ∧ port = 6 - p := by
  simp [wiringOk, h, hm, hp]

/-- CHECK 0b00 on a plane port: the rack's switch of that plane, at the port of this board and position. -/
theorem wiringOk_derived_plane_iff (h : bitf (dget d 0x6020 (p + 1)) 40 2 = 0) (hm : portMode d p ≠ 2) (hlo : 7 ≤ p) (hhi : p < 15) :
    wiringOk d p faddr port = true ↔ ownAddr d / 256 % 256 < 8 ∧
      faddr = ownAddr d / 65536 * 65536 + (0xF0 + (p - 7)) * 256 ∧ port = 8 * (ownAddr d / 256 % 256) + ownAddr d % 256 := by
  simp [wiringOk, h, hm, hhi, Nat.not_lt.mpr hlo, and_assoc]

/-- CHECK 0b00 on P15: the pair partner's P15. -/
theorem wiringOk_derived_pair_iff (h : bitf (dget d 0x6020 (15 + 1)) 40 2 = 0) (hm : portMode d 15 ≠ 2) :
    wiringOk d 15 faddr port = true ↔ faddr = ownAddr d ^^^ 1 ∧ port = 15 := by
  simp [wiringOk, h, hm, partnerAddr_eq_xor_one]

end Wiring

/-- With an address of its own, a device answers a peer of the wrong ROLE with code 2, whatever else holds (Table 12-5). -/
theorem identCheck_of_wrong_role (d : Dev) (p : Nat) (r : List Byte) (ho : ownAddr d ≠ 0)
    (hr : recf r 2 1 ≠ if 7 ≤ p ∧ p ≤ 14 then 1 else 0) : identCheck d p r = 2 := by
  have hplane : recf r 2 1 ≠ b2n (decide (7 ≤ p) && decide (p ≤ 14)) := by simpa [b2n] using hr
  simp [identCheck, firstCode, ho, hplane]

/-! ### A write with CHECK 0b11 (R278) -/

/-- What a wiring map entry takes: no set bit above CHECK, and no CHECK 0b11. -/
theorem valueStatus_wiring (d : Dev) (sub : Nat) (e : Entry) (v : Nat) : valueStatus d 0x6020 sub e v =
    if e.ty = 1 ∧ v > 1 then stRange
    else if e.ty = 7 ∧ v % 2 ^ 31 > 0x7F800000 then stRange
    else if v / 2 ^ 42 ≠ 0 then stReserved else if bitf v 40 2 = 3 then stRange else stOk := rfl

/-- No value with CHECK 0b11 passes, whatever its size. -/
theorem valueStatus_ne_ok_of_check_reserved (d : Dev) (sub : Nat) (e : Entry) (v : Nat) (h : bitf v 40 2 = 3) :
    valueStatus d 0x6020 sub e v ≠ stOk := by
  rw [valueStatus_wiring, if_pos h]
  split
  · decide
  · split
    · decide
    · split <;> decide

/-- A value that its entry's own check refuses leaves the device as it was. -/
theorem registerWrite_refused (d : Dev) (i sub v : Nat) (h : ∀ e, valueStatus d i sub e v ≠ stOk) : registerWrite d i sub v = d := by
  unfold registerWrite
  split
  · rfl
  · simp [h]

/-- REGISTER_WRITE of a refused value completes and changes nothing. -/
theorem registerWrite_completes_unchanged (s : State) (i : W16) (sub : Byte) (v : Nat)
    (h : ∀ e, valueStatus s.dev i.toNat sub.toNat e v ≠ stOk) : completes (.registerWrite i sub v) s (· = s) := by
  have hexec : exec (.registerWrite i sub v) s = execRegisterWrite i sub v s := rfl
  refine ⟨s, ?_, rfl⟩
  rw [hexec, execRegisterWrite, run, registerWrite_refused s.dev i.toNat sub.toNat v h, ite_self]

/-! ### The mesh port toward a board peer (R242) -/

theorem meshPort_eq_some_iff (p q k : Nat) : meshPort p q = some k ↔ (q % 8 + 8 - p % 8) % 8 = k + 1 := by
  unfold meshPort
  split
  next h => simp [h]
  next j h => simp [h]

/-- The two ends of a mesh link name each other, at ports k and 6 − k. -/
theorem meshPort_ends (p k : Nat) (hp : p < 8) (hk : k < 7) :
    meshPort p ((p + k + 1) % 8) = some k ∧ meshPort ((p + k + 1) % 8) p = some (6 - k) := by
  rw [meshPort_eq_some_iff, meshPort_eq_some_iff]
  omega

end Sys2Proof.Machine

open Sys2Proof Sys2Proof.Machine

/-- Settles O58: the mesh and the derived check from the lemmas on `wiringOk`, the refusal from what a wiring map entry takes, the links
from the residue that `meshPort` reads. -/
theorem boardMesh : Obligations.BoardMesh := by
  unfold Obligations.BoardMesh
  refine ⟨?mesh, ?check, ?refused, ?peer, ?ends⟩
  case mesh =>
    intro d k faddr port hk hchk hmode _
    exact wiringOk_derived_mesh_iff hchk hmode hk
  case check =>
    intro d p faddr port _
    refine ⟨wiringOk_explicit_iff, wiringOk_of_check_none, wiringOk_derived_long, ?plane, ?pair, identCheck_of_wrong_role d p⟩
    case plane =>
      intro hchk hmode hlo hhi
      have hboard : bitf (ownAddr d) 8 8 = ownAddr d / 256 % 256 := bitf_eq_div_mod _ 8 8
      have hpos : bitf (ownAddr d) 0 8 = ownAddr d % 256 := by simp [bitf_eq_div_mod]
      rw [hboard, hpos]
      exact wiringOk_derived_plane_iff hchk hmode hlo (by omega)
    case pair =>
      rintro hchk hmode rfl -
      exact wiringOk_derived_pair_iff hchk hmode
  case refused =>
    intro s p v _ hv
    refine ⟨fun d e => valueStatus_ne_ok_of_check_reserved d (p + 1) e v hv, registerWrite_completes_unchanged s _ _ v fun e => ?_⟩
    exact valueStatus_ne_ok_of_check_reserved s.dev _ e v hv
  case peer =>
    intro p q k hp hq _
    rw [meshPort_eq_some_iff]
    omega
  case ends =>
    rintro p k q hp hk rfl
    exact meshPort_ends p k hp hk
end

section
/-!
PROOFS. The log window (R390, R393): its bytes record by record, and the cursor that a session brings, from OPEN to its end.
-/
namespace Sys2Proof.Machine

/-! ### The window's bytes (R390, R393) -/

/-- Of blocks of one length laid end to end, block `i` stands at `i` times the length. -/
theorem take_drop_flatMap_block {α β : Type} (f : α → List β) (k : Nat) (h : ∀ a, (f a).length = k) (l : List α) (i : Nat)
    (hi : i < l.length) : ((l.flatMap f).drop (k * i)).take k = f l[i] := by
  induction l generalizing i with
  | nil => simp at hi
  | cons a l ih =>
    cases i with
    | zero => simp [← h a]
    | succ i =>
      have hnext : k * (i + 1) = (f a).length + k * i := by rw [h a, Nat.mul_succ, Nat.add_comm]
      rw [List.flatMap_cons, hnext, ← List.drop_drop, List.drop_left]
      exact ih i (by simpa using hi)

@[simp] theorem readRecord_length (d : Dev) (n : Nat) : (readRecord d n).length = 64 := by
  unfold readRecord
  split
  · exact padTo_length 64 _
  · exact List.length_replicate

theorem logWindow_length (d : Dev) (cursor : Nat) : (logWindow d cursor).length = 1024 := by
  simp only [logWindow, List.length_flatMap, readRecord_length, List.map_const', List.length_range, List.sum_replicate_nat]

theorem logWindow_record (d : Dev) (cursor i : Nat) (hi : i < 16) :
    ((logWindow d cursor).drop (64 * i)).take 64 = readRecord d (cursor + i) := by
  have hblock := take_drop_flatMap_block (fun j => readRecord d (cursor + j)) 64 (fun j => readRecord_length d _) (List.range 16) i
    (by simpa using hi)
  simpa [logWindow] using hblock

/-- A number not yet given, or one of the ring that is overwritten or cleared, shows zeros. -/
theorem readRecord_unreadable (d : Dev) (n : Nat) (h : d.log.total ≤ n ∨ (512 ≤ n ∧ n < ringFirst d)) :
    readRecord d n = zbytes 64 := if_neg (by omega)

/-- A whole block needs no padding. -/
theorem padTo_of_length (n : Nat) (b : List Byte) (h : b.length = n) : padTo n b = b := by
  subst h
  simp [padTo, zbytes]

theorem readRecord_readable (d : Dev) (n : Nat) (ht : n < d.log.total) (hr : n < 512 ∨ ringFirst d ≤ n)
    (hl : (fget [] d.log.nor n).length = 64) : readRecord d n = fget [] d.log.nor n := by
  rw [readRecord, if_pos ⟨ht, hr⟩, padTo_of_length 64 _ hl]

/-! ### Sessions by identifier -/

/-- A session found bears the identifier that was looked for. -/
theorem findSession_id {d : Dev} {i : Nat} {x : Session} (h : findSession d i = some x) : x.id = i := by
  simpa using List.find?_some h

/-- A change of one session that keeps its identifier is seen under that identifier and no other. -/
theorem findSession_modSession (d : Dev) (ses i : Nat) (f : Session → Session) (hid : ∀ x, (f x).id = x.id) :
    findSession (modSession d ses f) i = (findSession d i).map fun x => if i = ses then f x else x := by
  have hkey : (fun x : Session => (if x.id == ses then f x else x).id == i) = fun x => x.id == i := by
    funext x
    split <;> simp [hid]
  rw [findSession, modSession, modMgmt_mgmt, updWhere, List.find?_map, Function.comp_def, hkey, ← findSession]
  refine Option.map_congr fun x hx => ?_
  simp [findSession_id hx]

/-- The sessions other than `ses`: none is found under that identifier. -/
theorem findSession_endSession (d : Dev) (ses : Nat) :
    findSession (modMgmt d fun m => { m with sessions := m.sessions.filter fun x => x.id != ses }) ses = none := by
  simp [findSession]

/-- LOG_CURSOR sets the cursor of the session it names, unless that is a claim's, and no other session changes. -/
theorem logCursor_sessions (s n : State) (ses v : W32) (hp : powered s.dev = true) (hr : s.dev.sec.recovery = false)
    (h : execLogCursor ses v s = .next n) :
    (∀ y, findSession s.dev ses.toNat = some y → y.claim = false → findSession n.dev ses.toNat = some { y with cursor := v.toNat }) ∧
    (∀ i, i ≠ ses.toNat → findSession n.dev i = findSession s.dev i) := by
  simp only [execLogCursor, run, hp, hr, Bool.not_true, Bool.or_self, Bool.false_eq_true, if_false] at h
  cases h
  cases hx : findSession s.dev ses.toNat with
  | none => simp
  | some x =>
    have hid := findSession_id hx
    cases hclaim : x.claim with
    | true => simp [hclaim]
    | false =>
      have hset := fun i => findSession_modSession s.dev ses.toNat i (fun y => { y with cursor := v.toNat }) fun _ => rfl
      simp only [hid, hclaim, Bool.false_eq_true, if_false, hset]
      constructor
      · intro y hy _
        simp [hx, Option.some.inj hy]
      · intro i hi
        simp [hi]

/-! ### Where a session's cursor comes from -/

/-- Each session of `n` has cursor 0, or has the cursor that a session of the same identifier has in `d`. -/
def CursorsFrom (d n : Dev) : Prop :=
  ∀ y ∈ n.mgmt.sessions, y.cursor = 0 ∨ ∃ x ∈ d.mgmt.sessions, x.id = y.id ∧ x.cursor = y.cursor

theorem CursorsFrom.of_eq {d n : Dev} (h : n.mgmt.sessions = d.mgmt.sessions) : CursorsFrom d n :=
  fun y hy => .inr ⟨y, h ▸ hy, rfl, rfl⟩

theorem CursorsFrom.refl (d : Dev) : CursorsFrom d d := .of_eq rfl

theorem CursorsFrom.trans {d e n : Dev} (hde : CursorsFrom d e) (hen : CursorsFrom e n) : CursorsFrom d n := by
  intro y hy
  obtain h0 | ⟨x, hx, hid, hcur⟩ := hen y hy
  · exact .inl h0
  · rw [← hid, ← hcur]
    exact hde x hx

/-- A change of a session that keeps its identifier and its cursor. -/
theorem cursorsFrom_modSession (d : Dev) (ses : Nat) (f : Session → Session) (hf : ∀ x, (f x).id = x.id ∧ (f x).cursor = x.cursor) :
    CursorsFrom d (modSession d ses f) := by
  intro y hy
  obtain ⟨x, hx, rfl⟩ := List.mem_map.mp hy
  refine .inr ⟨x, hx, ?_⟩
  split
  · exact ⟨(hf x).1.symm, (hf x).2.symm⟩
  · exact ⟨rfl, rfl⟩

/-- The session that OPEN makes begins with cursor 0. -/
theorem cursorsFrom_openBody (d : Dev) (p : Path) (b : List Byte) (r : Nat) (key : List Byte) (claim : Bool) :
    CursorsFrom d (openBody d p b r key claim) := by
  unfold openBody
  simp only
  split
  · exact .of_eq rfl
  split
  · exact .of_eq rfl
  split
  · exact .of_eq rfl
  next =>
    intro y hy
    obtain hold | hnew := List.mem_append.mp hy
    · exact .inr ⟨y, hold, rfl, rfl⟩
    · exact .inl (by rw [List.mem_singleton.mp hnew])

theorem cursorsFrom_openFrame (d : Dev) (p : Path) (b : List Byte) : CursorsFrom d (openFrame d p b) := by
  unfold openFrame
  simp only
  split
  · exact .of_eq rfl
  split
  · exact .of_eq rfl
  split
  · exact .of_eq rfl
  split
  · exact .of_eq rfl
  split
  · exact cursorsFrom_openBody d p b _ _ _
  · exact .of_eq rfl

/-- A request of a session leaves the cursors that its handler `f` leaves. -/
theorem cursorsFrom_sessionFrame (d : Dev) (p : Path) (b : List Byte) (f : Dev → Session → Nat → Answer)
    (hf : ∀ e x seq, CursorsFrom e (f e x seq).dev) : CursorsFrom d (sessionFrame d p b f) := by
  unfold sessionFrame
  simp only
  split
  · exact .of_eq rfl
  next x _ =>
    split
    · exact .of_eq rfl
    split
    · exact .of_eq rfl
    split
    · exact .of_eq rfl
    have hseq := cursorsFrom_modSession d x.id
      (fun y => { y with lastSeq := recf b 0x0C 4, lastTag := b.drop (b.length - 32) }) fun _ => ⟨rfl, rfl⟩
    generalize modSession d x.id _ = e at hseq ⊢
    have hanswer : CursorsFrom d (if headReserved b then { dev := e, status := stReserved } else f e x (recf b 0x0C 4) : Answer).dev := by
      split
      · exact hseq
      · exact hseq.trans (hf e x _)
    generalize (if headReserved b then _ else _ : Answer) = a at hanswer ⊢
    split
    · exact hanswer.trans (cursorsFrom_modSession (reply a.dev p _) x.id _ fun _ => ⟨rfl, rfl⟩)
    · exact hanswer

/-- The answers to unlisted OPs. -/
theorem cursorsFrom_skipUnlisted (n : Nat) (d : Dev) : CursorsFrom d (skipUnlisted n d) := by
  induction n generalizing d with
  | zero => exact .refl d
  | succ n ih =>
    unfold skipUnlisted
    split
    next p b _ =>
      split
      · exact .refl d
      · have htake : CursorsFrom d (takeFrame d) := .of_eq rfl
        exact (htake.trans (cursorsFrom_sessionFrame _ p b _ fun e _ _ => .refl e)).trans (ih _)
    · exact .refl d

/-- A head frame leaves the cursors that its handler `f` leaves. -/
theorem cursorsFrom_onFrame (d : Dev) (op : Nat) (f : Dev → Path → List Byte → Dev) (hf : ∀ e p b, CursorsFrom e (f e p b)) :
    CursorsFrom d (onFrame d op f) := by
  unfold onFrame
  have hskip := cursorsFrom_skipUnlisted d.mgmt.frames.length d
  simp only
  split
  next p b _ =>
    split
    · have htake : CursorsFrom _ (takeFrame (skipUnlisted d.mgmt.frames.length d)) := .of_eq rfl
      exact (hskip.trans htake).trans (hf _ p b)
    · exact hskip
  · exact hskip

end Sys2Proof.Machine

open Sys2Proof Sys2Proof.Machine

/-- Settles O59: the window from its 16 blocks of 64 bytes, OPEN from where each handler of a frame takes the cursors, the cursor's
write and the session's end from what `findSession` answers after them. -/
theorem logWindow : Obligations.LogWindow := by
  unfold Obligations.LogWindow
  refine ⟨?window, ?opened, ?written, ?ended⟩
  case window =>
    intro d x
    exact ⟨rfl, logWindow_length d x.cursor, logWindow_record d x.cursor, readRecord_unreadable d, readRecord_readable d⟩
  case opened =>
    intro s
    refine ⟨_, rfl, cursorsFrom_onFrame s.dev 0x01 _ fun d p b => ?_⟩
    split
    · exact cursorsFrom_openFrame d p b
    · exact cursorsFrom_sessionFrame d p b _ fun e _ _ => .refl e
  case written =>
    intro s ses v hp hr
    exact ⟨_, rfl, logCursor_sessions s _ ses v hp hr rfl⟩
  case ended =>
    intro s ses hp
    refine ⟨_, rfl, ?_⟩
    simp only [hp, if_true]
    exact findSession_endSession s.dev ses.toNat
end
